-- ==== Sys2Proof/Word.lean ====
section
/-!
DEFINITION. The word types of the machine and their plainest helpers (00 R2: bit 0 is the least significant bit).
-/
namespace Sys2Proof

/-- A byte of memory. -/
abbrev Byte := BitVec 8
/-- A general register, a doubleword of memory (00 R2). -/
abbrev Word := BitVec 64
/-- A vector register of the Tammond, 2048 bits (00, 13 R314). -/
abbrev VReg := BitVec 2048
/-- A predicate register, one bit per byte lane (11 R262, 13 R314). -/
abbrev PReg := BitVec 256
/-- A digest value of GF(2^128) (08 R211). -/
abbrev Dig := BitVec 128

/-- Bits [hi:lo] of `x`, as a natural number. -/
def bits {n : Nat} (x : BitVec n) (hi lo : Nat) : Nat := (x.toNat >>> lo) % 2 ^ (hi + 1 - lo)

/-- One bit of `x`. -/
def bit {n : Nat} (x : BitVec n) (i : Nat) : Bool := x.toNat.testBit i

/-- A 64-bit word from a number, wrapping. -/
def w64 (n : Nat) : Word := BitVec.ofNat 64 n

/-- The number that Boolean `b` stands for. -/
def b2n (b : Bool) : Nat := if b then 1 else 0

end Sys2Proof
end

