-- ==== Sys2Proof/Config.lean ====
section
/-!
DEFINITION. What the spec leaves to the part or leaves open: free values without a body, each applied to the counter that
the step advances or to what it depends on. No proof can learn one of them (DESIGN CHOICE, notes/assumptions/6).
-/
namespace Sys2Proof.Config

/-- Which of several enabled agents takes the next step (03 R94): reduced modulo their number. -/
opaque choose : Nat → Nat
/-- CYCLE of a core in a task that is not deterministic (11 R275). -/
opaque cycle : Nat → Word
/-- Headgate cycles at a moment (20 R409). -/
opaque headgate : Nat → Nat
/-- The die's cycle count at a latch (25 R470). -/
opaque latch : Nat → Word
/-- Temperature and hottest site at a latch (25 R469), temperature in 1/16 degree. -/
opaque temperature : Nat → BitVec 16
opaque hotSite : Nat → BitVec 10
/-- The power estimate of an interval in watts (25 R471). -/
opaque power : Nat → Nat
/-- The corrected-error count of a channel has passed the firmware's threshold (21 R443). -/
opaque channelWorn : Nat → Bool
/-- The accesses that the device has counted of a page in the second tier (21 R450). -/
opaque accesses : Nat → Word
/-- Granules that the compressor reaches for a block, less one (21 R436). -/
opaque granules : Nat → BitVec 3
/-- A flit arrives intact over a link (22 R462). -/
opaque flitOk : Nat → Bool
/-- A memory module trains (22 R459 stage 3), the dies and links join (stage 7). -/
opaque trained : Nat → Bool
opaque dieJoined : Nat → Bool
/-- The firmware that the part was made with, first-stage or of a die: its signature verifies, its security version number
is at least the fused one (22 R454). -/
opaque imageOk : Nat → Bool
opaque imageFresh : Nat → Bool
/-- The fuse map of a die: site fused off (22 R460). -/
opaque fused : Nat → Nat → Bool
/-- The boot stub's length in flits, less one (22 R462). -/
opaque stubFlits : BitVec 10
/-- The fused security version number as the part was made, and whether a boot that succeeded raises it (22 R454, R455). -/
opaque fusedSvn : Nat
opaque raiseSvn : Nat → Bool
/-- The measurements of what the part was made with (22 R453). -/
opaque measure : Nat → BitVec 256
/-- Digests, certificates and signatures that SPDM carries (22 R451 to R453), by request and counter. -/
opaque spdmBytes : Nat → Nat → List Byte
/-- Which of two writes of one register in one window stands last (15 R378). -/
opaque either : Nat → Bool
/-- A byte of a save area outside its AB part, by moment and offset: its form is the restore's alone (20 R417, 02 R57). -/
opaque savedByte : Nat → Nat → Byte
/-- An envelope entry rebuilt from no slot (06 R162). -/
opaque emptyEnvelope : Nat → BitVec 32
/-- Which of the values that a snapshot load may return it returns (02 R55): by moment and word, reduced modulo their number. -/
opaque stale : Nat → Nat → Nat
/-- The module's index in the pod and whether a peer can be reached (12 R308). -/
opaque reachable : Nat → Nat → Bool

end Sys2Proof.Config
end

