-- ==== Sys2Proof/Fields.lean ====
section
/-!
DEFINITION. The operand fields of the instructions, grouped as the formats of 10 R241 to R247 and the chapters 11 to 15
group them, and the plain data that the device's own steps carry.
-/
namespace Sys2Proof

/-- A register field of five bits (10 R239). -/
abbrev R5 := BitVec 5

/-- The operand that BK and OPB name (10 R242). -/
inductive BOp where
  | reg (r : R5)
  | cw (n : BitVec 8)
  | imm (v : BitVec 8)
  | lit (v : Word)
deriving DecidableEq, Repr

/-- The offset of an M-format address (10 R243). -/
inductive MOff where
  | small (o : BitVec 3)
  | lit (v : Word)
deriving DecidableEq, Repr

/-- The offset of VLDX and VSTX (13 R331). -/
inductive XOff where
  | small (o : BitVec 16)
  | lit (v : Word)
deriving DecidableEq, Repr

/-- Conditions of BR (10 R244). -/
inductive BrCond where
  | eq | ne | lt | ge | ltu | geu
deriving DecidableEq, Repr

/-- Conditions of BRP (10 R244). -/
inductive BrpCond where
  | any | none | all | nall
deriving DecidableEq, Repr

/-- Conditions of VCMP (10 R250). -/
inductive VCond where
  | eq | ne | lt | le | gt | ge | ltu | leu | gtu | geu | unord | ord
deriving DecidableEq, Repr

/-- Scopes of FENCE (03 R86, 12 R286). -/
inductive Scope where
  | thread | core | cluster | die | package | system
deriving DecidableEq, Repr

/-- Paths of DRAIN (02 R62). -/
inductive Path where
  | ab | mem | wb
deriving DecidableEq, Repr

/-- Format S, two sources (11 R258). -/
structure Alu where
  d : R5
  a : R5
  b : BOp
deriving DecidableEq, Repr

/-- Format S, one source (11 R258). -/
structure Una where
  d : R5
  a : R5
deriving DecidableEq, Repr

/-- Format L (11 R260). -/
structure LongAlu where
  look : BitVec 4
  d : R5
  a : R5
  b : BOp
deriving DecidableEq, Repr

/-- BFXS and BFXU (11 R259). -/
structure Bfx where
  d : R5
  a : R5
  pos : BitVec 6
  wm1 : BitVec 6
deriving DecidableEq, Repr

/-- BFI (11 R259). -/
structure BfiA where
  d : R5
  a : R5
  b : BOp
  pos : BitVec 6
  wm1 : BitVec 6
deriving DecidableEq, Repr

/-- LD and LDF (10 R243, 12 R281); `sx` is the take bit of LDF. -/
structure LoadA where
  look : BitVec 4
  off : MOff
  fr : Bool
  sx : Bool
  sz : BitVec 2
  seg : BitVec 3
  base : R5
  d : R5
deriving DecidableEq, Repr

/-- ST and STF (10 R243, 12 R281). -/
structure StoreA where
  off : MOff
  sz : BitVec 2
  seg : BitVec 3
  base : R5
  d : R5
deriving DecidableEq, Repr

/-- The slice operand with a destination (12 R277). -/
structure SliceA where
  d : R5
  a : R5
  seg : BitVec 3
  off : BitVec 5
deriving DecidableEq, Repr

/-- The atomics (12 R284); `dbl` is SZ = d; `cr` is used by AMOCAS alone. -/
structure AmoA where
  look : BitVec 4
  b : BOp
  a : R5
  d : R5
  off : BitVec 16
  rel : Bool
  acq : Bool
  dbl : Bool
  seg : BitVec 3
  cr : R5
deriving DecidableEq, Repr

/-- X-address commands CPY, CPYR, RQCPY, CSTEP, CCHAIN, CTXREG, FCST and the like (12 R277, R302). -/
structure XCmd where
  look : BitVec 4
  b : BOp
  a : R5
  d : R5
  seg : BitVec 3
deriving DecidableEq, Repr

/-- CHAIN (12 R302). -/
structure ChainA where
  x : XCmd
  ch : BitVec 4
deriving DecidableEq, Repr

/-- Format V (10 R246). -/
structure V3 where
  ty : BitVec 2
  pg : BitVec 3
  b : R5
  a : R5
  d : R5
deriving DecidableEq, Repr

/-- The XV shape of majors 0x27 and 0x28 (13 R327). -/
structure XvA where
  look : BitVec 4
  ty : BitVec 2
  pg : BitVec 3
  b : R5
  a : R5
  d : R5
  rm : BitVec 2
  b8 : Bool
deriving DecidableEq, Repr

/-- VLD and VST in the VL encoding (13 R330). -/
structure VlA where
  look : BitVec 4
  ty : BitVec 2
  pg : BitVec 3
  a : R5
  d : R5
deriving DecidableEq, Repr

/-- VLD and VST in the XV encoding (13 R330). -/
structure VStrA where
  look : BitVec 4
  ty : BitVec 2
  pg : BitVec 3
  a : R5
  d : R5
  off : BitVec 16
  b8 : Bool
  seg : BitVec 3
  stride : BitVec 32
deriving DecidableEq, Repr

/-- VLDX and VSTX (13 R331). -/
structure VIdxA where
  look : BitVec 4
  ty : BitVec 2
  pg : BitVec 3
  b : R5
  a : R5
  d : R5
  off : XOff
  sc : BitVec 2
  b8 : Bool
  seg : BitVec 3
deriving DecidableEq, Repr

/-- VLDQ and VSTQ (14 R361). -/
structure VQuA where
  look : BitVec 4
  ty : BitVec 2
  pg : BitVec 3
  b : R5
  a : R5
  d : R5
  qf : BitVec 2
  seg : BitVec 3
  s : R5
  f : R5
deriving DecidableEq, Repr

/-- VCVT (13 R335). -/
structure CvtA where
  look : BitVec 4
  pg : BitVec 3
  a : R5
  d : R5
  part : BitVec 2
  rm : BitVec 2
  dty : BitVec 4
  sty : BitVec 4
deriving DecidableEq, Repr

/-- WLD (14 R347). -/
structure WldA where
  look : BitVec 4
  b : BOp
  a : R5
  d : R5
  wf : BitVec 2
  tile : BitVec 3
  f : R5
  seg : BitVec 3
deriving DecidableEq, Repr

/-- MMA (14 R350); `i8` is AF. -/
structure MmaA where
  look : BitVec 4
  b : BOp
  a : R5
  d : R5
  run : R5
  wf : BitVec 2
  i8 : Bool
  rm1 : BitVec 5
  pt : Bool
  tile : BitVec 3
  fseg : BitVec 3
  f : R5
deriving DecidableEq, Repr

/-- MSACC (14 R354). -/
structure MsaccA where
  look : BitVec 4
  b : BOp
  a : R5
  arow : BitVec 7
  rm1 : BitVec 5
  prow : BitVec 5
  pt : Bool
  acc : Bool
deriving DecidableEq, Repr

/-- MST and MLDA (14 R356); `bf` is ETY. -/
structure MstA where
  look : BitVec 4
  b : BOp
  a : R5
  bf : Bool
  rm1 : BitVec 7
  arow : BitVec 7
  acc : Bool
  rstr : BitVec 12
deriving DecidableEq, Repr

/-- MSTQ with KV = 0 (14 R357). -/
structure MstqA where
  look : BitVec 4
  b : BOp
  a : R5
  d : R5
  qf : BitVec 2
  derive : Bool
  rm1 : BitVec 7
  arow : BitVec 7
  acc : Bool
  s : R5
  fseg : BitVec 3
  f : R5
deriving DecidableEq, Repr

/-- MSTQ with KV = 1 (14 R359). -/
structure KvA where
  look : BitVec 4
  b : BOp
  a : R5
  d : R5
  rm1 : BitVec 7
  arow : BitVec 7
  acc : Bool
  fin : Bool
  stg : Bool
  val : Bool
  chs : Bool
  head : BitVec 8
  fseg : BitVec 3
  r : R5
deriving DecidableEq, Repr

/-- GATHB (15 R366). -/
structure GathbA where
  look : BitVec 4
  b : BOp
  a : R5
  d : R5
  cs : Bool
  pg : BitVec 3
  vi : R5
  seg : BitVec 3
deriving DecidableEq, Repr

/-- ATTN (15 R368). -/
structure AttnA where
  x : XCmd
  cs : Bool
deriving DecidableEq, Repr

/-- EDINS, EDDEL and EDSUB (15 R373). -/
structure EditA where
  look : BitVec 4
  b : BOp
  a : R5
  d : R5
  t : R5
deriving DecidableEq, Repr

/-- CTXRD (15 R378). -/
structure CtxrdA where
  x : XCmd
  e : R5
deriving DecidableEq, Repr

/-- COMMITB and PROBE (15 R384, R385). -/
structure CommitA where
  x : XCmd
  gx : R5
deriving DecidableEq, Repr

/-- What an arriving confluence step of a peer brings (12 R307, R308). -/
structure PeerStep where
  peer : Nat
  tag : Nat
  op : Nat
  count : Nat
  ifmt : Nat
  data : List Byte
  /-- The task, and which step of it under this tag sent the operand or acknowledged one (19 R393). [DEDUCED, log 27] -/
  task : Nat
  no : Nat
deriving DecidableEq, Repr

/-- Where a soft error falls (25 R472). -/
inductive SoftPlace where
  /-- The read-only L1 or the instruction cache. -/
  | cache (die : Nat)
  /-- An 8-byte word of L2, AB, cistern, HBM4E or LPDDR-6, by its place in memory; `dram` says which counter. -/
  | word (die : Nat) (loc : Nat) (dram : Bool)
  /-- WB, CB or a partial tile of a task. -/
  | buffer (die : Nat) (site : Nat) (task : Nat)
deriving DecidableEq, Repr

/-- A SEALKEY request (22 R457): the payload's bytes, and whether it came inside a secured session. -/
structure SealReq where
  payload : List Byte
  secured : Bool
deriving DecidableEq, Repr

/-- A firmware image offered for update (22 R454, R455). -/
structure FwImage where
  first : Bool
  svn : Nat
  length : Nat
  hash : BitVec 256
  sigOk : Bool
deriving DecidableEq, Repr

/-- What background requantisation or tier migration is given (06 R179): the context and layer, the address of the table
entry, the pool base, the new record's offset in 512-byte units, its format and its tier. -/
structure MoveReq where
  ctx : Nat
  layer : Nat
  entry : Nat
  pool : Nat
  paddr : Nat
  fmt : Nat
  tier : Bool
deriving DecidableEq, Repr

/-- What a device step acts on: the operands that stand beside it, of which each step reads the ones its constructor's
line names. -/
structure EvOp where
  thr : Nat := 0
  wid : Nat := 0
  cmd : Nat := 0
  vc : Nat := 0
  ctx : Nat := 0
  task : Nat := 0
  fn : Nat := 0
  q : Nat := 0
  die : Nat := 0
  addr : Nat := 0
  size : Nat := 0
  flag : Bool := false
  word : Word := 0
  val : Word := 0
  nonce : BitVec 256 := 0
  key : BitVec 768 := 0
  peer : PeerStep := ⟨0, 0, 0, 0, 0, [], 0, 0⟩
  soft : SoftPlace := .cache 0
  sealReq : SealReq := ⟨[], false⟩
  img : FwImage := ⟨false, 0, 0, 0, false⟩
  move : MoveReq := ⟨0, 0, 0, 0, 0, 0, false⟩
deriving DecidableEq, Repr

end Sys2Proof
end

