-- ==== Sys2Proof/Syntax.lean ====
section
/-!
DEFINITION. The instructions of the Tammond and the device's own steps: one constructor for every row of
spec/opcode_table.json (10 R249 and the chapters the rows name).
The rows from RESULT_ARRIVAL on are steps that the device or the outside world takes, each whole and indivisible
(95_what_each_step_holds); they have no instruction words and no operand fields: what a step acts on stands in the fields of the state's `op`
record that its line names.
-/
namespace Sys2Proof

/-- One row of the table of operations and events, with its operands. -/
inductive Instr where
  /-- ADD (R258). -/
  | add (x : Alu)
  /-- SUB (R258). -/
  | sub (x : Alu)
  /-- MUL (R258). -/
  | mul (x : Alu)
  /-- MULH (R258). -/
  | mulh (x : Alu)
  /-- MULHU (R258). -/
  | mulhu (x : Alu)
  /-- AND (R258). -/
  | andr (x : Alu)
  /-- OR (R258). -/
  | orr (x : Alu)
  /-- XOR (R258). -/
  | xor (x : Alu)
  /-- ANDN (R258). -/
  | andn (x : Alu)
  /-- SHL (R258). -/
  | shl (x : Alu)
  /-- SHR (R258). -/
  | shr (x : Alu)
  /-- SAR (R258). -/
  | sar (x : Alu)
  /-- ROL (R258). -/
  | rol (x : Alu)
  /-- MIN (R258). -/
  | min (x : Alu)
  /-- MAX (R258). -/
  | max (x : Alu)
  /-- MINU (R258). -/
  | minu (x : Alu)
  /-- MAXU (R258). -/
  | maxu (x : Alu)
  /-- SLT (R258). -/
  | slt (x : Alu)
  /-- SLTU (R258). -/
  | sltu (x : Alu)
  /-- SEQ (R258). -/
  | seq (x : Alu)
  /-- SNE (R258). -/
  | sne (x : Alu)
  /-- CLZ (R258). -/
  | clz (x : Una)
  /-- CTZ (R258). -/
  | ctz (x : Una)
  /-- POPC (R258). -/
  | popc (x : Una)
  /-- BREV (R258). -/
  | brev (x : Una)
  /-- BSWAP (R258). -/
  | bswap (x : Una)
  /-- SEXTB (R258). -/
  | sextb (x : Una)
  /-- SEXTH (R258). -/
  | sexth (x : Una)
  /-- SEXTW (R258). -/
  | sextw (x : Una)
  /-- ZEXTW (R258). -/
  | zextw (x : Una)
  /-- SCADD (R258). -/
  | scadd (x : Alu)
  /-- SEL (R258). -/
  | sel (x : Alu)
  /-- BFXS (R259). -/
  | bfxs (x : Bfx)
  /-- BFXU (R259). -/
  | bfxu (x : Bfx)
  /-- BFI (R259). -/
  | bfi (x : BfiA)
  /-- DIV (R260). -/
  | div (x : LongAlu)
  /-- DIVU (R260). -/
  | divu (x : LongAlu)
  /-- REM (R260). -/
  | rem (x : LongAlu)
  /-- REMU (R260). -/
  | remu (x : LongAlu)
  /-- BR (R261). -/
  | br (c : BrCond) (a b : R5) (off : BitVec 11)
  /-- BRP (R262). -/
  | brp (c : BrpCond) (p : BitVec 3) (off : BitVec 11)
  /-- JMP (R263). -/
  | jmp (off : BitVec 19)
  /-- CALL (R263). -/
  | call (link : R5) (off : BitVec 19)
  /-- JMPR (R264). -/
  | jmpr (a : R5) (b : BOp)
  /-- CALLR (R264). -/
  | callr (x : Alu)
  /-- RET (R264). -/
  | ret
  /-- NOP (R266). -/
  | nop
  /-- YIELD (R266). -/
  | yield
  /-- HALT (R267). -/
  | halt
  /-- TRAP (R268). -/
  | trap (b : BOp)
  /-- BKPT (R268). -/
  | bkpt (b : BOp)
  /-- GETS (R269). -/
  | gets (d : R5) (n : BitVec 8)
  /-- SETS (R269). -/
  | sets (n : BitVec 8) (a : R5)
  /-- STEPGO (R184). -/
  | stepgo (a : R5)
  /-- ERET (R270). -/
  | eret
  /-- ILLEGAL_INSTRUCTION (R253). -/
  | illegalInstruction (w : BitVec 32)
  /-- LD (R281). -/
  | ld (x : LoadA)
  /-- ST (R281). -/
  | st (x : StoreA)
  /-- LDF (R281). -/
  | ldf (x : LoadA)
  /-- STF (R281). -/
  | stf (x : StoreA)
  /-- FESET (R283). -/
  | feset (x : SliceA)
  /-- FECLR (R283). -/
  | feclr (x : SliceA)
  /-- FEGET (R283). -/
  | feget (x : SliceA)
  /-- AMOADD (R285). -/
  | amoadd (x : AmoA)
  /-- AMOAND (R285). -/
  | amoand (x : AmoA)
  /-- AMOOR (R285). -/
  | amoor (x : AmoA)
  /-- AMOXOR (R285). -/
  | amoxor (x : AmoA)
  /-- AMOMIN (R285). -/
  | amomin (x : AmoA)
  /-- AMOMAX (R285). -/
  | amomax (x : AmoA)
  /-- AMOMINU (R285). -/
  | amominu (x : AmoA)
  /-- AMOMAXU (R285). -/
  | amomaxu (x : AmoA)
  /-- AMOSWP (R285). -/
  | amoswp (x : AmoA)
  /-- AMOCAS (R285). -/
  | amocas (x : AmoA)
  /-- AMOFADD (R285). -/
  | amofadd (x : AmoA)
  /-- FENCE (R88). -/
  | fence (sc : Scope)
  /-- DRAIN (R62). -/
  | drain (p : Path)
  /-- BAR (R288). -/
  | bar (n : BitVec 3)
  /-- SBAR (R289). -/
  | sbar (n : BitVec 3)
  /-- BIND (R291). -/
  | bind (d a : R5) (seg : BitVec 3)
  /-- UNBIND (R291). -/
  | unbind (d : R5)
  /-- FLUME (R290). -/
  | flume (f : BitVec 3) (a : R5)
  /-- MRECV (R294). -/
  | mrecv (look : BitVec 4) (d a : R5)
  /-- MRECV_POLL (R294). -/
  | mrecvPoll (look : BitVec 4) (d a : R5)
  /-- MSEND (R293). -/
  | msend (d a : R5) (n : BitVec 3)
  /-- SPAWN (R293). -/
  | spawn (d a : R5)
  /-- SEGLD (R295). -/
  | segld (d : BitVec 3) (a : R5) (seg : BitVec 3)
  /-- SEGRD (R295). -/
  | segrd (d : R5) (a : BitVec 3) (hi : Bool)
  /-- LDB (R296). -/
  | ldb (x : Alu)
  /-- STB (R296). -/
  | stb (x : Alu)
  /-- CPY (R303). -/
  | cpy (x : XCmd)
  /-- CPYR (R303). -/
  | cpyr (x : XCmd)
  /-- CPYR_ORD (R209). -/
  | cpyrOrd (x : XCmd)
  /-- RQCPY (R303). -/
  | rqcpy (x : XCmd)
  /-- CHAIN (R304). -/
  | chain (x : ChainA)
  /-- CSTEP (R309). -/
  | cstep (x : XCmd)
  /-- CCHAIN (R309). -/
  | cchain (x : XCmd)
  /-- DGST (R311). -/
  | dgst (d a : R5) (seg : BitVec 3)
  /-- PIN (R312). -/
  | pin (x : SliceA)
  /-- UNPIN (R312). -/
  | unpin (x : SliceA)
  /-- CISTRN (R313). -/
  | cistrn (d a : R5) (n : BitVec 8)
  /-- VADD (R319). -/
  | vadd (x : V3)
  /-- VSUB (R319). -/
  | vsub (x : V3)
  /-- VMUL (R319). -/
  | vmul (x : V3)
  /-- VFMA (R319). -/
  | vfma (x : V3)
  /-- VFMS (R319). -/
  | vfms (x : V3)
  /-- VNFMA (R319). -/
  | vnfma (x : V3)
  /-- VMIN (R319). -/
  | vmin (x : V3)
  /-- VMAX (R319). -/
  | vmax (x : V3)
  /-- VABS (R319). -/
  | vabs (x : V3)
  /-- VNEG (R319). -/
  | vneg (x : V3)
  /-- VRCPE (R320). -/
  | vrcpe (x : V3)
  /-- VRSQE (R320). -/
  | vrsqe (x : V3)
  /-- VADD_S (R317). -/
  | vaddS (x : V3)
  /-- VSUB_S (R317). -/
  | vsubS (x : V3)
  /-- VMUL_S (R317). -/
  | vmulS (x : V3)
  /-- VFMA_S (R317). -/
  | vfmaS (x : V3)
  /-- VFMS_S (R317). -/
  | vfmsS (x : V3)
  /-- VNFMA_S (R317). -/
  | vnfmaS (x : V3)
  /-- VMIN_S (R317). -/
  | vminS (x : V3)
  /-- VMAX_S (R317). -/
  | vmaxS (x : V3)
  /-- VIADD (R321). -/
  | viadd (x : V3)
  /-- VISUB (R321). -/
  | visub (x : V3)
  /-- VIMUL (R321). -/
  | vimul (x : V3)
  /-- VAND (R321). -/
  | vand (x : V3)
  /-- VOR (R321). -/
  | vor (x : V3)
  /-- VXOR (R321). -/
  | vxor (x : V3)
  /-- VSHL (R321). -/
  | vshl (x : V3)
  /-- VSHR (R321). -/
  | vshr (x : V3)
  /-- VSAR (R321). -/
  | vsar (x : V3)
  /-- VIMIN (R321). -/
  | vimin (x : V3)
  /-- VIMAX (R321). -/
  | vimax (x : V3)
  /-- VIMINU (R321). -/
  | viminu (x : V3)
  /-- VIMAXU (R321). -/
  | vimaxu (x : V3)
  /-- VIADD_S (R317). -/
  | viaddS (x : V3)
  /-- VISUB_S (R317). -/
  | visubS (x : V3)
  /-- VIMUL_S (R317). -/
  | vimulS (x : V3)
  /-- VAND_S (R317). -/
  | vandS (x : V3)
  /-- VOR_S (R317). -/
  | vorS (x : V3)
  /-- VXOR_S (R317). -/
  | vxorS (x : V3)
  /-- VSHL_S (R317). -/
  | vshlS (x : V3)
  /-- VSHR_S (R317). -/
  | vshrS (x : V3)
  /-- VSAR_S (R317). -/
  | vsarS (x : V3)
  /-- VIMIN_S (R317). -/
  | viminS (x : V3)
  /-- VIMAX_S (R317). -/
  | vimaxS (x : V3)
  /-- VIMINU_S (R317). -/
  | viminuS (x : V3)
  /-- VIMAXU_S (R317). -/
  | vimaxuS (x : V3)
  /-- VCMP (R322). -/
  | vcmp (c : VCond) (x : V3)
  /-- PAND (R324). -/
  | pand (x : V3)
  /-- POR (R324). -/
  | por (x : V3)
  /-- PXOR (R324). -/
  | pxor (x : V3)
  /-- PANDN (R324). -/
  | pandn (x : V3)
  /-- WHILELT (R324). -/
  | whilelt (x : V3)
  /-- WHILELE (R324). -/
  | whilele (x : V3)
  /-- VPOPC (R324). -/
  | vpopc (x : V3)
  /-- VFIRST (R324). -/
  | vfirst (x : V3)
  /-- VSEL (R324). -/
  | vsel (x : V3)
  /-- VEXT (R324). -/
  | vext (x : V3)
  /-- VINS (R324). -/
  | vins (x : V3)
  /-- VBCAST (R324). -/
  | vbcast (x : V3)
  /-- VIOTA (R324). -/
  | viota (x : V3)
  /-- VLEN (R324). -/
  | vlen (x : V3)
  /-- VMOV (R324). -/
  | vmov (x : V3)
  /-- VPERM (R325). -/
  | vperm (x : V3)
  /-- VZIPLO (R325). -/
  | vziplo (x : V3)
  /-- VZIPHI (R325). -/
  | vziphi (x : V3)
  /-- VUNZLO (R325). -/
  | vunzlo (x : V3)
  /-- VUNZHI (R325). -/
  | vunzhi (x : V3)
  /-- VSLIDEUP (R325). -/
  | vslideup (x : V3)
  /-- VSLIDEDN (R325). -/
  | vslidedn (x : V3)
  /-- VREV (R325). -/
  | vrev (x : V3)
  /-- VCOMPACT (R325). -/
  | vcompact (x : V3)
  /-- VROPE (R326). -/
  | vrope (x : V3)
  /-- VDIV (R328). -/
  | vdiv (x : XvA)
  /-- VSQRT (R328). -/
  | vsqrt (x : XvA)
  /-- VEXP (R328). -/
  | vexp (x : XvA)
  /-- VLOG (R328). -/
  | vlog (x : XvA)
  /-- VTANH (R328). -/
  | vtanh (x : XvA)
  /-- VERF (R328). -/
  | verf (x : XvA)
  /-- VREDADD (R329). -/
  | vredadd (x : XvA)
  /-- VREDMAX (R329). -/
  | vredmax (x : XvA)
  /-- VREDMIN (R329). -/
  | vredmin (x : XvA)
  /-- VSCANADD (R125). -/
  | vscanadd (x : XvA)
  /-- VLD (R332). -/
  | vld (x : VlA)
  /-- VLD_STRIDED (R330). -/
  | vldStrided (x : VStrA)
  /-- VST (R332). -/
  | vst (x : VlA)
  /-- VST_STRIDED (R330). -/
  | vstStrided (x : VStrA)
  /-- VLDX (R331). -/
  | vldx (x : VIdxA)
  /-- VSTX (R331). -/
  | vstx (x : VIdxA)
  /-- VLDQ (R362). -/
  | vldq (x : VQuA)
  /-- VSTQ (R363). -/
  | vstq (x : VQuA)
  /-- VCVT (R336). -/
  | vcvt (x : CvtA)
  /-- VRNG (R338). -/
  | vrng (d : R5) (pg : BitVec 3) (ty : BitVec 2)
  /-- RSEED (R339). -/
  | rseed (a : R5)
  /-- WLD (R348). -/
  | wld (x : WldA)
  /-- MMA (R351). -/
  | mma (x : MmaA)
  /-- MSACC (R354). -/
  | msacc (x : MsaccA)
  /-- MZERO (R355). -/
  | mzero (t : BitVec 2)
  /-- MPRI (R355). -/
  | mpri (n : BitVec 3)
  /-- MST (R356). -/
  | mst (x : MstA)
  /-- MLDA (R356). -/
  | mlda (x : MstA)
  /-- MSTQ (R357). -/
  | mstq (x : MstqA)
  /-- MSTQ_KV (R359). -/
  | mstqKv (x : KvA)
  /-- GATHB (R367). -/
  | gathb (x : GathbA)
  /-- ATTN (R370). -/
  | attn (x : AttnA)
  /-- ATEDRAIN (R372). -/
  | atedrain (look : BitVec 4) (d : R5) (mask : BitVec 2)
  /-- ATBOUND (R372). -/
  | atbound (look : BitVec 4) (d : R5)
  /-- EDINS (R136). -/
  | edins (x : EditA)
  /-- EDDEL (R137). -/
  | eddel (x : EditA)
  /-- EDSUB (R137). -/
  | edsub (x : EditA)
  /-- SETTLE (R153). -/
  | settle (x : LongAlu)
  /-- CTXRD_NOW (R151). -/
  | ctxrdNow (x : CtxrdA)
  /-- CTXRD_AT (R152). -/
  | ctxrdAt (x : CtxrdA)
  /-- SILT (R380). -/
  | silt (x : LongAlu)
  /-- CTXREG (R382). -/
  | ctxreg (x : XCmd)
  /-- CTXREG_REL (R383). -/
  | ctxregRel (look : BitVec 4) (d a : R5)
  /-- COMMITB (R147). -/
  | commitb (x : CommitA)
  /-- COMMITB_SKIP (R148). -/
  | commitbSkip (x : CommitA)
  /-- PROBE (R146). -/
  | probe (x : CommitA)
  /-- REPACK (R155). -/
  | repack (look : BitVec 4) (d a : R5)
  /-- FCST (R188). -/
  | fcst (x : XCmd)
  /-- FACC (R193). -/
  | facc (look : BitVec 4) (a : R5)
  /-- FEND (R191). -/
  | fend (look : BitVec 4)
  /-- RESULT_ARRIVAL (R13): op.thr, op.wid. -/
  | resultArrival
  /-- ENGINE_COMPLETION (R19): op.cmd. -/
  | engineCompletion
  /-- THREAD_WAKE (R40): op.thr. -/
  | threadWake
  /-- MESSAGE_ARRIVAL (R35): op.thr. -/
  | messageArrival
  /-- SPAWN_ARRIVAL (R36): op.thr. -/
  | spawnArrival
  /-- MIGRATION_ARRIVAL (R54): op.thr. -/
  | migrationArrival
  /-- RUNNEL_FILL (R72): op.thr, op.wid. -/
  | runnelFill
  /-- RUNNEL_DRAIN (R73): op.thr, op.wid. -/
  | runnelDrain
  /-- STORE_VERDICT (R83): op.thr. -/
  | storeVerdict
  /-- FENCE_ECHO (R88): op.thr, op.wid. -/
  | fenceEcho
  /-- CULVERT_RECORD (R301): op.cmd. -/
  | culvertRecord
  /-- CHAIN_OWN_WAKE (R304): op.cmd. -/
  | chainOwnWake
  /-- SCOUT_PROBE (R306): op.cmd. -/
  | scoutProbe
  /-- CONFLUENCE_STEP (R308): op.cmd. -/
  | confluenceStep
  /-- STEP_DATA_ARRIVAL (R393): op.die, op.peer. -/
  | stepDataArrival
  /-- STEP_ACKNOWLEDGE (R308): op.peer (its peer and tag), op.flag. -/
  | stepAcknowledge
  /-- MATRIX_DISPATCH (R343): op.thr. -/
  | matrixDispatch
  /-- MATRIX_RETIRE (R342): op.thr. -/
  | matrixRetire
  /-- WLD_FILL_COMPLETE (R349): op.vc, op.wid. -/
  | wldFillComplete
  /-- MMA_REPLAY (R353): op.thr. -/
  | mmaReplay
  /-- ATTN_RETIRE (R368): op.thr. -/
  | attnRetire
  /-- EDIT_ARBITRATION (R135): op.ctx. -/
  | editArbitration
  /-- SURGE_DISPATCH (R143): op.ctx. -/
  | surgeDispatch
  /-- CONTEXT_RELEASE_COMPLETE (R157): op.ctx. -/
  | contextReleaseComplete
  /-- REQUANTISATION (R179): op.move. -/
  | requantisation
  /-- TIER_MIGRATION (R179): op.move. -/
  | tierMigration
  /-- RECORD_FREE (R179): op.fn, op.addr. -/
  | recordFree
  /-- STEP_BUILD (R182): op.die. -/
  | stepBuild
  /-- TASK_END (R214): op.task. -/
  | taskEnd
  /-- REEXECUTION_END (R216): op.task. -/
  | reexecutionEnd
  /-- QUEUE_KICK (R402): op.fn, op.q, op.word. -/
  | queueKick
  /-- PACKET_FETCH_RETRY (R402): op.fn, op.q. -/
  | packetFetchRetry
  /-- DEVICE_QUEUE_KICK (R403): op.fn, op.q. -/
  | deviceQueueKick
  /-- QUEUE_ENABLE (R399): op.fn, op.q, op.word. -/
  | queueEnable
  /-- LAUNCH (R401): op.fn, op.q, op.addr. -/
  | launch
  /-- TEARDOWN (R411): op.fn, op.word. -/
  | teardown
  /-- SUSPEND (R414): op.fn, op.word. -/
  | suspend
  /-- RESUME (R401): op.fn, op.word. -/
  | resume
  /-- WORKITEM (R401): op.fn, op.word, op.val. -/
  | workitem
  /-- PUBLISH (R401): op.fn, op.addr, op.val. -/
  | publish
  /-- LAUNCH_SELECT (R409): op.fn. -/
  | launchSelect
  /-- GANG_PLACEMENT (R410): op.task. -/
  | gangPlacement
  /-- PREEMPTION (R413): op.fn. -/
  | preemption
  /-- PREEMPTION_SAVE (R414): op.fn. -/
  | preemptionSave
  /-- RESTORE (R418): op.task. -/
  | restore
  /-- REGISTER_WRITE (R4): op.fn, op.addr, op.val. -/
  | registerWrite
  /-- HOST_APERTURE_ACCESS (R396): op.fn, op.flag, op.addr, op.size, op.val. -/
  | hostApertureAccess
  /-- PEER_INGRESS_ACCESS (R427): op.die, op.fn, op.flag, op.addr, op.size, op.val. -/
  | peerIngressAccess
  /-- TRANSLATION_WALK (R425): op.die, op.fn, op.addr, op.flag. -/
  | translationWalk
  /-- FCMD_WAKE (R433): op.die, op.word. -/
  | fcmdWake
  /-- FCMD_REPLAY_ALL (R433): op.die, op.word. -/
  | fcmdReplayAll
  /-- FCMD_FAIL (R433): op.die, op.word. -/
  | fcmdFail
  /-- TINV_PAGE (R429): op.die, op.word. -/
  | tinvPage
  /-- TINV_FUNCTION (R429): op.die, op.word. -/
  | tinvFunction
  /-- TINV_ALL (R429): op.die, op.word. -/
  | tinvAll
  /-- TINV_COMPLETE (R429): op.die. -/
  | tinvComplete
  /-- PAGE_MIGRATE (R440): op.die, op.word. -/
  | pageMigrate
  /-- PAGE_UNMAP (R440): op.die, op.word. -/
  | pageUnmap
  /-- PCMD_INVALID (R439): op.die, op.word. -/
  | pcmdInvalid
  /-- CHANNEL_RETIRE (R444): op.die, op.word. -/
  | channelRetire
  /-- LINE_RECOMPRESS (R438): op.die, op.fn, op.addr. -/
  | lineRecompress
  /-- THERMAL_CROSSING (R449): op.die, op.wid. -/
  | thermalCrossing
  /-- SLOT_REENABLE (R449): op.die, op.wid. -/
  | slotReenable
  /-- POWER_INTERVAL (R471). -/
  | powerInterval
  /-- HEALTH_LATCH (R470): op.die. -/
  | healthLatch
  /-- HEALTH_CLEAR (R469): op.die, op.word. -/
  | healthClear
  /-- SOFT_ERROR (R472): op.soft, op.flag. -/
  | softError
  /-- GET_VERSION (R453): op.fn. -/
  | getVersion
  /-- GET_CAPABILITIES (R453): op.fn. -/
  | getCapabilities
  /-- NEGOTIATE_ALGORITHMS (R453): op.fn, op.flag. -/
  | negotiateAlgorithms
  /-- GET_DIGESTS (R452): op.fn. -/
  | getDigests
  /-- GET_CERTIFICATE (R452): op.fn, op.wid, op.addr, op.size. -/
  | getCertificate
  /-- CHALLENGE (R452): op.fn, op.wid, op.nonce. -/
  | challenge
  /-- GET_MEASUREMENTS (R453): op.fn, op.wid. -/
  | getMeasurements
  /-- KEY_EXCHANGE (R453): op.fn, op.key. -/
  | keyExchange
  /-- FINISH (R453): op.fn. -/
  | finish
  /-- HEARTBEAT (R453): op.fn, op.wid. -/
  | heartbeat
  /-- END_SESSION (R453): op.fn, op.wid. -/
  | endSession
  /-- UNSUPPORTED_SPDM_REQUEST (R453): op.fn, op.wid. -/
  | unsupportedSpdmRequest
  /-- SEALKEY_INSTALL (R457): op.fn, op.sealReq. -/
  | sealkeyInstall
  /-- SEALKEY_ERASE (R456): op.fn, op.sealReq. -/
  | sealkeyErase
  /-- FUNCTION_LEVEL_RESET (R456): op.fn. -/
  | functionLevelReset
  /-- RESET (R451). -/
  | reset
  /-- MEMORY_TRAINING (R459): op.die. -/
  | memoryTraining
  /-- DISCOVERY_ROUND (R460): op.die. -/
  | discoveryRound
  /-- DISCOVERY_RETURN (R466): op.die, op.wid. -/
  | discoveryReturn
  /-- DISCOVERY_DONE (R467): op.die. -/
  | discoveryDone
  /-- MULTICAST_ATTEMPT (R468): op.die. -/
  | multicastAttempt
  /-- MULTICAST_FLIT (R468): op.die, op.wid, op.size. -/
  | multicastFlit
  /-- MULTICAST_ANSWER (R468): op.die, op.wid. -/
  | multicastAnswer
  /-- DIE_JOIN (R459). -/
  | dieJoin
  /-- ALIAS_KEY_DERIVATION (R451). -/
  | aliasKeyDerivation
  /-- LINK_UP (R459). -/
  | linkUp
  /-- FIRMWARE_UPDATE_STAGE (R455): op.img. -/
  | firmwareUpdateStage
  /-- LINK_RETRY (R308): op.cmd. -/
  | linkRetry
  /-- ASSIST_RING_CONSUME (R420): op.fn, op.word. -/
  | assistRingConsume
  /-- ASSIST_RING_ENABLE (R450): op.fn, op.word. -/
  | assistRingEnable
  /-- FREE_LIST_REFILL (R438): op.die, op.wid, op.word. -/
  | freeListRefill
  /-- VECTOR_UNMASK (R421): op.fn, op.wid. -/
  | vectorUnmask
deriving DecidableEq, Repr

end Sys2Proof
end

