-- ==== Sys2Proof/WellFormed.lean ====
section
/-!
DEFINITION. The operand values that an encoding can hold (10 R239 to R247 and the chapters 11 to 15): `Instr.wf` is true
exactly of the instructions that some words decode to, and of every device step.
-/
namespace Sys2Proof

/-- A b() operand that is no literal, for the majors whose LEN is 00 alone (11 R264). -/
def BOp.noLit : BOp → Bool
  | .lit _ => false
  | _ => true

/-- A floating-point element type (10 R246). -/
def tyF (ty : BitVec 2) : Bool := ty.toNat < 2

/-- An integer element type (10 R246). -/
def tyI (ty : BitVec 2) : Bool := 2 ≤ ty.toNat

/-- The element types that a VCMP condition takes (10 R250). -/
def VCond.tyOk : VCond → BitVec 2 → Bool
  | .ltu, ty | .leu, ty | .gtu, ty | .geu, ty => tyI ty
  | .unord, ty | .ord, ty => tyF ty
  | _, _ => true

/-- A register field that names a predicate (10 R239). -/
def predFld (r : R5) : Bool := r.toNat < 8

/-- B8 needs TY = 0b00 (13 R314). -/
def b8Ok (b8 : Bool) (ty : BitVec 2) : Bool := !b8 || ty == 0

/-- Element size in bytes of a type code of VCVT (13 R335). -/
def cvtSize (t : Nat) : Nat :=
  match t with
  | 0 => 4
  | 1 => 2
  | 2 => 4
  | 3 => 2
  | _ => 1

/-- The reserved values of VCVT (13 R335). -/
def CvtA.ok (x : CvtA) : Bool :=
  x.sty.toNat ≤ 4 && x.dty.toNat ≤ 4 && x.sty != x.dty &&
  x.part.toNat < Nat.max (cvtSize x.sty.toNat) (cvtSize x.dty.toNat) /
    Nat.min (cvtSize x.sty.toNat) (cvtSize x.dty.toNat)

/-- RUN of MMA: 0, or a read runnel with A, BK and OPB zero (14 R350). -/
def MmaA.runOk (x : MmaA) : Bool :=
  x.run == 0 || (24 ≤ x.run.toNat && x.a == 0 && x.b == .reg 0)

/-- Bytes of an accumulator row as MST and MLDA move it (14 R356). -/
def MstA.rowBytes (x : MstA) : Nat := if x.bf then 256 else 512

/-- RSTR is 0 or at least the row's size (14 R356). -/
def MstA.strideOk (x : MstA) : Bool := x.rstr == 0 || x.rowBytes ≤ 64 * x.rstr.toNat

/-- The fields of MSTQ with KV = 1 (14 R359). -/
def KvA.ok (x : KvA) : Bool :=
  x.rm1.toNat < 16 && (!x.val || (x.a == 0 && x.b == .reg 0)) && (x.stg || x.d == 0)

/-- SZ and CR of an atomic (12 R284). -/
def AmoA.ok (x : AmoA) : Bool := x.cr == 0

/-- A unary member of the V format (13 R318). -/
def V3.unary (x : V3) : Bool := x.b == 0

/-- The operand values that the encodings admit. -/
def Instr.wf : Instr → Bool
  | .bfxs x | .bfxu x => x.pos.toNat + x.wm1.toNat + 1 ≤ 64
  | .bfi x => x.pos.toNat + x.wm1.toNat + 1 ≤ 64
  | .call link _ => link != 0
  | .jmpr _ b => b.noLit
  | .callr x => x.b.noLit && x.d != 0
  | .sets n _ => n != 0x12
  | .illegalInstruction w => w.extractLsb' 2 6 == 0
  | .ld x => (x.sz != 3 || !x.sx)
  | .ldf x => !x.fr
  | .feset x | .feclr x => x.d == 0
  | .amoadd x | .amoand x | .amoor x | .amoxor x | .amomin x | .amomax x | .amominu x | .amomaxu x
  | .amoswp x => x.ok
  | .amofadd x => x.ok && !x.dbl
  | .vadd x | .vsub x | .vmul x | .vfma x | .vfms x | .vnfma x | .vmin x | .vmax x
  | .vaddS x | .vsubS x | .vmulS x | .vfmaS x | .vfmsS x | .vnfmaS x | .vminS x | .vmaxS x => tyF x.ty
  | .vabs x | .vneg x | .vrcpe x | .vrsqe x => tyF x.ty && x.unary
  | .viadd x | .visub x | .vimul x | .vand x | .vor x | .vxor x | .vshl x | .vshr x | .vsar x
  | .vimin x | .vimax x | .viminu x | .vimaxu x
  | .viaddS x | .visubS x | .vimulS x | .vandS x | .vorS x | .vxorS x | .vshlS x | .vshrS x | .vsarS x
  | .viminS x | .vimaxS x | .viminuS x | .vimaxuS x => tyI x.ty
  | .vcmp c x => predFld x.d && c.tyOk x.ty
  | .pand x | .por x | .pxor x | .pandn x => x.unary && x.ty == 0 && predFld x.d && predFld x.a
  | .whilelt x | .whilele x => x.unary && predFld x.d
  | .vpopc x | .vfirst x => x.unary && predFld x.a
  | .vext x | .vins x | .vbcast x | .vmov x | .vrev x | .vcompact x => x.unary
  | .viota x => x.unary && x.a == 0 && tyI x.ty
  | .vlen x => x.unary && x.a == 0 && x.pg == 0
  | .vrope x => tyF x.ty
  | .vdiv x => tyF x.ty && !x.b8
  | .vsqrt x => tyF x.ty && !x.b8 && x.b == 0
  | .vexp x | .vlog x | .vtanh x | .verf x => tyF x.ty && !x.b8 && x.b == 0 && x.rm == 0
  | .vredadd x | .vredmax x | .vredmin x | .vscanadd x => x.rm == 0 && x.b == 0 && b8Ok x.b8 x.ty
  | .vst x => x.look == 0
  | .vldStrided x => b8Ok x.b8 x.ty
  | .vstStrided x => x.look == 0 && b8Ok x.b8 x.ty
  | .vldx x => b8Ok x.b8 x.ty
  | .vstx x => x.look == 0 && b8Ok x.b8 x.ty
  | .vldq x => tyF x.ty && x.qf != 0
  | .vstq x => x.look == 0 && tyF x.ty && x.qf != 0
  | .vcvt x => x.ok
  | .wld x => x.wf != 0
  | .mma x => x.wf != 0 && x.runOk
  | .mst x | .mlda x => x.strideOk
  | .mstq x => x.qf != 0
  | .mstqKv x => x.ok
  | .eddel x => x.t == 0
  | .silt x => x.d.toNat % 2 == 0 && 2 ≤ x.d.toNat
  | .fcst x => x.d == 0
  | .add _ | .sub _ | .mul _ | .mulh _ | .mulhu _ | .andr _ | .orr _ | .xor _ | .andn _ | .shl _ | .shr _ | .sar _
  | .rol _ | .min _ | .max _ | .minu _ | .maxu _ | .slt _ | .sltu _ | .seq _ | .sne _ | .clz _ | .ctz _ | .popc _
  | .brev _ | .bswap _ | .sextb _ | .sexth _ | .sextw _ | .zextw _ | .scadd _ | .sel _ | .div _ | .divu _ | .rem _
  | .remu _ | .br _ _ _ _ | .brp _ _ _ | .jmp _ | .ret | .nop | .yield | .halt | .trap _ | .bkpt _ | .gets _ _
  | .eret | .st _ | .stf _ | .feget _ | .amocas _ | .fence _ | .drain _ | .bar _ | .sbar _
  | .bind _ _ _ | .unbind _ | .flume _ _ | .mrecv _ _ _ | .mrecvPoll _ _ _ | .msend _ _ _ | .spawn _ _
  | .segld _ _ _ | .segrd _ _ _ | .ldb _ | .stb _ | .cpy _ | .cpyr _ | .cpyrOrd _ | .rqcpy _ | .chain _ | .cstep _
  | .cchain _ | .dgst _ _ _ | .pin _ | .unpin _ | .cistrn _ _ _ | .vsel _ | .vperm _ | .vziplo _ | .vziphi _
  | .vunzlo _ | .vunzhi _ | .vslideup _ | .vslidedn _ | .vld _ | .vrng _ _ _ | .rseed _ | .msacc _ | .mzero _
  | .mpri _ | .gathb _ | .attn _ | .atedrain _ _ _ | .atbound _ _ | .edins _ | .edsub _ | .settle _ | .ctxrdNow _
  | .ctxrdAt _ | .ctxreg _ | .ctxregRel _ _ _ | .commitb _ | .commitbSkip _ | .probe _ | .repack _ _ _ | .facc _ _
  | .fend _ | .resultArrival | .engineCompletion | .threadWake | .messageArrival | .spawnArrival
  | .migrationArrival | .runnelFill | .runnelDrain | .storeVerdict | .fenceEcho | .culvertRecord
  | .chainOwnWake | .scoutProbe | .confluenceStep | .stepDataArrival | .stepAcknowledge
  | .matrixDispatch | .matrixRetire | .wldFillComplete | .mmaReplay | .attnRetire | .editArbitration
  | .surgeDispatch | .contextReleaseComplete | .requantisation | .tierMigration | .recordFree | .stepgo _
  | .stepBuild | .taskEnd | .reexecutionEnd | .queueKick | .packetFetchRetry | .deviceQueueKick
  | .queueEnable | .launch | .teardown | .suspend | .resume | .workitem
  | .publish | .launchSelect | .gangPlacement | .preemption | .preemptionSave | .restore
  | .registerWrite | .hostApertureAccess | .peerIngressAccess
  | .translationWalk | .fcmdWake | .fcmdReplayAll | .fcmdFail | .tinvPage
  | .tinvFunction | .tinvAll | .tinvComplete | .pageMigrate | .pageUnmap | .pcmdInvalid
  | .channelRetire | .lineRecompress | .thermalCrossing | .slotReenable | .powerInterval
  | .healthLatch | .healthClear | .softError | .getVersion | .getCapabilities
  | .negotiateAlgorithms | .getDigests | .getCertificate | .challenge | .getMeasurements
  | .keyExchange | .finish | .heartbeat | .endSession | .unsupportedSpdmRequest
  | .sealkeyInstall | .sealkeyErase | .functionLevelReset | .reset | .memoryTraining
  | .discoveryRound | .discoveryReturn | .discoveryDone | .multicastAttempt | .multicastFlit
  | .multicastAnswer | .dieJoin | .aliasKeyDerivation | .linkUp | .firmwareUpdateStage | .linkRetry
  | .assistRingConsume | .assistRingEnable | .freeListRefill | .vectorUnmask => true

end Sys2Proof
end

