-- ==== Sys2Proof/Decode.lean ====
section
/-!
DEFINITION. The decoder of 10 R235 to R254, total on any bytes, and the encoder written from the same formats.
A base word settles the length; the whole instruction then passes the checks of R253 in their order, each failure
named by its code and word (R254).
-/
namespace Sys2Proof

/-- The words of one instruction (R235); the ones that the length does not give are zero. -/
structure Words where
  w0 : BitVec 32
  w1 : BitVec 32
  w2 : BitVec 32
  lit : Word
deriving DecidableEq, Repr

/-- What decoding answers: an instruction, or the reserved-field fault with its code and word (R254). -/
inductive Dec where
  | ok (i : Instr)
  | bad (code word : Nat)
deriving DecidableEq, Repr

/-- What the base word alone settles (R253): illegal, reserved, or how many words the instruction has. -/
inductive Head where
  | illegal
  | bad (code : Nat)
  | words (n : Nat)
deriving DecidableEq, Repr

/-! ## Fields (R239 to R247) -/

/-- LEN. -/
def fLen (w : BitVec 32) : BitVec 2 := w.extractLsb' 0 2
/-- MAJOR. -/
def fMajor (w : BitVec 32) : BitVec 6 := w.extractLsb' 2 6
/-- D, VD, and B-format A. -/
def fD (w : BitVec 32) : R5 := w.extractLsb' 8 5
/-- A, VA, BASE, and B-format B. -/
def fA (w : BitVec 32) : R5 := w.extractLsb' 13 5
/-- OPB. -/
def fOpb (w : BitVec 32) : BitVec 8 := w.extractLsb' 18 8
/-- BK. -/
def fBk (w : BitVec 32) : BitVec 2 := w.extractLsb' 26 2
/-- FUNC4 or LOOK. -/
def fFunc (w : BitVec 32) : BitVec 4 := w.extractLsb' 28 4
/-- M format: OFF3. -/
def fOff3 (w : BitVec 32) : BitVec 3 := w.extractLsb' 25 3
/-- M format: FR. -/
def fFr (w : BitVec 32) : BitVec 1 := w.extractLsb' 24 1
/-- M format: SX. -/
def fSx (w : BitVec 32) : BitVec 1 := w.extractLsb' 23 1
/-- M format: SZ. -/
def fSz (w : BitVec 32) : BitVec 2 := w.extractLsb' 21 2
/-- M format: SEG; B format: COND. -/
def fSeg (w : BitVec 32) : BitVec 3 := w.extractLsb' 18 3
/-- B format: OFF11. -/
def fOff11 (w : BitVec 32) : BitVec 11 := w.extractLsb' 21 11
/-- J format: OFF19. -/
def fOff19 (w : BitVec 32) : BitVec 19 := w.extractLsb' 13 19
/-- V format: VB. -/
def fVb (w : BitVec 32) : R5 := w.extractLsb' 18 5
/-- V format: PG. -/
def fPg (w : BitVec 32) : BitVec 3 := w.extractLsb' 23 3
/-- V format: TY. -/
def fTy (w : BitVec 32) : BitVec 2 := w.extractLsb' 26 2
/-- FUNC8 of word 1. -/
def fFunc8 (w : BitVec 32) : BitVec 8 := w.extractLsb' 0 8

/-- A field of `n` bits at `lo` of a word. -/
abbrev fld (w : BitVec 32) (lo n : Nat) : BitVec n := w.extractLsb' lo n

/-- A one-bit field as a truth value. -/
def tru (b : BitVec 1) : Bool := b == 1

/-- True when bits [lo + n - 1 : lo] of the word are not all zero. -/
def nz (w : BitVec 32) (lo n : Nat) : Bool := fld w lo n != 0

/-- The operand of BK and OPB (R242). -/
def fB (w : Words) : BOp :=
  match fBk w.w0 with
  | 0 => .reg ((fOpb w.w0).extractLsb' 0 5)
  | 1 => .cw (fOpb w.w0)
  | 2 => .imm (fOpb w.w0)
  | _ => .lit w.lit

/-- A literal word is present (R235). -/
def hasLit (w : BitVec 32) : Bool := fLen w == 1 || fLen w == 3

/-! ## The base word (R249, R253) -/

/-- Majors of the S and L formats and of M, whose LEN is 00 or 01. -/
def lenShortLit (m : Nat) : Bool :=
  m == 1 || m == 2 || (4 ≤ m && m ≤ 7) || m == 0xD || (0x10 ≤ m && m ≤ 0x14) || (0x16 ≤ m && m ≤ 0x18) ||
  m == 0x1B || m == 0x1C || m == 0x2E || m == 0x33

/-- Majors whose LEN is 00 alone. -/
def lenShort (m : Nat) : Bool := (8 ≤ m && m ≤ 0xC) || (0x20 ≤ m && m ≤ 0x26)

/-- Majors whose LEN is 00 or 10. -/
def lenVl (m : Nat) : Bool := m == 0x29 || m == 0x2A

/-- Majors of the X format, whose LEN is 10 or 11. -/
def lenLong (m : Nat) : Bool :=
  m == 3 || m == 0x15 || m == 0x19 || m == 0x1A || m == 0x27 || m == 0x28 || (0x2B ≤ m && m ≤ 0x2D) ||
  (0x30 ≤ m && m ≤ 0x32) || (0x34 ≤ m && m ≤ 0x36) || (0x38 ≤ m && m ≤ 0x3B)

/-- The reserved majors (R249). -/
def majorReserved (m : Nat) : Bool :=
  m == 0xE || m == 0xF || (0x1D ≤ m && m ≤ 0x1F) || m == 0x2F || m == 0x37 || 0x3C ≤ m

/-- LEN permitted for the major (R249). -/
def lenOk (m len : Nat) : Bool :=
  (lenShortLit m && len ≤ 1) || (lenShort m && len == 0) || (lenVl m && (len == 0 || len == 2)) ||
  (lenLong m && 2 ≤ len)

/-- Words of an instruction by LEN (R235). -/
def lenWords (len : Nat) : Nat :=
  match len with
  | 0 => 1
  | 1 => 3
  | 2 => 3
  | _ => 5

/-- The checks that the base word settles before the rest is fetched (R253). -/
def decodeHead (w0 : BitVec 32) : Head :=
  if fMajor w0 == 0 then .illegal
  else if majorReserved (fMajor w0).toNat then .bad 1
  else if !lenOk (fMajor w0).toNat (fLen w0).toNat then .bad 2
  else .words (lenWords (fLen w0).toNat)

/-! ## The rows

A row's plan gives the outcome of each later check of R253 and the instruction that stands if none fails. -/

/-- One row's checks and its instruction: the LOOK field that must be 0 (code 4), whether the row has a BK field (code 6)
and uses a literal that is present (code 7), and reserved bits (r) and reserved values (v) of each word. -/
structure Plan where
  look : Bool := false
  bk : Bool := false
  useLit : Bool := false
  r0 : Bool := false
  v0 : Bool := false
  r1 : Bool := false
  v1 : Bool := false
  r2 : Bool := false
  v2 : Bool := false
  ins : Instr

/-- The checks of R253 that follow the function value, in their order. -/
def Plan.run (p : Plan) (w : Words) : Dec :=
  if p.look then .bad 4 0
  else if p.bk && fBk w.w0 == 3 && !hasLit w.w0 then .bad 6 0
  else if hasLit w.w0 && !p.useLit then .bad 7 0
  else if p.r0 then .bad 5 0
  else if p.v0 then .bad 8 0
  else if p.r1 then .bad 5 1
  else if p.v1 then .bad 8 1
  else if p.r2 then .bad 5 2
  else if p.v2 then .bad 8 2
  else .ok p.ins

/-- Reserved bits of a b() operand (R242). -/
def bRes (w : BitVec 32) : Bool :=
  (fBk w == 0 && (fOpb w).extractLsb' 5 3 != 0) || (fBk w == 3 && fOpb w != 0)

/-- BK and OPB unused and not zero. -/
def bUse (w : BitVec 32) : Bool := nz w 18 10

/-- BK is not 0b10 where the row fixes OPB itself. -/
def bkNot2 (w : BitVec 32) : Bool := fBk w != 2

/-- The low bits of OPB. -/
def opb3 (w : BitVec 32) : BitVec 3 := w.extractLsb' 18 3

/-- A row with a b() operand. -/
def planB (w : Words) (p : Plan) : Plan :=
  { p with bk := true, useLit := p.useLit || fBk w.w0 == 3, r0 := p.r0 || bRes w.w0 }

/-- A row with BK and OPB unused. -/
def planU (w : Words) (p : Plan) : Plan := { p with bk := true, r0 := p.r0 || bUse w.w0 }

/-- A row that fixes OPB itself under BK = 0b10. -/
def planF (w : Words) (p : Plan) : Plan := { p with bk := true, v0 := p.v0 || bkNot2 w.w0 }

/-- S, two sources. -/
def rowAlu (w : Words) (mk : Alu → Instr) : Option Plan :=
  some (planB w { ins := mk ⟨fD w.w0, fA w.w0, fB w⟩ })

/-- S, one source. -/
def rowUna (w : Words) (mk : Una → Instr) : Option Plan :=
  some (planU w { ins := mk ⟨fD w.w0, fA w.w0⟩ })

/-- L. -/
def rowLong (w : Words) (mk : LongAlu → Instr) : Option Plan :=
  some (planB w { ins := mk ⟨fFunc w.w0, fD w.w0, fA w.w0, fB w⟩ })

/-- The offset of an M-format address (R243). -/
def fMOff (w : Words) : MOff := if hasLit w.w0 then .lit w.lit else .small (fOff3 w.w0)

/-- OFF3 beside a literal (R243). -/
def off3Res (w : BitVec 32) : Bool := hasLit w && fOff3 w != 0

/-- LD and LDF. -/
def rowLoad (w : Words) (r0 : Bool) (mk : LoadA → Instr) : Option Plan :=
  some { useLit := true, r0 := off3Res w.w0 || r0,
         ins := mk ⟨fFunc w.w0, fMOff w, tru (fFr w.w0), tru (fSx w.w0), fSz w.w0, fSeg w.w0, fA w.w0, fD w.w0⟩ }

/-- ST and STF. -/
def rowStore (w : Words) (mk : StoreA → Instr) : Option Plan :=
  some { look := fFunc w.w0 != 0, useLit := true, r0 := off3Res w.w0 || nz w.w0 23 2,
         ins := mk ⟨fMOff w, fSz w.w0, fSeg w.w0, fA w.w0, fD w.w0⟩ }

/-- A slice operand with a destination (12 R277). -/
def rowSlice (w : Words) (r0 : Bool) (mk : SliceA → Instr) : Option Plan :=
  some (planF w { r0 := r0, ins := mk ⟨fD w.w0, fA w.w0, (fOpb w.w0).extractLsb' 5 3, (fOpb w.w0).extractLsb' 0 5⟩ })

/-- An atomic (12 R284). -/
def rowAmo (w : Words) (cas fadd : Bool) (mk : AmoA → Instr) : Option Plan :=
  some (planB w { r1 := nz w.w1 15 1, v1 := !tru (fld w.w1 12 1) || (fadd && tru (fld w.w1 11 1)),
                  r2 := nz w.w2 5 27 || (!cas && nz w.w2 0 5),
                  ins := mk ⟨fFunc w.w0, fB w, fA w.w0, fD w.w0, fld w.w1 16 16, tru (fld w.w1 14 1),
                    tru (fld w.w1 13 1), tru (fld w.w1 11 1), fld w.w1 8 3, fld w.w2 0 5⟩ })

/-- The X-address shape. -/
def fX (w : Words) : XCmd := ⟨fFunc w.w0, fB w, fA w.w0, fD w.w0, fld w.w1 8 3⟩

/-- An X-address command whose word 1 uses the bits below `hi` beyond its segment as `r1` says. -/
def rowX (w : Words) (r0 r1 : Bool) (i : Instr) : Option Plan :=
  some (planB w { r0 := r0, r1 := r1, r2 := w.w2 != 0, ins := i })

/-- V. -/
def fV3 (w : Words) : V3 := ⟨fTy w.w0, fPg w.w0, fVb w.w0, fA w.w0, fD w.w0⟩

/-- A V row. -/
def rowV (r0 v0 : Bool) (i : Instr) : Option Plan := some { r0 := r0, v0 := v0, ins := i }

/-- The XV shape of 13 R327. -/
def fXv (w : Words) : XvA :=
  ⟨fFunc w.w0, fTy w.w0, fPg w.w0, fVb w.w0, fA w.w0, fD w.w0, fld w.w1 12 2, tru (fld w.w1 11 1)⟩

/-- A row of major 0x27 (13 R327, R328). -/
def rowFn (w : Words) (unary rm : Bool) (mk : XvA → Instr) : Option Plan :=
  some { r0 := unary && nz w.w0 18 5, v0 := !tyF (fTy w.w0),
         r1 := nz w.w1 14 18 || (!rm && nz w.w1 12 2) || nz w.w1 8 4, r2 := w.w2 != 0, ins := mk (fXv w) }

/-- A row of major 0x28 (13 R327, R329). -/
def rowRed (w : Words) (mk : XvA → Instr) : Option Plan :=
  some { r0 := nz w.w0 18 5, r1 := nz w.w1 12 20 || nz w.w1 8 3,
         v1 := !b8Ok (tru (fld w.w1 11 1)) (fTy w.w0), r2 := w.w2 != 0, ins := mk (fXv w) }

/-- VLD and VST, VL. -/
def fVl (w : Words) : VlA := ⟨fFunc w.w0, fTy w.w0, fPg w.w0, fA w.w0, fD w.w0⟩

/-- VLD and VST, strided. -/
def fVStr (w : Words) : VStrA :=
  ⟨fFunc w.w0, fTy w.w0, fPg w.w0, fA w.w0, fD w.w0, fld w.w1 16 16, tru (fld w.w1 11 1), fld w.w1 8 3, w.w2⟩

/-- A row of majors 0x29 and 0x2A (13 R330). -/
def rowVmem (w : Words) (store : Bool) (mk : VlA → Instr) (mkS : VStrA → Instr) : Option Plan :=
  if fLen w.w0 == 0 then some { look := store && fFunc w.w0 != 0, r0 := nz w.w0 18 5, ins := mk (fVl w) }
  else some { look := store && fFunc w.w0 != 0, r0 := nz w.w0 18 5, r1 := nz w.w1 12 4 || nz w.w1 0 8,
              v1 := !b8Ok (tru (fld w.w1 11 1)) (fTy w.w0), ins := mkS (fVStr w) }

/-- The offset of VLDX and VSTX (13 R331). -/
def fXOff (w : Words) : XOff := if hasLit w.w0 then .lit w.lit else .small (fld w.w1 16 16)

/-- VLDX and VSTX. -/
def rowIdx (w : Words) (store : Bool) (mk : VIdxA → Instr) : Option Plan :=
  some { look := store && fFunc w.w0 != 0, useLit := true, r1 := nz w.w1 12 2 || (hasLit w.w0 && nz w.w1 16 16),
         v1 := !b8Ok (tru (fld w.w1 11 1)) (fTy w.w0), r2 := w.w2 != 0,
         ins := mk ⟨fFunc w.w0, fTy w.w0, fPg w.w0, fVb w.w0, fA w.w0, fD w.w0, fXOff w, fld w.w1 14 2,
           tru (fld w.w1 11 1), fld w.w1 8 3⟩ }

/-- VLDQ and VSTQ (14 R361). -/
def rowQu (w : Words) (store : Bool) (mk : VQuA → Instr) : Option Plan :=
  some { look := store && fFunc w.w0 != 0, v0 := !tyF (fTy w.w0), r1 := nz w.w1 16 16 || nz w.w1 11 3,
         v1 := !nz w.w1 14 2, r2 := nz w.w2 10 22,
         ins := mk ⟨fFunc w.w0, fTy w.w0, fPg w.w0, fVb w.w0, fA w.w0, fD w.w0, fld w.w1 14 2, fld w.w1 8 3,
           fld w.w2 5 5, fld w.w2 0 5⟩ }

/-- VCVT (13 R335). -/
def rowCvt (w : Words) : Option Plan :=
  let x : CvtA := ⟨fFunc w.w0, fPg w.w0, fA w.w0, fD w.w0, fld w.w1 18 2, fld w.w1 16 2, fld w.w1 12 4, fld w.w1 8 4⟩
  some { r0 := nz w.w0 26 2 || nz w.w0 18 5, r1 := nz w.w1 20 12 || nz w.w1 0 8, v1 := !x.ok, r2 := w.w2 != 0,
         ins := .vcvt x }

/-- WLD (14 R347). -/
def rowWld (w : Words) : Option Plan :=
  some (planB w { r1 := nz w.w1 16 16 || nz w.w1 11 3, v1 := !nz w.w1 14 2, r2 := w.w2 != 0,
                  ins := .wld ⟨fFunc w.w0, fB w, fA w.w0, fD w.w0, fld w.w1 14 2, fld w.w1 8 3, fld w.w1 3 5,
                    fld w.w1 0 3⟩ })

/-- MMA (14 R350). -/
def rowMma (w : Words) : Option Plan :=
  let run : R5 := fld w.w1 19 5
  some (planB w { r0 := run != 0 && nz w.w0 13 15, r1 := nz w.w1 24 8 || nz w.w1 18 1 || nz w.w1 0 6,
                  v1 := !nz w.w1 16 2 || (run != 0 && run.toNat < 24), r2 := nz w.w2 8 24,
                  ins := .mma ⟨fFunc w.w0, fB w, fA w.w0, fD w.w0, run, fld w.w1 16 2, tru (fld w.w1 15 1),
                    fld w.w1 10 5, tru (fld w.w1 9 1), fld w.w1 6 3, fld w.w2 5 3, fld w.w2 0 5⟩ })

/-- MSACC (14 R354). -/
def rowMsacc (w : Words) : Option Plan :=
  some (planB w { r0 := nz w.w0 8 5, r1 := nz w.w1 22 10 || nz w.w1 0 3, r2 := w.w2 != 0,
                  ins := .msacc ⟨fFunc w.w0, fB w, fA w.w0, fld w.w1 15 7, fld w.w1 10 5, fld w.w1 5 5,
                    tru (fld w.w1 4 1), tru (fld w.w1 3 1)⟩ })

/-- MST and MLDA (14 R356). -/
def rowMst (w : Words) (mk : MstA → Instr) : Option Plan :=
  let x : MstA := ⟨fFunc w.w0, fB w, fA w.w0, tru (fld w.w1 25 1), fld w.w1 18 7, fld w.w1 11 7, tru (fld w.w1 10 1),
    fld w.w2 0 12⟩
  some (planB w { r0 := nz w.w0 8 5, r1 := nz w.w1 26 6 || nz w.w1 8 2, r2 := nz w.w2 12 20, v2 := !x.strideOk,
                  ins := mk x })

/-- MSTQ (14 R356, R357, R359). -/
def rowMstq (w : Words) : Option Plan :=
  if !tru (fld w.w1 31 1) then
    some (planB w { r1 := nz w.w1 28 3 || nz w.w1 8 2, v1 := !nz w.w1 26 2,
                    r2 := nz w.w2 21 11 || nz w.w2 11 5 || nz w.w2 5 3,
                    ins := .mstq ⟨fFunc w.w0, fB w, fA w.w0, fD w.w0, fld w.w1 26 2, tru (fld w.w1 25 1),
                      fld w.w1 18 7, fld w.w1 11 7, tru (fld w.w1 10 1), fld w.w2 16 5, fld w.w2 8 3, fld w.w2 0 5⟩ })
  else
    some (planB w { r0 := (tru (fld w.w2 27 1) && nz w.w0 13 15) || (!tru (fld w.w2 28 1) && nz w.w0 8 5),
                    r1 := nz w.w1 25 6 || nz w.w1 8 2, v1 := nz w.w1 22 3,
                    r2 := nz w.w2 30 2 || nz w.w2 11 7 || nz w.w2 5 3,
                    ins := .mstqKv ⟨fFunc w.w0, fB w, fA w.w0, fD w.w0, fld w.w1 18 7, fld w.w1 11 7,
                      tru (fld w.w1 10 1), tru (fld w.w2 29 1), tru (fld w.w2 28 1), tru (fld w.w2 27 1),
                      tru (fld w.w2 26 1), fld w.w2 18 8, fld w.w2 8 3, fld w.w2 0 5⟩ })

/-- Edits (15 R373). -/
def rowEdit (w : Words) (tok : Bool) (mk : EditA → Instr) : Option Plan :=
  some (planB w { r1 := nz w.w1 13 19 || (!tok && nz w.w1 8 5), r2 := w.w2 != 0,
                  ins := mk ⟨fFunc w.w0, fB w, fA w.w0, fD w.w0, fld w.w1 8 5⟩ })

/-- The condition of BR (R244). -/
def brCond (c : BitVec 3) : Option BrCond :=
  match c with
  | 0 => some .eq
  | 1 => some .ne
  | 2 => some .lt
  | 3 => some .ge
  | 4 => some .ltu
  | 5 => some .geu
  | _ => none

/-- The condition of BRP (R244). -/
def brpCond (c : BitVec 3) : Option BrpCond :=
  match c with
  | 0 => some .any
  | 1 => some .none
  | 2 => some .all
  | 3 => some .nall
  | _ => none

/-- The condition of VCMP (R250). -/
def vCond (f : BitVec 4) : Option VCond :=
  match f with
  | 0 => some .eq
  | 1 => some .ne
  | 2 => some .lt
  | 3 => some .le
  | 4 => some .gt
  | 5 => some .ge
  | 6 => some .ltu
  | 7 => some .leu
  | 8 => some .gtu
  | 9 => some .geu
  | 10 => some .unord
  | 11 => some .ord
  | _ => none

/-- The scope of FENCE (12 R286). -/
def scopeOf (n : BitVec 8) : Option Scope :=
  match n with
  | 0 => some .thread
  | 1 => some .core
  | 2 => some .cluster
  | 3 => some .die
  | 4 => some .package
  | 5 => some .system
  | _ => none

/-- The path of DRAIN (12 R286). -/
def pathOf (n : BitVec 8) : Option Path :=
  match n with
  | 0 => some .ab
  | 1 => some .mem
  | 2 => some .wb
  | _ => none

/-- Major 0x01 (11 R258). -/
def plan01 (w : Words) : Option Plan :=
  match fFunc w.w0 with
  | 0 => rowAlu w .add
  | 1 => rowAlu w .sub
  | 2 => rowAlu w .mul
  | 3 => rowAlu w .mulh
  | 4 => rowAlu w .mulhu
  | 5 => rowAlu w .andr
  | 6 => rowAlu w .orr
  | 7 => rowAlu w .xor
  | 8 => rowAlu w .andn
  | 9 => rowAlu w .shl
  | 10 => rowAlu w .shr
  | 11 => rowAlu w .sar
  | 12 => rowAlu w .rol
  | 13 => rowAlu w .min
  | 14 => rowAlu w .max
  | _ => rowAlu w .minu

/-- Major 0x02 (11 R258). -/
def plan02 (w : Words) : Option Plan :=
  match fFunc w.w0 with
  | 0 => rowAlu w .maxu
  | 1 => rowAlu w .slt
  | 2 => rowAlu w .sltu
  | 3 => rowAlu w .seq
  | 4 => rowAlu w .sne
  | 5 => rowUna w .clz
  | 6 => rowUna w .ctz
  | 7 => rowUna w .popc
  | 8 => rowUna w .brev
  | 9 => rowUna w .bswap
  | 10 => rowUna w .sextb
  | 11 => rowUna w .sexth
  | 12 => rowUna w .sextw
  | 13 => rowUna w .zextw
  | 14 => rowAlu w .scadd
  | _ => rowAlu w .sel

/-- BFXS and BFXU (11 R259). -/
def rowBfx (w : Words) (mk : Bfx → Instr) : Option Plan :=
  some (planU w { look := nz w.w0 28 4, r1 := nz w.w1 20 12,
                  v1 := 64 < (fld w.w1 8 6).toNat + (fld w.w1 14 6).toNat + 1, r2 := w.w2 != 0,
                  ins := mk ⟨fD w.w0, fA w.w0, fld w.w1 8 6, fld w.w1 14 6⟩ })

/-- Major 0x03 (11 R259). -/
def plan03 (w : Words) : Option Plan :=
  match fFunc8 w.w1 with
  | 0 => rowBfx w .bfxs
  | 1 => rowBfx w .bfxu
  | 2 =>
    some (planB w { look := nz w.w0 28 4, r1 := nz w.w1 20 12,
                    v1 := 64 < (fld w.w1 8 6).toNat + (fld w.w1 14 6).toNat + 1, r2 := w.w2 != 0,
                    ins := .bfi ⟨fD w.w0, fA w.w0, fB w, fld w.w1 8 6, fld w.w1 14 6⟩ })
  | _ => none

/-- Major 0x08 (11 R261). -/
def plan08 (w : Words) : Option Plan :=
  match brCond (fSeg w.w0) with
  | some c => some { ins := .br c (fD w.w0) (fA w.w0) (fOff11 w.w0) }
  | none => some { v0 := true, ins := .br .eq (fD w.w0) (fA w.w0) (fOff11 w.w0) }

/-- Major 0x0C (11 R262). -/
def plan0C (w : Words) : Option Plan :=
  match brpCond (fSeg w.w0) with
  | some c => some { r0 := nz w.w0 13 5, v0 := nz w.w0 11 2, ins := .brp c (fld w.w0 8 3) (fOff11 w.w0) }
  | none => some { r0 := nz w.w0 13 5, v0 := true, ins := .brp .any (fld w.w0 8 3) (fOff11 w.w0) }

/-- Major 0x0B (11 R264). -/
def plan0B (w : Words) : Option Plan :=
  match fFunc w.w0 with
  | 0 => some (planB w { r0 := nz w.w0 8 5, ins := .jmpr (fA w.w0) (fB w) })
  | 1 => some (planB w { v0 := !nz w.w0 8 5, ins := .callr ⟨fD w.w0, fA w.w0, fB w⟩ })
  | 2 => some (planU w { r0 := nz w.w0 8 10, ins := .ret })
  | _ => none

/-- Major 0x0D (11 R266 to R270, 06 R184). -/
def plan0D (w : Words) : Option Plan :=
  match fFunc w.w0 with
  | 0 => some (planU w { r0 := nz w.w0 8 10, ins := .nop })
  | 1 => some (planU w { r0 := nz w.w0 8 10, ins := .yield })
  | 2 => some (planU w { r0 := nz w.w0 8 10, ins := .halt })
  | 3 => some (planB w { r0 := nz w.w0 8 10, ins := .trap (fB w) })
  | 4 => some (planB w { r0 := nz w.w0 8 10, ins := .bkpt (fB w) })
  | 5 => some (planF w { r0 := nz w.w0 13 5, ins := .gets (fD w.w0) (fOpb w.w0) })
  | 6 => some (planF w { r0 := nz w.w0 8 5,
                         ins := if fOpb w.w0 == 0x12 then .stepgo (fA w.w0) else .sets (fOpb w.w0) (fA w.w0) })
  | 7 => some (planU w { r0 := nz w.w0 8 10, ins := .eret })
  | _ => none

/-- Major 0x14 (12 R283). -/
def plan14 (w : Words) : Option Plan :=
  match fFunc w.w0 with
  | 0 => rowSlice w (nz w.w0 8 5) fun x => .feset { x with d := 0 }
  | 1 => rowSlice w (nz w.w0 8 5) fun x => .feclr { x with d := 0 }
  | 2 => rowSlice w false .feget
  | _ => none

/-- Major 0x15 (12 R284). -/
def plan15 (w : Words) : Option Plan :=
  match fFunc8 w.w1 with
  | 0 => rowAmo w false false .amoadd
  | 1 => rowAmo w false false .amoand
  | 2 => rowAmo w false false .amoor
  | 3 => rowAmo w false false .amoxor
  | 4 => rowAmo w false false .amomin
  | 5 => rowAmo w false false .amomax
  | 6 => rowAmo w false false .amominu
  | 7 => rowAmo w false false .amomaxu
  | 8 => rowAmo w false false .amoswp
  | 9 => rowAmo w true false .amocas
  | 10 => rowAmo w false true .amofadd
  | _ => none

/-- OPB of 8 or more. -/
def opbOver8 (w : BitVec 32) : Bool := nz w 21 5

/-- Major 0x16 (12 R286). -/
def plan16 (w : Words) : Option Plan :=
  match fFunc w.w0 with
  | 0 => some (planF w { r0 := nz w.w0 8 10, v0 := (scopeOf (fOpb w.w0)).isNone,
                         ins := .fence ((scopeOf (fOpb w.w0)).getD .thread) })
  | 1 => some (planF w { r0 := nz w.w0 8 10, v0 := (pathOf (fOpb w.w0)).isNone,
                         ins := .drain ((pathOf (fOpb w.w0)).getD .ab) })
  | 2 => some (planF w { r0 := nz w.w0 8 10, v0 := opbOver8 w.w0, ins := .bar (opb3 w.w0) })
  | 3 => some (planF w { r0 := nz w.w0 8 10, v0 := opbOver8 w.w0, ins := .sbar (opb3 w.w0) })
  | 4 => some (planF w { v0 := opbOver8 w.w0, ins := .bind (fD w.w0) (fA w.w0) (opb3 w.w0) })
  | 5 => some (planU w { r0 := nz w.w0 13 5, ins := .unbind (fD w.w0) })
  | 6 => some (planF w { r0 := nz w.w0 8 5, v0 := opbOver8 w.w0, ins := .flume (opb3 w.w0) (fA w.w0) })
  | _ => none

/-- Major 0x17 (12 R292). -/
def plan17 (w : Words) : Option Plan :=
  some (planF w { r0 := nz w.w0 19 7,
                  ins := if tru (fld w.w0 18 1) then .mrecvPoll (fFunc w.w0) (fD w.w0) (fA w.w0)
                         else .mrecv (fFunc w.w0) (fD w.w0) (fA w.w0) })

/-- Major 0x18 (12 R292, R295). -/
def plan18 (w : Words) : Option Plan :=
  match fFunc w.w0 with
  | 0 => some (planF w { v0 := opbOver8 w.w0, ins := .msend (fD w.w0) (fA w.w0) (opb3 w.w0) })
  | 1 => some (planU w { ins := .spawn (fD w.w0) (fA w.w0) })
  | 2 => some (planF w { r0 := opbOver8 w.w0, v0 := nz w.w0 11 2,
                         ins := .segld (fld w.w0 8 3) (fA w.w0) (opb3 w.w0) })
  | 3 => some (planF w { v0 := nz w.w0 16 2 || nz w.w0 19 7,
                         ins := .segrd (fD w.w0) (fld w.w0 13 3) (tru (fld w.w0 18 1)) })
  | _ => none

/-- Major 0x19 (12 R302). -/
def plan19 (w : Words) : Option Plan :=
  match fFunc8 w.w1 with
  | 0 => rowX w false (nz w.w1 11 21) (.cpy (fX w))
  | 1 => rowX w false (nz w.w1 12 20) (if tru (fld w.w1 11 1) then .cpyrOrd (fX w) else .cpyr (fX w))
  | 2 => rowX w false (nz w.w1 11 21) (.rqcpy (fX w))
  | 3 => rowX w false (nz w.w1 16 16 || nz w.w1 11 1) (.chain ⟨fX w, fld w.w1 12 4⟩)
  | _ => none

/-- Major 0x1A (12 R309). -/
def plan1A (w : Words) : Option Plan :=
  match fFunc8 w.w1 with
  | 0 => rowX w false (nz w.w1 11 21) (.cstep (fX w))
  | 1 => rowX w false (nz w.w1 11 21) (.cchain (fX w))
  | _ => none

/-- Major 0x1B (12 R310). -/
def plan1B (w : Words) : Option Plan :=
  match fFunc w.w0 with
  | 0 => some (planF w { r0 := opbOver8 w.w0, ins := .dgst (fD w.w0) (fA w.w0) (opb3 w.w0) })
  | 1 => rowSlice w false .pin
  | 2 => rowSlice w false .unpin
  | 3 => some (planF w { ins := .cistrn (fD w.w0) (fA w.w0) (fOpb w.w0) })
  | _ => none

/-- Major 0x1C (12 R296). -/
def plan1C (w : Words) : Option Plan :=
  match fFunc w.w0 with
  | 0 => rowAlu w .ldb
  | 1 => rowAlu w .stb
  | _ => none

/-- Major 0x20 (13 R319). -/
def plan20 (w : Words) : Option Plan :=
  let v0 := !tyF (fTy w.w0)
  let u := nz w.w0 18 5
  match fFunc w.w0 with
  | 0 => rowV false v0 (.vadd (fV3 w))
  | 1 => rowV false v0 (.vsub (fV3 w))
  | 2 => rowV false v0 (.vmul (fV3 w))
  | 3 => rowV false v0 (.vfma (fV3 w))
  | 4 => rowV false v0 (.vfms (fV3 w))
  | 5 => rowV false v0 (.vnfma (fV3 w))
  | 6 => rowV false v0 (.vmin (fV3 w))
  | 7 => rowV false v0 (.vmax (fV3 w))
  | 8 => rowV u v0 (.vabs (fV3 w))
  | 9 => rowV u v0 (.vneg (fV3 w))
  | 10 => rowV u v0 (.vrcpe (fV3 w))
  | 11 => rowV u v0 (.vrsqe (fV3 w))
  | _ => none

/-- Major 0x21 (13 R317, R319). -/
def plan21 (w : Words) : Option Plan :=
  let v0 := !tyF (fTy w.w0)
  match fFunc w.w0 with
  | 0 => rowV false v0 (.vaddS (fV3 w))
  | 1 => rowV false v0 (.vsubS (fV3 w))
  | 2 => rowV false v0 (.vmulS (fV3 w))
  | 3 => rowV false v0 (.vfmaS (fV3 w))
  | 4 => rowV false v0 (.vfmsS (fV3 w))
  | 5 => rowV false v0 (.vnfmaS (fV3 w))
  | 6 => rowV false v0 (.vminS (fV3 w))
  | 7 => rowV false v0 (.vmaxS (fV3 w))
  | _ => none

/-- Major 0x22 (13 R321). -/
def plan22 (w : Words) : Option Plan :=
  let v0 := !tyI (fTy w.w0)
  match fFunc w.w0 with
  | 0 => rowV false v0 (.viadd (fV3 w))
  | 1 => rowV false v0 (.visub (fV3 w))
  | 2 => rowV false v0 (.vimul (fV3 w))
  | 3 => rowV false v0 (.vand (fV3 w))
  | 4 => rowV false v0 (.vor (fV3 w))
  | 5 => rowV false v0 (.vxor (fV3 w))
  | 6 => rowV false v0 (.vshl (fV3 w))
  | 7 => rowV false v0 (.vshr (fV3 w))
  | 8 => rowV false v0 (.vsar (fV3 w))
  | 9 => rowV false v0 (.vimin (fV3 w))
  | 10 => rowV false v0 (.vimax (fV3 w))
  | 11 => rowV false v0 (.viminu (fV3 w))
  | 12 => rowV false v0 (.vimaxu (fV3 w))
  | _ => none

/-- Major 0x23 (13 R317, R321). -/
def plan23 (w : Words) : Option Plan :=
  let v0 := !tyI (fTy w.w0)
  match fFunc w.w0 with
  | 0 => rowV false v0 (.viaddS (fV3 w))
  | 1 => rowV false v0 (.visubS (fV3 w))
  | 2 => rowV false v0 (.vimulS (fV3 w))
  | 3 => rowV false v0 (.vandS (fV3 w))
  | 4 => rowV false v0 (.vorS (fV3 w))
  | 5 => rowV false v0 (.vxorS (fV3 w))
  | 6 => rowV false v0 (.vshlS (fV3 w))
  | 7 => rowV false v0 (.vshrS (fV3 w))
  | 8 => rowV false v0 (.vsarS (fV3 w))
  | 9 => rowV false v0 (.viminS (fV3 w))
  | 10 => rowV false v0 (.vimaxS (fV3 w))
  | 11 => rowV false v0 (.viminuS (fV3 w))
  | 12 => rowV false v0 (.vimaxuS (fV3 w))
  | _ => none

/-- Major 0x24 (10 R250); FUNC4 of 12 and more is unassigned: DEDUCED (log 54). -/
def plan24 (w : Words) : Option Plan :=
  match vCond (fFunc w.w0) with
  | some c => rowV false (nz w.w0 11 2 || !c.tyOk (fTy w.w0)) (.vcmp c (fV3 w))
  | none => none

/-- Major 0x25 (13 R323). -/
def plan25 (w : Words) : Option Plan :=
  let u := nz w.w0 18 5
  let pd := nz w.w0 11 2
  let pa := nz w.w0 16 2
  match fFunc w.w0 with
  | 0 => rowV (u || nz w.w0 26 2) (pd || pa) (.pand (fV3 w))
  | 1 => rowV (u || nz w.w0 26 2) (pd || pa) (.por (fV3 w))
  | 2 => rowV (u || nz w.w0 26 2) (pd || pa) (.pxor (fV3 w))
  | 3 => rowV (u || nz w.w0 26 2) (pd || pa) (.pandn (fV3 w))
  | 4 => rowV u pd (.whilelt (fV3 w))
  | 5 => rowV u pd (.whilele (fV3 w))
  | 6 => rowV u pa (.vpopc (fV3 w))
  | 7 => rowV u pa (.vfirst (fV3 w))
  | 8 => rowV false false (.vsel (fV3 w))
  | 9 => rowV u false (.vext (fV3 w))
  | 10 => rowV u false (.vins (fV3 w))
  | 11 => rowV u false (.vbcast (fV3 w))
  | 12 => rowV (u || nz w.w0 13 5) (!tyI (fTy w.w0)) (.viota (fV3 w))
  | 13 => rowV (u || nz w.w0 13 5 || nz w.w0 23 3) false (.vlen (fV3 w))
  | 14 => rowV u false (.vmov (fV3 w))
  | _ => none

/-- Major 0x26 (13 R325, R326). -/
def plan26 (w : Words) : Option Plan :=
  let u := nz w.w0 18 5
  match fFunc w.w0 with
  | 0 => rowV false false (.vperm (fV3 w))
  | 1 => rowV false false (.vziplo (fV3 w))
  | 2 => rowV false false (.vziphi (fV3 w))
  | 3 => rowV false false (.vunzlo (fV3 w))
  | 4 => rowV false false (.vunzhi (fV3 w))
  | 5 => rowV false false (.vslideup (fV3 w))
  | 6 => rowV false false (.vslidedn (fV3 w))
  | 7 => rowV u false (.vrev (fV3 w))
  | 8 => rowV u false (.vcompact (fV3 w))
  | 9 => rowV false (!tyF (fTy w.w0)) (.vrope (fV3 w))
  | _ => none

/-- Major 0x27 (13 R328). -/
def plan27 (w : Words) : Option Plan :=
  match fFunc8 w.w1 with
  | 0 => rowFn w false true .vdiv
  | 1 => rowFn w true true .vsqrt
  | 2 => rowFn w true false .vexp
  | 3 => rowFn w true false .vlog
  | 4 => rowFn w true false .vtanh
  | 5 => rowFn w true false .verf
  | _ => none

/-- Major 0x28 (13 R329). -/
def plan28 (w : Words) : Option Plan :=
  match fFunc8 w.w1 with
  | 0 => rowRed w .vredadd
  | 1 => rowRed w .vredmax
  | 2 => rowRed w .vredmin
  | 3 => rowRed w .vscanadd
  | _ => none

/-- Major 0x2B (13 R331). -/
def plan2B (w : Words) : Option Plan :=
  match fFunc8 w.w1 with
  | 0 => rowIdx w false .vldx
  | 1 => rowIdx w true .vstx
  | _ => none

/-- Major 0x2C (14 R361). -/
def plan2C (w : Words) : Option Plan :=
  match fFunc8 w.w1 with
  | 0 => rowQu w false .vldq
  | 1 => rowQu w true .vstq
  | _ => none

/-- Major 0x2E (13 R338, R339). -/
def plan2E (w : Words) : Option Plan :=
  match fFunc w.w0 with
  | 0 => some (planF w { r0 := nz w.w0 13 5 || nz w.w0 23 3, ins := .vrng (fD w.w0) (fld w.w0 18 3) (fld w.w0 21 2) })
  | 1 => some (planU w { r0 := nz w.w0 8 5, ins := .rseed (fA w.w0) })
  | _ => none

/-- Major 0x33 (14 R355). -/
def plan33 (w : Words) : Option Plan :=
  match fFunc w.w0 with
  | 0 => some (planU w { r0 := nz w.w0 11 7, v0 := nz w.w0 10 1, ins := .mzero (fld w.w0 8 2) })
  | 1 => some (planF w { r0 := nz w.w0 8 10, v0 := opbOver8 w.w0, ins := .mpri (opb3 w.w0) })
  | _ => none

/-- Major 0x34 (14 R356). -/
def plan34 (w : Words) : Option Plan :=
  match fFunc8 w.w1 with
  | 0 => rowMst w .mst
  | 1 => rowMstq w
  | 2 => rowMst w .mlda
  | _ => none

/-- Major 0x35 (15 R366). -/
def plan35 (w : Words) : Option Plan :=
  some (planB w { r1 := nz w.w1 16 16 || nz w.w1 13 2 || nz w.w1 3 2, r2 := w.w2 != 0,
                  ins := .gathb ⟨fFunc w.w0, fB w, fA w.w0, fD w.w0, tru (fld w.w1 15 1), fld w.w1 10 3, fld w.w1 5 5,
                    fld w.w1 0 3⟩ })

/-- Major 0x36 (15 R368). -/
def plan36 (w : Words) : Option Plan :=
  match fFunc8 w.w1 with
  | 0 => rowX w false (nz w.w1 16 16 || nz w.w1 11 4) (.attn ⟨fX w, tru (fld w.w1 15 1)⟩)
  | 1 => some (planF w { r0 := nz w.w0 13 5, v0 := nz w.w0 20 6, r1 := nz w.w1 8 24, r2 := w.w2 != 0,
                         ins := .atedrain (fFunc w.w0) (fD w.w0) (fld w.w0 18 2) })
  | 2 => some (planU w { r0 := nz w.w0 13 5, r1 := nz w.w1 8 24, r2 := w.w2 != 0,
                         ins := .atbound (fFunc w.w0) (fD w.w0) })
  | _ => none

/-- Major 0x38 (15 R373). -/
def plan38 (w : Words) : Option Plan :=
  match fFunc8 w.w1 with
  | 0 => rowEdit w true .edins
  | 1 => rowEdit w false .eddel
  | 2 => rowEdit w true .edsub
  | _ => none

/-- Major 0x39 (15 R377 to R380). -/
def plan39 (w : Words) : Option Plan :=
  match fFunc8 w.w1 with
  | 0 => rowX w false (nz w.w1 8 24) (.settle ⟨fFunc w.w0, fD w.w0, fA w.w0, fB w⟩)
  | 1 => rowX w false (nz w.w1 21 11 || nz w.w1 11 4)
           (if tru (fld w.w1 15 1) then .ctxrdAt ⟨fX w, fld w.w1 16 5⟩ else .ctxrdNow ⟨fX w, fld w.w1 16 5⟩)
  | 2 => some (planB w { v0 := nz w.w0 8 1 || !nz w.w0 8 5, r1 := nz w.w1 8 24, r2 := w.w2 != 0,
                         ins := .silt ⟨fFunc w.w0, fD w.w0, fA w.w0, fB w⟩ })
  | _ => none

/-- Major 0x3A (15 R376, R381 to R385). -/
def plan3A (w : Words) : Option Plan :=
  match fFunc8 w.w1 with
  | 0 =>
    if tru (fld w.w1 15 1) then
      some (planU w { r1 := nz w.w1 16 16 || nz w.w1 8 7, r2 := w.w2 != 0,
                      ins := .ctxregRel (fFunc w.w0) (fD w.w0) (fA w.w0) })
    else rowX w false (nz w.w1 16 16 || nz w.w1 11 4) (.ctxreg (fX w))
  | 1 => rowX w false (nz w.w1 21 11 || nz w.w1 11 4)
           (if tru (fld w.w1 15 1) then .commitbSkip ⟨fX w, fld w.w1 16 5⟩ else .commitb ⟨fX w, fld w.w1 16 5⟩)
  | 2 => rowX w false (nz w.w1 21 11 || nz w.w1 11 5) (.probe ⟨fX w, fld w.w1 16 5⟩)
  | 3 => some (planU w { r1 := nz w.w1 8 24, r2 := w.w2 != 0, ins := .repack (fFunc w.w0) (fD w.w0) (fA w.w0) })
  | _ => none

/-- Major 0x3B (15 R386). -/
def plan3B (w : Words) : Option Plan :=
  match fFunc8 w.w1 with
  | 0 => rowX w (nz w.w0 8 5) (nz w.w1 11 21) (.fcst { fX w with d := 0 })
  | 1 => some (planU w { r0 := nz w.w0 8 5, r1 := nz w.w1 8 24, r2 := w.w2 != 0,
                         ins := .facc (fFunc w.w0) (fA w.w0) })
  | 2 => some (planU w { r0 := nz w.w0 8 10, r1 := nz w.w1 8 24, r2 := w.w2 != 0, ins := .fend (fFunc w.w0) })
  | _ => none

/-- The row that the words name (R249), or none where the function value is reserved. -/
def plan (w : Words) : Option Plan :=
  match (fMajor w.w0).toNat with
  | 0x01 => plan01 w
  | 0x02 => plan02 w
  | 0x03 => plan03 w
  | 0x04 => rowLong w .div
  | 0x05 => rowLong w .divu
  | 0x06 => rowLong w .rem
  | 0x07 => rowLong w .remu
  | 0x08 => plan08 w
  | 0x09 => some { r0 := nz w.w0 8 5, ins := .jmp (fOff19 w.w0) }
  | 0x0A => some { v0 := !nz w.w0 8 5, ins := .call (fD w.w0) (fOff19 w.w0) }
  | 0x0B => plan0B w
  | 0x0C => plan0C w
  | 0x0D => plan0D w
  | 0x10 => rowLoad w (fSz w.w0 == 3 && tru (fSx w.w0)) .ld
  | 0x11 => rowStore w .st
  | 0x12 => rowLoad w (tru (fFr w.w0)) .ldf
  | 0x13 => rowStore w .stf
  | 0x14 => plan14 w
  | 0x15 => plan15 w
  | 0x16 => plan16 w
  | 0x17 => plan17 w
  | 0x18 => plan18 w
  | 0x19 => plan19 w
  | 0x1A => plan1A w
  | 0x1B => plan1B w
  | 0x1C => plan1C w
  | 0x20 => plan20 w
  | 0x21 => plan21 w
  | 0x22 => plan22 w
  | 0x23 => plan23 w
  | 0x24 => plan24 w
  | 0x25 => plan25 w
  | 0x26 => plan26 w
  | 0x27 => plan27 w
  | 0x28 => plan28 w
  | 0x29 => rowVmem w false .vld .vldStrided
  | 0x2A => rowVmem w true .vst .vstStrided
  | 0x2B => plan2B w
  | 0x2C => plan2C w
  | 0x2D => rowCvt w
  | 0x2E => plan2E w
  | 0x30 => rowWld w
  | 0x31 => rowMma w
  | 0x32 => rowMsacc w
  | 0x33 => plan33 w
  | 0x34 => plan34 w
  | 0x35 => plan35 w
  | 0x36 => plan36 w
  | 0x38 => plan38 w
  | 0x39 => plan39 w
  | 0x3A => plan3A w
  | 0x3B => plan3B w
  | _ => none

/-- The word that holds a major's function value: FUNC8 stands in word 1 (R253, R254). -/
def funcWord (w0 : BitVec 32) : Nat := if lenLong (fMajor w0).toNat then 1 else 0

/-- Decodes the words of one instruction, all present (R253). -/
def decodeWords (w : Words) : Dec :=
  match decodeHead w.w0 with
  | .illegal => .ok (.illegalInstruction w.w0)
  | .bad c => .bad c 0
  | .words _ =>
    match plan w with
    | none => .bad 3 (funcWord w.w0)
    | some p => p.run w

/-- The words that a list of 32-bit words holds, by the base word's LEN (R235). -/
def wordsOf (l : List (BitVec 32)) : Words :=
  let w0 := l.getD 0 0
  match (fLen w0).toNat with
  | 0 => ⟨w0, 0, 0, 0⟩
  | 1 => ⟨w0, 0, 0, l.getD 2 0 ++ l.getD 1 0⟩
  | 2 => ⟨w0, l.getD 1 0, l.getD 2 0, 0⟩
  | _ => ⟨w0, l.getD 1 0, l.getD 2 0, l.getD 4 0 ++ l.getD 3 0⟩

/-- The little-endian 32-bit words of bytes (00 R2). -/
def wordsOfBytes : List Byte → List (BitVec 32)
  | a :: b :: c :: d :: t => (d ++ c ++ b ++ a) :: wordsOfBytes t
  | _ => []

/-- Decodes the instruction that bytes begin with, missing bytes reading zero. -/
def decodeBytes (l : List Byte) : Dec := decodeWords (wordsOf (wordsOfBytes l))

/-! ## The encoder -/

/-- A base word of the S, L, XS and XL layouts (R241). -/
def packS (f : BitVec 4) (bk : BitVec 2) (opb : BitVec 8) (a d : R5) (m : BitVec 6) (len : BitVec 2) : BitVec 32 :=
  f ++ bk ++ opb ++ a ++ d ++ m ++ len

/-- A base word of the V, VL and XV layouts (R246). -/
def packV (f : BitVec 4) (ty : BitVec 2) (pg : BitVec 3) (b a d : R5) (m : BitVec 6) (len : BitVec 2) : BitVec 32 :=
  f ++ ty ++ pg ++ b ++ a ++ d ++ m ++ len

/-- A base word of the M layout (R243). -/
def packM (look : BitVec 4) (off : BitVec 3) (fr sx : BitVec 1) (sz : BitVec 2) (seg : BitVec 3) (base d : R5)
    (m : BitVec 6) (len : BitVec 2) : BitVec 32 :=
  look ++ off ++ fr ++ sx ++ sz ++ seg ++ base ++ d ++ m ++ len

/-- A base word of the B layout (R244). -/
def packB (off : BitVec 11) (cond : BitVec 3) (b a : R5) (m : BitVec 6) : BitVec 32 :=
  off ++ cond ++ b ++ a ++ m ++ (0 : BitVec 2)

/-- A base word of the J layout (R245). -/
def packJ (off : BitVec 19) (link : R5) (m : BitVec 6) : BitVec 32 := off ++ link ++ m ++ (0 : BitVec 2)

/-- A truth value as a one-bit field. -/
def bit1 (b : Bool) : BitVec 1 := if b then 1 else 0

/-- BK of an operand. -/
def BOp.bk : BOp → BitVec 2
  | .reg _ => 0
  | .cw _ => 1
  | .imm _ => 2
  | .lit _ => 3

/-- OPB of an operand. -/
def BOp.opb : BOp → BitVec 8
  | .reg r => (0 : BitVec 3) ++ r
  | .cw n => n
  | .imm v => v
  | .lit _ => 0

/-- The two words of a literal, low first (R235). -/
def litWords (v : Word) : List (BitVec 32) := [v.extractLsb' 0 32, v.extractLsb' 32 32]

/-- The literal of an operand. -/
def BOp.tail : BOp → List (BitVec 32)
  | .lit v => litWords v
  | _ => []

/-- LEN of an S or L instruction with this operand. -/
def BOp.lenS : BOp → BitVec 2
  | .lit _ => 1
  | _ => 0

/-- LEN of an X instruction with this operand. -/
def BOp.lenX : BOp → BitVec 2
  | .lit _ => 3
  | _ => 2

/-- An S instruction with a b() operand. -/
def encS (f : BitVec 4) (b : BOp) (a d : R5) (m : BitVec 6) : List (BitVec 32) :=
  packS f b.bk b.opb a d m b.lenS :: b.tail

/-- An S instruction with BK and OPB given, and no literal. -/
def encF (f : BitVec 4) (bk : BitVec 2) (opb : BitVec 8) (a d : R5) (m : BitVec 6) : List (BitVec 32) :=
  [packS f bk opb a d m 0]

/-- An X instruction with a b() operand. -/
def encX (f : BitVec 4) (b : BOp) (a d : R5) (m : BitVec 6) (w1 w2 : BitVec 32) : List (BitVec 32) :=
  packS f b.bk b.opb a d m b.lenX :: w1 :: w2 :: b.tail

/-- An X instruction with BK and OPB given, and no literal. -/
def encXF (f : BitVec 4) (bk : BitVec 2) (opb : BitVec 8) (a d : R5) (m : BitVec 6) (w1 w2 : BitVec 32) :
    List (BitVec 32) := [packS f bk opb a d m 2, w1, w2]

/-- A V instruction. -/
def encV (f : BitVec 4) (x : V3) (m : BitVec 6) : List (BitVec 32) := [packV f x.ty x.pg x.b x.a x.d m 0]

/-- Word 1 of BFXS, BFXU and BFI. -/
def w1Bf (wm1 pos : BitVec 6) (f : BitVec 8) : BitVec 32 := (0 : BitVec 12) ++ wm1 ++ pos ++ f

/-- M offset fields: OFF3, LEN and the literal. -/
def MOff.off3 : MOff → BitVec 3
  | .small o => o
  | .lit _ => 0

/-- LEN of an M instruction. -/
def MOff.len : MOff → BitVec 2
  | .small _ => 0
  | .lit _ => 1

/-- The literal of an M instruction. -/
def MOff.tail : MOff → List (BitVec 32)
  | .small _ => []
  | .lit v => litWords v

/-- LD and LDF. -/
def encLoad (x : LoadA) (m : BitVec 6) : List (BitVec 32) :=
  packM x.look x.off.off3 (bit1 x.fr) (bit1 x.sx) x.sz x.seg x.base x.d m x.off.len :: x.off.tail

/-- ST and STF. -/
def encStore (x : StoreA) (m : BitVec 6) : List (BitVec 32) :=
  packM 0 x.off.off3 0 0 x.sz x.seg x.base x.d m x.off.len :: x.off.tail

/-- A slice operand. -/
def encSlice (f : BitVec 4) (x : SliceA) (m : BitVec 6) : List (BitVec 32) := encF f 2 (x.seg ++ x.off) x.a x.d m

/-- An atomic. -/
def encAmo (x : AmoA) (f : BitVec 8) : List (BitVec 32) :=
  encX x.look x.b x.a x.d 0x15
    (x.off ++ (0 : BitVec 1) ++ bit1 x.rel ++ bit1 x.acq ++ (1 : BitVec 1) ++ bit1 x.dbl ++ x.seg ++ f)
    ((0 : BitVec 27) ++ x.cr)

/-- An X-address command with the bits of word 1 above the segment. -/
def encCmd (x : XCmd) (m : BitVec 6) (hi : BitVec 21) (f : BitVec 8) : List (BitVec 32) :=
  encX x.look x.b x.a x.d m (hi ++ x.seg ++ f) 0

/-- The XV shape of 13 R327. -/
def encXv (x : XvA) (m : BitVec 6) (f : BitVec 8) : List (BitVec 32) :=
  [packV x.look x.ty x.pg x.b x.a x.d m 2,
   (0 : BitVec 18) ++ x.rm ++ bit1 x.b8 ++ (0 : BitVec 3) ++ f, 0]

/-- VLD and VST, VL. -/
def encVl (x : VlA) (m : BitVec 6) : List (BitVec 32) := [packV x.look x.ty x.pg 0 x.a x.d m 0]

/-- VLD and VST, strided. -/
def encVStr (x : VStrA) (m : BitVec 6) : List (BitVec 32) :=
  [packV x.look x.ty x.pg 0 x.a x.d m 2, x.off ++ (0 : BitVec 4) ++ bit1 x.b8 ++ x.seg ++ (0 : BitVec 8), x.stride]

/-- OFF16 of VLDX and VSTX. -/
def XOff.off16 : XOff → BitVec 16
  | .small o => o
  | .lit _ => 0

/-- LEN of VLDX and VSTX. -/
def XOff.len : XOff → BitVec 2
  | .small _ => 2
  | .lit _ => 3

/-- The literal of VLDX and VSTX. -/
def XOff.tail : XOff → List (BitVec 32)
  | .small _ => []
  | .lit v => litWords v

/-- VLDX and VSTX. -/
def encIdx (x : VIdxA) (f : BitVec 8) : List (BitVec 32) :=
  packV x.look x.ty x.pg x.b x.a x.d 0x2B x.off.len ::
  (x.off.off16 ++ x.sc ++ (0 : BitVec 2) ++ bit1 x.b8 ++ x.seg ++ f) :: 0 :: x.off.tail

/-- VLDQ and VSTQ. -/
def encQu (x : VQuA) (f : BitVec 8) : List (BitVec 32) :=
  [packV x.look x.ty x.pg x.b x.a x.d 0x2C 2, (0 : BitVec 16) ++ x.qf ++ (0 : BitVec 3) ++ x.seg ++ f,
   (0 : BitVec 22) ++ x.s ++ x.f]

/-- MST and MLDA. -/
def encMst (x : MstA) (f : BitVec 8) : List (BitVec 32) :=
  encX x.look x.b x.a 0 0x34
    ((0 : BitVec 6) ++ bit1 x.bf ++ x.rm1 ++ x.arow ++ bit1 x.acc ++ (0 : BitVec 2) ++ f) ((0 : BitVec 20) ++ x.rstr)

/-- Edits. -/
def encEdit (x : EditA) (f : BitVec 8) : List (BitVec 32) :=
  encX x.look x.b x.a x.d 0x38 ((0 : BitVec 19) ++ x.t ++ f) 0

/-- CTXRD, COMMITB and PROBE. -/
def encCtx (x : XCmd) (g : R5) (m : BitVec 6) (b15 : BitVec 1) (f : BitVec 8) : List (BitVec 32) :=
  encCmd x m ((0 : BitVec 11) ++ g ++ b15 ++ (0 : BitVec 4)) f

/-- COND of BR. -/
def BrCond.code : BrCond → BitVec 3
  | .eq => 0
  | .ne => 1
  | .lt => 2
  | .ge => 3
  | .ltu => 4
  | .geu => 5

/-- COND of BRP. -/
def BrpCond.code : BrpCond → BitVec 3
  | .any => 0
  | .none => 1
  | .all => 2
  | .nall => 3

/-- FUNC4 of VCMP. -/
def VCond.code : VCond → BitVec 4
  | .eq => 0
  | .ne => 1
  | .lt => 2
  | .le => 3
  | .gt => 4
  | .ge => 5
  | .ltu => 6
  | .leu => 7
  | .gtu => 8
  | .geu => 9
  | .unord => 10
  | .ord => 11

/-- OPB of FENCE. -/
def Scope.code : Scope → BitVec 8
  | .thread => 0
  | .core => 1
  | .cluster => 2
  | .die => 3
  | .package => 4
  | .system => 5

/-- OPB of DRAIN. -/
def Path.code : Path → BitVec 8
  | .ab => 0
  | .mem => 1
  | .wb => 2

/-- OPB of three low bits. -/
def opbOf3 (n : BitVec 3) : BitVec 8 := (0 : BitVec 5) ++ n

/-- The words of an instruction, in address order; a device step has none. -/
def encode : Instr → List (BitVec 32)
  | .add x => encS 0 x.b x.a x.d 0x01
  | .sub x => encS 1 x.b x.a x.d 0x01
  | .mul x => encS 2 x.b x.a x.d 0x01
  | .mulh x => encS 3 x.b x.a x.d 0x01
  | .mulhu x => encS 4 x.b x.a x.d 0x01
  | .andr x => encS 5 x.b x.a x.d 0x01
  | .orr x => encS 6 x.b x.a x.d 0x01
  | .xor x => encS 7 x.b x.a x.d 0x01
  | .andn x => encS 8 x.b x.a x.d 0x01
  | .shl x => encS 9 x.b x.a x.d 0x01
  | .shr x => encS 10 x.b x.a x.d 0x01
  | .sar x => encS 11 x.b x.a x.d 0x01
  | .rol x => encS 12 x.b x.a x.d 0x01
  | .min x => encS 13 x.b x.a x.d 0x01
  | .max x => encS 14 x.b x.a x.d 0x01
  | .minu x => encS 15 x.b x.a x.d 0x01
  | .maxu x => encS 0 x.b x.a x.d 0x02
  | .slt x => encS 1 x.b x.a x.d 0x02
  | .sltu x => encS 2 x.b x.a x.d 0x02
  | .seq x => encS 3 x.b x.a x.d 0x02
  | .sne x => encS 4 x.b x.a x.d 0x02
  | .clz x => encF 5 0 0 x.a x.d 0x02
  | .ctz x => encF 6 0 0 x.a x.d 0x02
  | .popc x => encF 7 0 0 x.a x.d 0x02
  | .brev x => encF 8 0 0 x.a x.d 0x02
  | .bswap x => encF 9 0 0 x.a x.d 0x02
  | .sextb x => encF 10 0 0 x.a x.d 0x02
  | .sexth x => encF 11 0 0 x.a x.d 0x02
  | .sextw x => encF 12 0 0 x.a x.d 0x02
  | .zextw x => encF 13 0 0 x.a x.d 0x02
  | .scadd x => encS 14 x.b x.a x.d 0x02
  | .sel x => encS 15 x.b x.a x.d 0x02
  | .bfxs x => encXF 0 0 0 x.a x.d 0x03 (w1Bf x.wm1 x.pos 0) 0
  | .bfxu x => encXF 0 0 0 x.a x.d 0x03 (w1Bf x.wm1 x.pos 1) 0
  | .bfi x => encX 0 x.b x.a x.d 0x03 (w1Bf x.wm1 x.pos 2) 0
  | .div x => encS x.look x.b x.a x.d 0x4
  | .divu x => encS x.look x.b x.a x.d 0x5
  | .rem x => encS x.look x.b x.a x.d 0x6
  | .remu x => encS x.look x.b x.a x.d 0x7
  | .br c a b off => [packB off c.code b a 0x08]
  | .brp c p off => [packB off c.code 0 ((0 : BitVec 2) ++ p) 0x0C]
  | .jmp off => [packJ off 0 0x09]
  | .call link off => [packJ off link 0x0A]
  | .jmpr a b => encS 0 b a 0 0x0B
  | .callr x => encS 1 x.b x.a x.d 0x0B
  | .ret => encF 2 0 0 0 0 0x0B
  | .nop => encF 0 0 0 0 0 0x0D
  | .yield => encF 1 0 0 0 0 0x0D
  | .halt => encF 2 0 0 0 0 0x0D
  | .trap b => encS 3 b 0 0 0x0D
  | .bkpt b => encS 4 b 0 0 0x0D
  | .gets d n => encF 5 2 n 0 d 0x0D
  | .sets n a => encF 6 2 n a 0 0x0D
  | .eret => encF 7 0 0 0 0 0x0D
  | .illegalInstruction w => [w]
  | .ld x => encLoad x 0x10
  | .st x => encStore x 0x11
  | .ldf x => encLoad x 0x12
  | .stf x => encStore x 0x13
  | .feset x => encSlice 0 { x with d := 0 } 0x14
  | .feclr x => encSlice 1 { x with d := 0 } 0x14
  | .feget x => encSlice 2 x 0x14
  | .amoadd x => encAmo x 0
  | .amoand x => encAmo x 1
  | .amoor x => encAmo x 2
  | .amoxor x => encAmo x 3
  | .amomin x => encAmo x 4
  | .amomax x => encAmo x 5
  | .amominu x => encAmo x 6
  | .amomaxu x => encAmo x 7
  | .amoswp x => encAmo x 8
  | .amocas x => encAmo x 9
  | .amofadd x => encAmo x 10
  | .fence sc => encF 0 2 sc.code 0 0 0x16
  | .drain p => encF 1 2 p.code 0 0 0x16
  | .bar n => encF 2 2 (opbOf3 n) 0 0 0x16
  | .sbar n => encF 3 2 (opbOf3 n) 0 0 0x16
  | .bind d a seg => encF 4 2 (opbOf3 seg) a d 0x16
  | .unbind d => encF 5 0 0 0 d 0x16
  | .flume f a => encF 6 2 (opbOf3 f) a 0 0x16
  | .mrecv look d a => encF look 2 0 a d 0x17
  | .mrecvPoll look d a => encF look 2 1 a d 0x17
  | .msend d a n => encF 0 2 (opbOf3 n) a d 0x18
  | .spawn d a => encF 1 0 0 a d 0x18
  | .segld d a seg => encF 2 2 (opbOf3 seg) a ((0 : BitVec 2) ++ d) 0x18
  | .segrd d a hi => encF 3 2 ((0 : BitVec 7) ++ bit1 hi) ((0 : BitVec 2) ++ a) d 0x18
  | .ldb x => encS 0 x.b x.a x.d 0x1C
  | .stb x => encS 1 x.b x.a x.d 0x1C
  | .cpy x => encCmd x 0x19 0 0
  | .cpyr x => encCmd x 0x19 0 1
  | .cpyrOrd x => encCmd x 0x19 1 1
  | .rqcpy x => encCmd x 0x19 0 2
  | .chain x => encCmd x.x 0x19 ((0 : BitVec 16) ++ x.ch ++ (0 : BitVec 1)) 3
  | .cstep x => encCmd x 0x1A 0 0
  | .cchain x => encCmd x 0x1A 0 1
  | .dgst d a seg => encF 0 2 (opbOf3 seg) a d 0x1B
  | .pin x => encSlice 1 x 0x1B
  | .unpin x => encSlice 2 x 0x1B
  | .cistrn d a n => encF 3 2 n a d 0x1B
  | .vadd x => encV 0 x 0x20
  | .vsub x => encV 1 x 0x20
  | .vmul x => encV 2 x 0x20
  | .vfma x => encV 3 x 0x20
  | .vfms x => encV 4 x 0x20
  | .vnfma x => encV 5 x 0x20
  | .vmin x => encV 6 x 0x20
  | .vmax x => encV 7 x 0x20
  | .vabs x => encV 8 x 0x20
  | .vneg x => encV 9 x 0x20
  | .vrcpe x => encV 10 x 0x20
  | .vrsqe x => encV 11 x 0x20
  | .vaddS x => encV 0 x 0x21
  | .vsubS x => encV 1 x 0x21
  | .vmulS x => encV 2 x 0x21
  | .vfmaS x => encV 3 x 0x21
  | .vfmsS x => encV 4 x 0x21
  | .vnfmaS x => encV 5 x 0x21
  | .vminS x => encV 6 x 0x21
  | .vmaxS x => encV 7 x 0x21
  | .viadd x => encV 0 x 0x22
  | .visub x => encV 1 x 0x22
  | .vimul x => encV 2 x 0x22
  | .vand x => encV 3 x 0x22
  | .vor x => encV 4 x 0x22
  | .vxor x => encV 5 x 0x22
  | .vshl x => encV 6 x 0x22
  | .vshr x => encV 7 x 0x22
  | .vsar x => encV 8 x 0x22
  | .vimin x => encV 9 x 0x22
  | .vimax x => encV 10 x 0x22
  | .viminu x => encV 11 x 0x22
  | .vimaxu x => encV 12 x 0x22
  | .viaddS x => encV 0 x 0x23
  | .visubS x => encV 1 x 0x23
  | .vimulS x => encV 2 x 0x23
  | .vandS x => encV 3 x 0x23
  | .vorS x => encV 4 x 0x23
  | .vxorS x => encV 5 x 0x23
  | .vshlS x => encV 6 x 0x23
  | .vshrS x => encV 7 x 0x23
  | .vsarS x => encV 8 x 0x23
  | .viminS x => encV 9 x 0x23
  | .vimaxS x => encV 10 x 0x23
  | .viminuS x => encV 11 x 0x23
  | .vimaxuS x => encV 12 x 0x23
  | .vcmp c x => encV c.code x 0x24
  | .pand x => encV 0 x 0x25
  | .por x => encV 1 x 0x25
  | .pxor x => encV 2 x 0x25
  | .pandn x => encV 3 x 0x25
  | .whilelt x => encV 4 x 0x25
  | .whilele x => encV 5 x 0x25
  | .vpopc x => encV 6 x 0x25
  | .vfirst x => encV 7 x 0x25
  | .vsel x => encV 8 x 0x25
  | .vext x => encV 9 x 0x25
  | .vins x => encV 10 x 0x25
  | .vbcast x => encV 11 x 0x25
  | .viota x => encV 12 x 0x25
  | .vlen x => encV 13 x 0x25
  | .vmov x => encV 14 x 0x25
  | .vperm x => encV 0 x 0x26
  | .vziplo x => encV 1 x 0x26
  | .vziphi x => encV 2 x 0x26
  | .vunzlo x => encV 3 x 0x26
  | .vunzhi x => encV 4 x 0x26
  | .vslideup x => encV 5 x 0x26
  | .vslidedn x => encV 6 x 0x26
  | .vrev x => encV 7 x 0x26
  | .vcompact x => encV 8 x 0x26
  | .vrope x => encV 9 x 0x26
  | .vdiv x => encXv x 0x27 0
  | .vsqrt x => encXv x 0x27 1
  | .vexp x => encXv x 0x27 2
  | .vlog x => encXv x 0x27 3
  | .vtanh x => encXv x 0x27 4
  | .verf x => encXv x 0x27 5
  | .vredadd x => encXv x 0x28 0
  | .vredmax x => encXv x 0x28 1
  | .vredmin x => encXv x 0x28 2
  | .vscanadd x => encXv x 0x28 3
  | .vld x => encVl x 0x29
  | .vldStrided x => encVStr x 0x29
  | .vst x => encVl x 0x2A
  | .vstStrided x => encVStr x 0x2A
  | .vldx x => encIdx x 0
  | .vstx x => encIdx x 1
  | .vldq x => encQu x 0
  | .vstq x => encQu x 1
  | .vcvt x =>
    [packV x.look 0 x.pg 0 x.a x.d 0x2D 2, (0 : BitVec 12) ++ x.part ++ x.rm ++ x.dty ++ x.sty ++ (0 : BitVec 8), 0]
  | .vrng d pg ty => encF 0 2 ((0 : BitVec 3) ++ ty ++ pg) 0 d 0x2E
  | .rseed a => encF 1 0 0 a 0 0x2E
  | .wld x =>
    encX x.look x.b x.a x.d 0x30
      ((0 : BitVec 16) ++ x.wf ++ (0 : BitVec 3) ++ x.tile ++ x.f ++ x.seg) 0
  | .mma x =>
    encX x.look x.b x.a x.d 0x31
      ((0 : BitVec 8) ++ x.run ++ (0 : BitVec 1) ++ x.wf ++ bit1 x.i8 ++ x.rm1 ++ bit1 x.pt ++ x.tile ++ (0 : BitVec 6))
      ((0 : BitVec 24) ++ x.fseg ++ x.f)
  | .msacc x =>
    encX x.look x.b x.a 0 0x32
      ((0 : BitVec 10) ++ x.arow ++ x.rm1 ++ x.prow ++ bit1 x.pt ++ bit1 x.acc ++ (0 : BitVec 3)) 0
  | .mzero t => encF 0 0 0 0 ((0 : BitVec 3) ++ t) 0x33
  | .mpri n => encF 1 2 (opbOf3 n) 0 0 0x33
  | .mst x => encMst x 0
  | .mlda x => encMst x 2
  | .mstq x =>
    encX x.look x.b x.a x.d 0x34
      ((0 : BitVec 4) ++ x.qf ++ bit1 x.derive ++ x.rm1 ++ x.arow ++ bit1 x.acc ++ (0 : BitVec 2) ++ (1 : BitVec 8))
      ((0 : BitVec 11) ++ x.s ++ (0 : BitVec 5) ++ x.fseg ++ (0 : BitVec 3) ++ x.f)
  | .mstqKv x =>
    encX x.look x.b x.a x.d 0x34
      ((1 : BitVec 1) ++ (0 : BitVec 6) ++ x.rm1 ++ x.arow ++ bit1 x.acc ++ (0 : BitVec 2) ++ (1 : BitVec 8))
      ((0 : BitVec 2) ++ bit1 x.fin ++ bit1 x.stg ++ bit1 x.val ++ bit1 x.chs ++ x.head ++ (0 : BitVec 7) ++ x.fseg ++
        (0 : BitVec 3) ++ x.r)
  | .gathb x =>
    encX x.look x.b x.a x.d 0x35
      ((0 : BitVec 16) ++ bit1 x.cs ++ (0 : BitVec 2) ++ x.pg ++ x.vi ++ (0 : BitVec 2) ++ x.seg) 0
  | .attn x => encCmd x.x 0x36 ((0 : BitVec 16) ++ bit1 x.cs ++ (0 : BitVec 4)) 0
  | .atedrain look d mask => encXF look 2 ((0 : BitVec 6) ++ mask) 0 d 0x36 1 0
  | .atbound look d => encXF look 0 0 0 d 0x36 2 0
  | .edins x => encEdit x 0
  | .eddel x => encEdit x 1
  | .edsub x => encEdit x 2
  | .settle x => encX x.look x.b x.a x.d 0x39 0 0
  | .ctxrdNow x => encCtx x.x x.e 0x39 0 1
  | .ctxrdAt x => encCtx x.x x.e 0x39 1 1
  | .silt x => encX x.look x.b x.a x.d 0x39 2 0
  | .ctxreg x => encCmd x 0x3A 0 0
  | .ctxregRel look d a => encXF look 0 0 a d 0x3A 0x8000 0
  | .commitb x => encCtx x.x x.gx 0x3A 0 1
  | .commitbSkip x => encCtx x.x x.gx 0x3A 1 1
  | .probe x => encCtx x.x x.gx 0x3A 0 2
  | .repack look d a => encXF look 0 0 a d 0x3A 3 0
  | .fcst x => encCmd { x with d := 0 } 0x3B 0 0
  | .facc look a => encXF look 0 0 a 0 0x3B 1 0
  | .fend look => encXF look 0 0 0 0 0x3B 2 0
  | .stepgo a => encF 6 2 0x12 a 0 0x0D
  | .resultArrival | .engineCompletion | .threadWake | .messageArrival | .spawnArrival
  | .migrationArrival | .runnelFill | .runnelDrain | .storeVerdict | .fenceEcho | .culvertRecord
  | .chainOwnWake | .scoutProbe | .confluenceStep | .stepDataArrival | .stepAcknowledge
  | .matrixDispatch | .matrixRetire | .wldFillComplete | .mmaReplay | .attnRetire | .editArbitration
  | .surgeDispatch | .contextReleaseComplete | .requantisation | .tierMigration | .recordFree
  | .stepBuild | .taskEnd | .reexecutionEnd | .queueKick | .packetFetchRetry | .deviceQueueKick
  | .queueEnable | .launch | .teardown | .suspend | .resume | .workitem
  | .publish | .launchSelect | .gangPlacement | .preemption | .preemptionSave | .restore
  | .registerWrite | .hostApertureAccess | .peerIngressAccess
  | .translationWalk | .fcmdWake | .fcmdReplayAll | .fcmdFail | .tinvPage
  | .tinvFunction | .tinvAll | .tinvComplete | .pageMigrate | .pageUnmap | .pcmdInvalid
  | .channelRetire | .lineRecompress | .thermalCrossing | .slotReenable | .powerInterval
  | .healthLatch | .healthClear | .softError | .getVersion | .getCapabilities
  | .negotiateAlgorithms | .getDigests | .getCertificate | .challenge | .getMeasurements
  | .keyExchange | .finish | .heartbeat | .endSession | .unsupportedSpdmRequest
  | .sealkeyInstall | .sealkeyErase | .functionLevelReset | .reset | .memoryTraining
  | .discoveryRound | .discoveryReturn | .discoveryDone | .multicastAttempt | .multicastFlit
  | .multicastAnswer | .dieJoin | .aliasKeyDerivation | .linkUp | .firmwareUpdateStage | .linkRetry
  | .assistRingConsume | .assistRingEnable | .freeListRefill | .vectorUnmask => []

/-- An instruction that words of a program can hold: every one but the device's own steps. -/
def Instr.encoded (i : Instr) : Bool := encode i != []

/-- The bytes of 32-bit words, little-endian. -/
def bytesOfWords : List (BitVec 32) → List Byte
  | [] => []
  | w :: t => w.extractLsb' 0 8 :: w.extractLsb' 8 8 :: w.extractLsb' 16 8 :: w.extractLsb' 24 8 :: bytesOfWords t

/-- The first `n` bytes of a number, least significant first. -/
def bytesOfNat : Nat → Nat → List Byte
  | 0, _ => []
  | n + 1, w => BitVec.ofNat 8 w :: bytesOfNat n (w / 256)

/-- The longest instruction has 20 bytes (R235). -/
def maxInstrBytes : Nat := 20

/-- The bytes that hold an instruction whose table bits are `w`: bit 0 is the least significant bit of the base word. -/
def tableBytes (w : Nat) : List Byte := bytesOfNat maxInstrBytes w

/-- The instruction that the decoder reads from table bits `w`. -/
def decodeTableWord (nbits w : Nat) : Option Instr :=
  match decodeBytes (tableBytes (w % 2 ^ nbits)) with
  | .ok i => some i
  | .bad _ _ => none

end Sys2Proof
end

