-- ==== Sys2Proof/Machine/Types.lean ====
section
/-!
DEFINITION. The records that the state is made of: threads with their windows and parking causes, vcores, tasks, engine
commands, memory's side records, and what the outside world and the device's own steps bring.
Places in memory are natural numbers (Ops.lean lays them out); everything is plain data.
-/
namespace Sys2Proof.Machine

/-- A page that a requester waits for (21 R430): the die of the port, function and page, and whether no entry of the
fault buffer records it (dropped, R432); or, with its number in the order of arrival, a request that a page command or a
retirement holds (21 R440, R441, R444). -/
structure PageWait where
  die : Nat
  fn : Nat
  page : Nat
  dropped : Bool
  failed : Bool := false
  woken : Bool := false
  held : Option Nat := none
deriving DecidableEq, Repr

/-- One step of the device or the outside world, with what it acts on, and what the host and firmware did before it on
their own: bytes of host memory written, and clusters given to functions (20 R397). [DESIGN CHOICE, log 8] -/
structure Event where
  i : Instr
  op : EvOp := {}
  writes : List (Nat × Byte) := []
  parts : List (Nat × List Nat) := []
  /-- The page that it waits for, where it is an access (21 R430). -/
  wait : Option PageWait := none
deriving DecidableEq, Repr

/-- A segment register (02 R43). -/
structure Seg where
  lo : Word := 0
  hi : Word := 0
deriving DecidableEq, Repr

/-- A checked address: space, cistern slice, address in the space, and the segment it came through. -/
structure SegA where
  space : Nat
  slice : Nat
  addr : Nat
  seg : Nat
deriving DecidableEq, Repr

/-! ## Happens before (03 R81)

A clock knows, of each thread, the epoch up to which its operations are ordered before the holder, and for some slices
an earlier epoch up to which its writes are (03 R91). -/

/-- What a clock knows of one thread. -/
structure Know where
  thr : Nat
  epoch : Nat
  exc : List (Nat × Nat) := []
deriving DecidableEq, Repr

/-- A clock: what is known of every thread it names, in ascending thread number. [DEDUCED, log 14] -/
abbrev Clock := List Know

/-- One recorded access of a word (03 R83); `peer` says that it came from a peer module (03 R84). -/
structure Acc where
  thr : Nat
  gtid : Nat
  epoch : Nat
  write : Bool
  sync : Bool
  peer : Bool := false
deriving DecidableEq, Repr

/-- The side record of a word: its access records, the clock that its synchronising writes released and whether its value
is still theirs, the clock of the LDF that took it, and the clock of engine writes (03 R81, R83). -/
structure WordRec where
  key : Nat
  acc : List Acc := []
  syn : Clock := []
  synLive : Bool := false
  take : Clock := []
  eng : Clock := []
deriving DecidableEq, Repr

/-- An earlier value of a word: the moment at which it was overwritten, the value, and its poison. -/
structure Old where
  upto : Nat
  x : Word
  bad : Bool := false
deriving DecidableEq, Repr

/-- What a word held before, latest first (02 R55). -/
structure Past where
  key : Nat
  olds : List Old := []
deriving DecidableEq, Repr

/-! ## Windows, traps, messages -/

/-- A register write of a result (01 R13): a general register, the bytes of a vector register that the mask's lanes
select, a predicate, or an engine command's status register becoming pending (01 R19). -/
inductive RegW where
  | g (d : R5) (x : Word)
  | v (d : R5) (mask : PReg) (x : VReg)
  | status (d : R5) (cmd : Nat)
deriving DecidableEq, Repr

/-- A trap's code and value, and MMXSRC where it is a memory-model exception (11 R274, 03 R84). -/
structure Trap where
  code : Nat
  tval : Word := 0
  mmx : Option (BitVec 16) := none
deriving DecidableEq, Repr

/-- A fault found after issue (01 R17): its trap, the address of the instruction that caused it, and that instruction's
place in issue order. -/
structure Late where
  seq : Nat
  pc : Word
  trap : Trap
deriving DecidableEq, Repr

/-- A message (01 R33): sender, target vcore, eight doublewords, and the sender's clock. -/
structure Msg where
  fromVu : Nat
  target : Nat
  spawn : Bool
  words : List Word
  clock : Clock
deriving DecidableEq, Repr

/-- A base-die conversion (21 R445): the place of the 64 KiB array, the kind, the direction and log2 of the row length. -/
structure Lc where
  base : Nat
  kind : Nat
  dir : Bool
  pl : Nat
deriving DecidableEq, Repr

/-- The place of an access: its space (0 device, 1 AB, 2 cistern), its address there, its place in memory, its home slice
(AB has none), its conversion, and the block-map entry of a compressible block. -/
structure Place where
  space : Nat
  addr : Nat
  loc : Nat
  slice : Option Nat
  lc : Option Lc := none
  blk : Option Nat := none
deriving DecidableEq, Repr

/-- An element that the transfer unit holds ahead of a read runnel (02 R72): its value, the address of a poisoned word in it,
and the moment of its fetch. -/
structure Ahead where
  x : VReg
  bad : Option Word := none
  moment : Nat := 0
deriving DecidableEq, Repr

/-- An element pushed onto a write runnel (02 R72, R73): its value, and the address, place in issue order, epoch and clock of
the instruction that pushed it. -/
structure Pushed where
  x : VReg
  pc : Word
  seq : Nat
  epoch : Nat
  clock : Clock := []
deriving DecidableEq, Repr

/-- A bound runnel (02 R70 to R74): its register, descriptor, elements taken or pushed by the thread, elements that the
transfer unit holds ahead or behind. -/
structure Runnel where
  v : Nat
  fresh : Bool
  write : Bool
  ab : Bool
  seg : Nat
  base : Nat
  counts : List Nat
  strides : List Int
  taken : Nat := 0
  done : Nat := 0
  ahead : List Ahead := []
  pushed : List Pushed := []
  wait : Option PageWait := none
deriving DecidableEq, Repr

/-- The registers that an instruction reads in place of the thread's own: for a bundle's second half as they stood before
the bundle (10 R252), for an instruction that is performed after its issue as they stood at its issue. -/
structure Shadow where
  g : Vector Word 32
  v : Vector VReg 32
  p : Vector PReg 8
  sg : Vector Seg 8
  /-- The status registers pending then. -/
  pend : List (R5 × Nat) := []
  /-- The clock that a synchronising operation released at its issue. -/
  clk : Option Clock := none
  /-- The record or descriptor that it read then. -/
  desc : List Word := []
  /-- The checked places that it writes (15 R379). -/
  dest : List SegA := []
  /-- The epoch of its issue, in which its accesses are recorded (03 R81). -/
  epoch : Option Nat := none
  /-- The runnels as they stood before the bundle, from which its second half's sources come (10 R252). -/
  run : Option (List Runnel) := none
deriving DecidableEq, Repr

/-- What an instruction that has issued but has not been performed waits for. -/
inductive Why where
  /-- A page (21 R430). -/
  | page (w : PageWait)
  /-- The echoes of its implicit FENCE (03 R89): the slices not yet echoed. -/
  | fence (need : BitVec 128)
  /-- The word becoming full, in the order of the word's wait list (12 R281). -/
  | full (key ticket : Nat)
  /-- An entry of the vcore's ring, in the order of the receives (01 R38). -/
  | ring (ticket : Nat)
  /-- SETTLE's condition (05 R153). -/
  | settle (ctx n : Nat)
  /-- CTXRD.at's condition (05 R152). -/
  | version (ctx layer blk n : Nat)
  /-- The thread's matrix instructions and engine writes (15 R384). -/
  | drained
  /-- The thread's ATTNs (15 R372). -/
  | attns
  /-- The reader count of an area of a record (05 R150): function, address, area. -/
  | readers (fn va area : Nat)
deriving DecidableEq, Repr

/-- How the result of a window comes. -/
inductive Wait where
  /-- The instruction is performed, with the registers of its issue, once what it waits for has come. -/
  | defer (w : Why) (i : Instr) (sh : Shadow)
  /-- A matrix instruction not yet retired (14 R342). -/
  | matrix
  /-- ATTN not yet retired (15 R368). -/
  | attn
  /-- An edit at its arbiter (15 R375). -/
  | edit
  /-- The release of a context (05 R157). -/
  | release (d : R5)
deriving DecidableEq, Repr

/-- The result of a window. -/
inductive WRes where
  /-- Arrived: what the close writes. -/
  | regs (l : List RegW)
  /-- A late fault (01 R17). -/
  | fault (t : Trap)
  /-- Not yet performed. -/
  | wait (w : Wait)
deriving DecidableEq, Repr

/-- An open lookahead window (01 R12). -/
structure Window where
  wid : Nat
  rem : Nat
  pc : Word
  res : WRes
  /-- The long-latency synchronising operations of 12 R279: any, and those that also hold back plain accesses. -/
  sync : Bool := false
  acq : Bool := false
deriving DecidableEq, Repr

/-- A race verdict on a store on its way back (03 R83). -/
structure Verdict where
  late : Late
  returned : Bool := false
deriving DecidableEq, Repr

/-- Why a thread issues nothing (01 R39), with what its wake needs. -/
inductive Park where
  /-- A window close, or a trap's closing of every window, before the results have arrived. -/
  | windows
  /-- A source register is pending (01 R20). -/
  | status (cmd : Nat)
  /-- STF of a full word, performed at its wake (12 R281). -/
  | stf (p : Place) (x : Word) (len : Nat)
  /-- A message already in flight (01 R34). -/
  | message
  /-- A translation fault (21 R430). -/
  | page (w : PageWait)
  /-- The echoes of a FENCE (03 R88): the slices not yet echoed. -/
  | fence (need : BitVec 128)
  /-- Verdicts on the thread's stores (03 R83). -/
  | verdicts
  /-- Accesses that have issued and have not been performed (03 R88). -/
  | accesses
  /-- BAR: the instance and its count of completions at arrival (12 R288). -/
  | bar (level inst gen : Nat)
  /-- A flume stage, or with none a flume's release (02 R64, R66). -/
  | flume (f : Nat) (st : Option Nat)
  /-- A runnel element to come or a place for one (02 R72), or with `all` UNBIND's stores (02 R73). -/
  | runnel (r : Nat) (all : Bool)
  /-- A runnel element to come, or its page fault, for an MMA (14 R353). -/
  | element (r : Nat)
  /-- DRAIN of a path (02 R62): the commands and matrix instructions waited for. -/
  | drain (p : Path) (before : Nat)
  /-- The earlier matrix instruction (14 R341), or MZERO's own retirement. -/
  | matrix
  /-- The window of an earlier acquiring operation, or with `all` of any earlier synchronising operation (12 R279). -/
  | syncWindow (all : Bool)
  /-- The engine's command queue (12 R303). -/
  | queue (cluster : Nat)
  /-- HALT's engine commands (11 R267). -/
  | engines
  /-- On the way to a slot (01 R39, 02 R50): die-local target core and whether it goes home. -/
  | moving (core : Nat) (home : Bool)
  /-- An earlier GATHB of the thread that waits for a page. -/
  | gather
  /-- The step builder of a die holds eight descriptors (06 R184). -/
  | builder (die : Nat)
  /-- A forecast lane that waits for its round or for acceptance (07 R194, R201). -/
  | lane
  /-- The management core's writes of registers, before it reads one (21 R423). -/
  | posted (die : Nat)
deriving DecidableEq, Repr

/-! ## Capture sets -/

/-- A captured KV block (06 R167): its table entry, its record's address, CUR as read, the areas whose reader counts it holds,
the captured slots in rank order, each with its position at capture and the WPOS of its area, and bytes of the record as they
stood before an append took a captured slot anew (06 R170). -/
structure Captured where
  cblk : Nat
  entry : Word
  va : Nat
  cur : Nat
  areas : List Nat
  slots : List (Nat × Int × Int)
  kept : List (Nat × Byte) := []
deriving DecidableEq, Repr

/-- A capture set (06 R167): its context and layer, what ATTN needs of the context's model, and its blocks. -/
structure CapSet where
  ctx : Nat
  layer : Nat
  fn : Nat
  hdlg : Nat
  kvhm1 : Nat
  siltlg : Nat
  shift : Bool
  seed : Nat
  blocks : List Captured := []
  /-- The resolved translations of its records' pages: page, whether it lies in a large page, leaf (06 R180). -/
  leaves : List (Nat × Bool × Word) := []
deriving DecidableEq, Repr

/-- A place in the order of a thread digest (08 R213): blocks that are there, an instruction whose blocks are to come, or
a DGST that reads the digest at this place. [DEDUCED, log 76] -/
inductive Fold where
  | blocks (l : List Dig)
  | hole (id : Nat)
  | mark (cmd : Nat)
deriving DecidableEq, Repr

/-- The work item that a thread is (05 R144): context, layer, silt block, stamp, the last PROBE, and whether it has committed. -/
structure Item where
  ctx : Nat
  layer : Nat
  block : Nat
  stamp : Nat
  probe : Option (BitVec 32) := none
  committed : Bool := false
deriving DecidableEq, Repr

/-! ## Forecast loops (07) -/

/-- A word that an engine command wrote, for the digest (08 R212): space, address, mask and value. -/
structure CmdW where
  space : Nat
  addr : Nat
  mask : BitVec 8
  x : Word
deriving DecidableEq, Repr

/-- What a lane is doing: not started, the guess routine, the body, or past its FACC. -/
inductive LanePhase where
  | idle
  | guess
  | body
  | done
deriving DecidableEq, Repr

/-- An access that a speculative lane made, in program order (07 R195): a store of some bytes of a word, or a load that is
recorded at acceptance or only stands in the read set. -/
structure BufW where
  p : Place
  write : Bool
  recd : Bool
  mask : BitVec 8 := 0
  x : Word := 0
  seq : Nat := 0
  pc : Word := 0
deriving DecidableEq, Repr

/-- What a speculative lane holds back (07 R200): a message, or a command that issues at acceptance, with the registers of
its issue. -/
structure Held where
  i : Instr
  pc : Word
  /-- Its place in issue order. -/
  seq : Nat
  sh : Shadow
deriving DecidableEq, Repr

/-- What a speculative lane's MSTQ with the KV epilogue holds back or must undo (07 R199; 17 R391, R392): its place in
program order, the old values and poison marks of the record words it overwrote, the words it wrote for the digest, the envelope entries it
widens at acceptance (place, kind 0 KMIN, 1 KMAX, 2 VABS, and value), the slots it occupied, and for a FIN its context and
layer, the slots with the places of their headers, their areas and the WPOS words before it, and the place and new value of
the append region's DW3. [DEDUCED, log 36] -/
structure Prov where
  seq : Nat
  saved : List (Place × Word × Bool) := []
  words : List CmdW := []
  env : List (Place × Nat × BitVec 32) := []
  slots : List Nat := []
  ctx : Nat := 0
  layer : Nat := 0
  fin : List (Nat × Nat × Nat × Nat) := []
  next : Option (Place × Word) := none
deriving DecidableEq, Repr

/-- A lane of an open forecast loop other than lane 0 (07 R188 to R202): its loop's thread, index and iteration; whether it
has been accepted; the guess it latched; its side buffer, read words, held instructions and provisional appends. -/
structure Lane where
  loopOf : Nat
  index : Nat
  iter : Nat
  phase : LanePhase
  accepted : Bool := false
  guess : Option (List Word) := none
  buf : List BufW := []
  held : List Held := []
  provs : List Prov := []
  apps : Nat := 0
deriving DecidableEq, Repr

/-- The system registers of a thread that every iteration of a loop finds as they stood at FCST (07 R189). -/
structure SysRegs where
  tcause : Word := 0
  tpc : Word := 0
  tpcd : Word := 0
  tval : Word := 0
  topc : Word := 0
  tvec : Word := 0
  tscr0 : Word := 0
  tscr1 : Word := 0
  vlive : BitVec 39 := 0
  mmxsrc : BitVec 16 := 0
  mpri : BitVec 3 := 0
deriving DecidableEq, Repr

/-- The iteration-start state of a loop (07 R189), with the system and segment registers that its lanes started from. -/
structure LoopStart where
  g : Vector Word 32
  v : Vector VReg 32
  p : Vector PReg 8
  sys : SysRegs := {}
  sg : Vector Seg 8 := Vector.replicate 8 {}
deriving DecidableEq, Repr

/-- An open forecast loop of a thread, which is its lane 0 (07 R187, R188, R197): carry registers, guess routine, body
entry, appends per iteration, append region, start state, the iteration of lane 0 in this round, the lanes, the index of
the lane that ran last among the accepted, and the appends lane 0 made. -/
structure Loop where
  carries : List R5
  guessPc : Word
  bodyPc : Word
  appn : Nat
  /-- The append region: context, address of its descriptor, and NEXT and TIDX at the round's start. -/
  app : Option (Nat × Nat × Nat × Nat) := none
  start : LoopStart
  iter : Nat
  lanes : List Nat
  /-- Lane 0 has issued FACC in this round. -/
  done : Bool := false
  apps : Nat := 0
  /-- A thermal displacement moves lane 0 to this core at the round's end (07 R203). -/
  displaced : Option Nat := none
deriving DecidableEq, Repr

/-! ## Threads (01 R22) -/

/-- A thread of a slot: identity and place, registers, windows, system registers, and everything that travels with it. -/
structure Thread where
  /-- Its number in the model, unique for ever. -/
  uid : Nat
  task : Nat
  /-- The vcore's number in the model: 1,024 × task + vcore index. -/
  vu : Nat
  slot : Nat
  child : Bool := false
  /-- The die of the management core whose firmware it is (20 R419). -/
  fw : Option Nat := none
  /-- The physical core, 0 to 2,047 (die × 1,024 + cluster × 16 + core), and slot, where it runs now. -/
  core : Nat
  pslot : Nat
  /-- Its physical slot on the vcore's host core (02 R53). -/
  home : Nat
  g : Vector Word 32 := Vector.replicate 32 0
  v : Vector VReg 32 := Vector.replicate 32 0
  p : Vector PReg 8 := Vector.replicate 8 0
  sg : Vector Seg 8 := Vector.replicate 8 {}
  sgw : BitVec 8 := 0
  pc : Word := 0
  shadow : Option Shadow := none
  windows : List Window := []
  pend : List (R5 × Nat) := []
  tcause : Word := 0
  tpc : Word := 0
  /-- TPC as the last delivery wrote it (07 R205). -/
  tpcd : Word := 0
  tval : Word := 0
  topc : Word := 0
  tvec : Word := 0
  tscr0 : Word := 0
  tscr1 : Word := 0
  inh : Bool := false
  vlive : BitVec 39 := 0x7FFFFFFFFF
  mmxsrc : BitVec 16 := 0
  icount : Word := 0
  rng : BitVec 256
  rngBase : BitVec 256
  mpri : BitVec 3 := 0
  touched : BitVec 128 := 0
  /-- Per touched slice, the epoch up to which its accesses there are known performed. -/
  fenced : List (Nat × Nat) := []
  clock : Clock := []
  epoch : Nat := 1
  /-- The moment of its last synchronising operation, and of words that it has loaded or stored since the moment from which on
  a snapshot load of the word may take its value (02 R55). -/
  since : Nat := 0
  seen : List (Nat × Nat) := []
  park : Option Park := none
  /-- When it parked, in the order of parking (01 R40). -/
  ticket : Nat := 0
  /-- Its instruction has parked at issue, and issues alone (10 R251). -/
  again : Bool := false
  seq : Nat := 0
  verdicts : List Verdict := []
  late : List Late := []
  msg : Option Msg := none
  dig : Dig := 0
  folded : Nat := 0
  folds : List Fold := []
  runnels : List Runnel := []
  spt : Vector Nat 8 := Vector.replicate 8 0
  caps : Vector (Option CapSet) 2 := Vector.replicate 2 none
  lastbeta : Option (BitVec 32) := none
  item : Option Item := none
  lane : Option Lane := none
  loop : Option Loop := none
  /-- Gives up its turn in the next pass (11 R266). -/
  skip : Bool := false
  /-- HALT has issued and waits (11 R267). -/
  halting : Bool := false
  /-- Pages of waits that were failed (21 R433), for the instruction that is issued again. -/
  failed : List (Nat × Nat) := []
  /-- A thermal displacement that waits for ERET: the core that it goes to (11 R272). -/
  displace : Option Nat := none
deriving DecidableEq, Repr

/-! ## Vcores and tasks -/

/-- A bound flume (02 R63 to R67). -/
structure Flume where
  f : Nat
  cmask : BitVec 8
  pmask : BitVec 8
  dist : Nat
  nstg : Nat
  stg : Nat
  base : Nat
  /-- SBARs of each logical slot since binding. -/
  count : Vector Nat 8 := Vector.replicate 8 0
  /-- The clocks that producers and consumers released, by SBAR number (02 R67). -/
  pub : List Clock := []
  rel : List Clock := []
deriving DecidableEq, Repr

/-- A weight tile (14 R340, R348): format tag, the code and dither index of each of 128 × 128 weights, k outer, none outside
the frame, and the address of the word whose poison marks it; no code at all means all zero. -/
structure Tile where
  tag : Nat := 0
  codes : List (Option (BitVec 8 × BitVec 7)) := []
  poison : Option Word := none
deriving DecidableEq, Repr

/-- How a vcore is placed (01 R26). -/
inductive Mode where
  | sole
  | partitioned
  | sliced
deriving DecidableEq, Repr

/-- A vcore of a task (01 R24 to R32): where it is placed, its ring, flumes, matrix state, and its end. -/
structure Vcore where
  vu : Nat
  task : Nat
  idx : Nat
  placed : Bool := false
  core : Nat := 0
  mode : Mode := .sole
  resident : Bool := true
  pslots : List Nat := []
  /-- The first 4 KiB of AB, weight tile, accumulator and partial tile of its regions (21 R447). -/
  abb : Nat := 0
  wbb : Nat := 0
  acb : Nat := 0
  ptb : Nat := 0
  ringhd : BitVec 32 := 0
  ringtl : BitVec 32 := 0
  /-- The clocks of the ring's entries, from RINGTL on, and for each bounce the slot that sent the message (01 R35). -/
  ringClk : List Clock := []
  ringBnc : List (Option Nat) := []
  flumes : List Flume := []
  tiles : List (Nat × Tile) := []
  /-- Rows of accumulators and of partial tiles by 128 × tile + row, those of zeros left out. -/
  acc : List (Nat × List (BitVec 32)) := []
  pts : List (Nat × List Word) := []
  /-- UNIT of the partial tiles, by lane of a forecast loop and tile, as a power of two where it is not −32. -/
  units : List (Nat × Nat × Int) := []
  /-- Thread digests by logical slot, kept when a thread ends (08 R213). -/
  digs : List (Nat × Dig × Nat) := []
  /-- The launched slots that have halted, each with what its thread released then (12 R288). -/
  halted : List (Nat × Clock) := []
  ended : Bool := false
  vdig : Dig := 0
deriving DecidableEq, Repr

/-- Where a task stands (20 R408 to R414, 08 R216). -/
inductive TaskSt where
  | ready
  | chosen
  | running
  | suspended
  | rerun
  | ended
deriving DecidableEq, Repr

/-- A level of the hierarchy (01 R23). -/
structure Level where
  gang : Bool
  vcl : Bool
  scope : Nat
  domain : Nat
  count : Nat
deriving DecidableEq, Repr

/-- A saved vcore of a suspended task: its record and its threads (20 R417). -/
structure Saved where
  vc : Vcore
  threads : List Thread
deriving DecidableEq, Repr

/-- A BAR's state (12 R288): level, instance, arrivals, completions so far, and the clocks of the members. -/
structure BarSt where
  level : Nat
  inst : Nat
  arrived : List Nat
  gen : Nat := 0
  clock : Clock := []
  /-- The clock of the last completion. -/
  last : Clock := []
  /-- At a peer-group level: how often each other module's members have all arrived, and this module's were reported (12 R288). -/
  peers : List (Nat × Nat) := []
  told : Nat := 0
deriving DecidableEq, Repr

/-- A task (20 R404): the launch record as read, and the task's progress. -/
structure Task where
  tid : Nat
  fn : Nat
  tag : BitVec 32
  q : Nat
  prio : Nat
  devOwner : Option (BitVec 32) := none
  st : TaskSt := .ready
  pos : Nat := 0
  since : Nat := 0
  order : Nat := 0
  det : Bool := false
  serial : Bool := false
  expd : Option (BitVec 256) := none
  trapv : Word := 0
  entry : Word := 0
  arg : Word := 0
  levels : List Level := []
  cimg : Nat := 0
  perslot : Bool := false
  segset : Nat := 0
  ringlg : Nat := 0
  ringoff : Nat := 0
  flumes : Nat := 0
  absz : Nat := 1
  npt : Nat := 0
  nacc : Nat := 0
  nwb : Nat := 0
  save : Nat := 0
  cirq : Bool := false
  compl : Nat := 0
  preq : List (Nat × Bool) := []
  rchain : Option Nat := none
  drep : Nat := 0
  peerix : Nat := 0
  clock : Clock := []
  placedGangs : List Nat := []
  bars : List BarSt := []
  /-- How many steps have become active, by peer and tag (19 R393). -/
  stepNos : List (Nat × Nat × Nat) := []
  atoms : List (Nat × Nat × Nat) := []
  first : BitVec 256 := 0
  rerun : Bool := false
  trap2 : Nat := 0
  trapGtid : Nat := 0
  status : Nat := 0
  detail : Nat := 0
  segs : List (List Seg) := []
  image : List Byte := []
  saved : List Saved := []
  turn : Nat := 0
  turnGang : Nat := 0
  /-- Held back until RESUME. -/
  held : Bool := false
  /-- What its ended threads released, and their numbers. -/
  endClk : Clock := []
  uids : List Nat := []
  /-- A page that the headgate waits for on its behalf. -/
  wait : Option PageWait := none
  /-- Its restore chain's command. -/
  chain : Option Nat := none
deriving DecidableEq, Repr

/-! ## Engines (12 R297 to R309) -/

/-- What an engine command does. -/
inductive CmdKind where
  /-- One transfer record: CPY, CPYR or RQCPY. -/
  | record
  /-- A chain of transfer records on a channel; none for a restore chain (20 R405). -/
  | chain (ch : Nat)
  /-- One confluence step. -/
  | cstep
  /-- A chain of steps. -/
  | cchain
  | dgst
deriving DecidableEq, Repr

/-- Where an engine command stands. -/
inductive CmdSt where
  | queued
  | active
  | sleeping
  | page (w : PageWait)
  | sent
  | finished
deriving DecidableEq, Repr

/-- An engine command (12 R297, R303, R304). -/
structure Cmd where
  id : Nat
  thr : Nat
  task : Nat
  vu : Nat
  core : Nat
  kind : CmdKind
  st : CmdSt := .queued
  seg : Nat := 0
  segs : Vector Seg 8
  head : Nat := 0
  record : List Word := []
  spt : Vector Nat 8 := Vector.replicate 8 0
  det : Bool := false
  clock : Clock := []
  recs : Nat := 0
  code : Nat := 0
  detail : Nat := 0
  /-- A confluence step is active: its operand has left (12 R308). -/
  live : Bool := false
  /-- When it became active (19 R393). -/
  actv : Nat := 0
  landed : Bool := false
  acked : Bool := false
  /-- Which step of its task under its peer and tag it is (19 R393). -/
  stepNo : Option Nat := none
  /-- What the step in hand has written. -/
  stepW : List CmdW := []
  writes : List CmdW := []
  paths : List Path := []
  folded : Bool := false
  probes : Nat := 0
  order : Nat := 0
  /-- The paths that a DRAIN of the issuing thread has drained (08 R213). -/
  drained : List Path := []
  /-- The flumes that its addresses were resolved against (02 R64, R68). -/
  flumes : List Nat := []
deriving DecidableEq, Repr

/-- A matrix instruction or an ATTN at its engine (14 R341, R343; 15 R368): where it came from, its place in the queue, and what
its issue settled: the words of its frame or descriptor, its origin, the addresses of its data, and its scalar operands. -/
structure MatQ where
  core : Nat
  thr : Nat
  vu : Nat
  wid : Option Nat
  prio : Nat
  order : Nat
  i : Instr
  pc : Word
  seq : Nat
  /-- The lane of a forecast loop whose band it uses. -/
  band : Option Nat := none
  frame : List Word := []
  org : Nat × Nat := (0, 0)
  a : List SegA := []
  b : List SegA := []
  x : Word := 0
  elem : Option VReg := none
  /-- The trap that came with its runnel element, or the one found when it was performed. -/
  trap : Option Trap := none
  /-- Its stream and the element that it takes, its checkpoint (14 R352); and whether it must fetch that element again
  (14 R353). -/
  check : Option (Runnel × Nat) := none
  replay : Bool := false
  /-- Its words do not fit in the lane's side buffer: it waits for acceptance (07 R195; 18 R392). -/
  full : Bool := false
  page : Option PageWait := none
  /-- The reader count that a staging write waits for (06 R170): function, address, area. -/
  rdr : Option (Nat × Nat × Nat) := none
  performed : Bool := false
  /-- Its place in the thread digest. -/
  hole : Nat := 0
  /-- The clock that its writes bring, and the epoch of its issue. -/
  clk : Clock := []
  epoch : Nat := 0
  res : List RegW := []
deriving DecidableEq, Repr

/-- A WLD fill in flight (14 R349). -/
structure Fill where
  vu : Nat
  tile : Nat
  order : Nat
  m : MatQ
deriving DecidableEq, Repr

/-- A page of a function's leaf that a TLB holds (21 R428). -/
structure Tlb where
  die : Nat
  fn : Nat
  page : Nat
  large : Bool
  leaf : Word
deriving DecidableEq, Repr

/-- An entry of a fault buffer (21 R431). -/
structure FaultEnt where
  req : Nat
  fn : Nat
  page : Nat
  count : Nat
  cause : Nat
  gtid : Nat
deriving DecidableEq, Repr

/-! ## Contexts (05, 06, 15) -/

/-- A slot record of a context (05 R132): identity, token, raw position in SLACK mode, whether it is provisional (07 R199), the
loop and index of an append of the open round (07 R197), whether an append occupied it, the edit number up to which it was
free, and the layers at which keys and values of this token have been written, each with whether only provisionally. -/
structure SlotRec where
  slot : Nat
  token : BitVec 32
  pos : Int
  prov : Bool := false
  ix : Option (Nat × Nat) := none
  app : Bool := false
  born : Nat := 0
  wrote : List (Nat × Bool) := []
deriving DecidableEq, Repr

/-- A KV block of a context (05 R131): number, in SHIFT mode BPOS and SHIFTN, and whether only a provisional append brought it
into the context order (07 R199). -/
structure BlockRec where
  blk : Nat
  bpos : Int := 0
  shiftn : Nat := 0
  prov : Bool := false
deriving DecidableEq, Repr

/-- The dispatch of an entry (05 R141, R144): the work item's thread, or none where the host is to launch it, its stamp, state and
FORCE, its slot list with positions, and whether the staging area's WMASK bits have been cleared (R150). -/
structure Disp where
  thr : Option Nat
  stamp : Nat
  state : Nat
  force : Bool
  slots : List (Nat × Int)
  cleared : Bool := false
  /-- A posted entry that the host has launched (20 R401). -/
  go : Bool := false
deriving DecidableEq, Repr

/-- A silt entry (05 R139), its dispatch while it is PENDING, and whether a dispatch has been made since it was last VALID
(06 R179). -/
structure Silt where
  layer : Nat
  blk : Nat
  state : Nat := 0
  stamp : Nat := 0
  first : Nat := 0
  pfirst : Nat := 0
  force : Bool := false
  remark : Nat := 0
  disp : Option Disp := none
  busy : Bool := false
deriving DecidableEq, Repr

/-- What an edit asks (05 R135 to R138, R155). -/
inductive EditOp where
  | ins (front : Bool) (slot : Nat) (spare : Option Nat) (token : BitVec 32)
  | del (slot : Nat)
  | sub (slot : Nat) (token : BitVec 32)
  | repack
deriving DecidableEq, Repr

/-- An edit on its way to the arbiter: its thread and window, and its clock. -/
structure EditReq where
  thr : Nat
  wid : Nat
  d : R5
  e : EditOp
  clock : Clock
deriving DecidableEq, Repr

/-- A live context (05 R126, R127; 15 R381, R382): its model, its registration, the die of its store, A, the context order of its
blocks and of its occupied slots, its silt map, the edits on their way to its arbiter, the
thread and window of its release, and the clocks of its edits and of its commits by stamp, layer and silt block. [DEDUCED, log 45] -/
structure Ctx where
  h : Nat
  fn : Nat
  nlm1 : Nat
  cstride : Nat
  siltlg : Nat
  shift : Bool
  det : Bool
  kvfmt : Nat
  kvhm1 : Nat
  hdlg : Nat
  maxbm1 : Nat
  seed : Nat
  store : Nat
  /-- STSZ, in bytes. -/
  stsz : Nat
  entries : List Nat
  tau : List (BitVec 32)
  gain : List (BitVec 32)
  hpool : Nat
  hw64 : Nat
  tasktag : BitVec 32
  die : Nat
  a : Nat := 0
  blocks : List BlockRec := []
  slots : List SlotRec := []
  silt : List Silt := []
  edits : List EditReq := []
  /-- Formats that requantisation has given records beside KVFMT (06 R179). -/
  fmts : List Nat := []
  releasing : Option (Nat × Nat) := none
  editClk : Clock := []
  commits : List (Nat × Nat × Nat × Clock) := []
  /-- The query records that ATTN has written (06 R175): record's address, area, head. -/
  qrecs : List (Nat × Nat × Nat) := []
  /-- The records that MSTQ has written: layer, KV block, address; and the tables of the context's append regions: layer and
  address (06 R165). -/
  homes : List (Nat × Nat × Nat) := []
  regions : List (Nat × Nat) := []
  /-- Staging areas whose WMASK bits a dispatch clears once nothing reads them: layer, silt block, record, area (05 R150). -/
  toClear : List (Nat × Nat × Nat × Nat) := []
deriving DecidableEq, Repr

/-- A record that a swap retired (06 R179): its context, function, address and size. -/
structure Retired where
  ctx : Nat
  fn : Nat
  va : Nat
  size : Nat
deriving DecidableEq, Repr

/-! ## Functions (20) -/

/-- A launch queue (20 R399). -/
structure Queue where
  base : Word := 0
  en : Bool := false
  dev : Bool := false
  prio : Nat := 0
  qlg : Nat := 4
  kick : Nat := 0
  head : Nat := 0
  badpkt : Bool := false
  stale : Bool := false
  kword : Nat := 0
  owner : BitVec 32 := 0
  /-- Fetches of the packet at the head that found another stamp (20 R402). -/
  retries : Nat := 0
  clock : Clock := []
  /-- The accepted packet whose effect is under way, and the page that it or its fetch waits for. -/
  pkt : Option Event := none
  wait : Option PageWait := none
  /-- The place in the kick word's wait list, and the page that the kick word waits for. -/
  kticket : Nat := 0
  kwait : Option PageWait := none
  /-- The owning task was torn down (20 R412). -/
  ended : Bool := false
deriving DecidableEq, Repr

/-- An assist item (20 R420): kind, die, payload. -/
structure Assist where
  kind : Nat
  die : Nat
  dws : List Word
deriving DecidableEq, Repr

/-- The SPDM connection of a function (22 R453). -/
structure Spdm where
  version : Bool := false
  caps : Bool := false
  algs : Bool := false
  handshake : Option Nat := none
  session : Option Nat := none
deriving DecidableEq, Repr

/-- A function (20 R396): queues, assist ring, MSI-X vectors, partition, SPDM state. -/
structure Fn where
  n : Nat
  queues : Vector Queue 8 := Vector.replicate 8 {}
  abase : Word := 0
  aen : Bool := false
  alg : Nat := 4
  acons : Nat := 0
  apost : Nat := 0
  waiting : List Assist := []
  /-- MSI-X vectors masked and pending, after reset as PCI Express has it: PRESUMED (log 4). -/
  masked : BitVec 4 := 0xF
  pending : BitVec 4 := 0
  /-- The message address and data of each vector (20 R421). -/
  msgs : Vector (Word × BitVec 32) 4 := Vector.replicate 4 (0, 0)
  /-- Clusters of the partition, die × 64 + cluster. -/
  part : List Nat := []
  /-- Tasks that a pre-emption is to suspend, each with whether it stays so until RESUME, and tasks that it is to tear down,
  each with its DETAIL; and whether the halt is complete (20 R411, R413 to R415). -/
  halt : List (Nat × Bool) := []
  tear : List (Nat × Nat) := []
  halted : Bool := false
  /-- Nothing negotiated after reset: PRESUMED (log 4). -/
  spdm : Spdm := {}
deriving DecidableEq, Repr

/-! ## Dies (21, 22, 25) -/

/-- A free list (21 R437). -/
structure FreeList where
  base : Nat := 0
  en : Bool := false
  lg : Nat := 8
  lowat : Nat := 0
  prod : Nat := 0
  cons : Nat := 0
  /-- The low-water event has been raised and the count has not risen since. -/
  low : Bool := false
deriving DecidableEq, Repr

/-- The health counters (25 R469): the live ones and the ones of the last latch. -/
structure Health where
  live : Vector Nat 9 := Vector.replicate 9 0
  latched : Vector Nat 9 := Vector.replicate 9 0
  temp : Nat := 0
  tsite : Nat := 0
  latch : Word := 0
  pcap : Nat := 1600
  throt : Bool := false
deriving DecidableEq, Repr

/-- A page command under way (21 R440): function, first page and number of pages of the leaf, the place of its entry, the old
entry, and for MIGRATE the new one. -/
structure PageCmd where
  fn : Nat
  page : Nat
  pages : Nat
  ent : Nat
  old : Word
  new : Option Word
deriving DecidableEq, Repr

/-- A step descriptor handed over (06 R184), with the clock of its SETS, the page that the builder waits for, and the place of
the step list's first word that must become empty. -/
structure StepReq where
  fn : Nat
  task : Nat
  addr : Nat
  clock : Clock := []
  wait : Option PageWait := none
  full : Option Nat := none
  /-- Step building was host-assisted when it was handed over (20 R419). -/
  host : Bool := false
  /-- Its words, once it has been read (06 R184). -/
  desc : List Word := []
deriving DecidableEq, Repr

/-- A site of a die during bring-up (22 R460 to R462, 24 R466 to R468). -/
structure Site where
  s : Nat
  hop : Nat
  parent : Nat
  /-- Its return has reached the root. -/
  returned : Bool := false
  /-- The flits it stored in this attempt, each intact or not. -/
  flits : List Bool := []
  answered : Option Bool := none
deriving DecidableEq, Repr

/-- A disabled slot of a core (21 R449). -/
structure HotCore where
  core : Nat
  disabled : Nat
  alternate : Bool
deriving DecidableEq, Repr

/-- A dirty line that waits for an allocation (21 R438): block-map entry and fewest granules. -/
structure DirtyBlk where
  map : Nat
  blk : Nat
deriving DecidableEq, Repr

/-- A die (21 R423, R428 to R448; 22 R459; 24 R466; 25 R469). -/
structure Die where
  fbuf : Vector (Option FaultEnt) 8 := Vector.replicate 8 none
  drop : Bool := false
  tinv : Option Word := none
  /-- The page command in progress (21 R439). -/
  pcmd : Option PageCmd := none
  /-- The channel being retired and its target (21 R443). -/
  cret : Option (Nat × Nat) := none
  free : Vector FreeList 9 := Vector.replicate 9 {}
  pnew : Word := 0
  pstat : Nat := 0
  ctgt : Nat := 0
  cstat : Nat := 0
  /-- Retired logical channels with their PBASE (21 R442). -/
  chmap : List (Nat × Nat) := []
  /-- Corrected errors of logical channels (21 R443). -/
  corrected : List (Nat × Nat) := []
  remapBase : Nat := 0
  split : Word := 0
  leeptr : Word := 0
  attcfg : Word := 0
  steps : List StepReq := []
  /-- The descriptor that the builder has taken and whose list is not out (06 R184). -/
  building : Option StepReq := none
  taken : Nat := 0
  ingress : List PeerStep := []
  dirty : List DirtyBlk := []
  hot : List HotCore := []
  health : Health := {}
  stage : Nat := 1
  err : Nat := 0
  round : Nat := 0
  sites : List Site := []
  attempt : Nat := 0
  joined : Bool := false
deriving DecidableEq, Repr

/-- A key slot (22 R456). -/
structure KeySlot where
  slot : Nat
  key : BitVec 512
  fn : Nat
deriving DecidableEq, Repr

/-- A line pinned in a slice (02 R77). -/
structure Pin where
  slice : Nat
  fn : Nat
  /-- The line of its frame (21 R428). -/
  line : Nat
  task : Nat
deriving DecidableEq, Repr

/-- What leaves the device for the outside world: an MSI-X message, an SPDM or SEALKEY response, the answer to a host or
peer access, an operand sent to a peer, an acknowledgement, the arrival of this module's members at a barrier over modules. -/
inductive Out where
  | msix (fn v : Nat) (addr : Word) (data : BitVec 32)
  | spdm (fn code : Nat) (payload : List Byte)
  | answer (fn : Nat) (ok : Bool) (val : Word)
  | operand (peer tag no : Nat) (op count ifmt : Nat) (data : List Byte)
  | ack (peer tag no : Nat)
  | arrived (task level : Nat)
deriving DecidableEq, Repr

end Sys2Proof.Machine
end

