-- ==== Sys2Proof/Machine/State.lean ====
section
/-!
DEFINITION. The state of the Tammond, the state after reset, and the reasons a step can stop.
-/
namespace Sys2Proof.Machine

/-- Why a step stops with a fault. The device itself never stops: these answer a step that is named in a state in which
it cannot come about, which `step` never does. [DESIGN CHOICE, log 82] -/
inductive Fault where
  /-- An instruction is executed while no thread is current. Raised by every instruction's meaning; safe. -/
  | noThread
  /-- A device step is executed where nothing stands that it acts on (no such command, window, record, queue, site).
  Raised by the meanings of device steps; safe. -/
  | notEnabled
  /-- A core is given a turn while none of its threads is ready. Raised by a core's turn, which `step` gives only to a core
  with a ready thread; safe. -/
  | idle
deriving DecidableEq, Repr

/-- Why an instruction has no meaning. -/
inductive Refusal where
  /-- Rejected by name in `exec`; safe. -/
  | notModelled (mnemonic : String)
deriving DecidableEq, Repr

/-- Everything the spec gives the machine. -/
structure State where
  /-- Counts the uses of free values; the model's own. -/
  tick : Nat
  /-- Orders parkings, queue entries, ready-set entries and messages; the model's own. -/
  order : Nat
  /-- Numbers for threads, engine commands and tasks to come; the model's own. -/
  nextUid : Nat
  nextCmd : Nat
  nextTask : Nat
  /-- The thread whose instruction `exec` performs. -/
  cur : Option Nat
  /-- What the device step that `exec` performs acts on. -/
  op : EvOp
  /-- What the outside world will do, one list for each of its parties, in that party's order (20, 22, 25). -/
  inputs : List (List Event)
  /-- Writes of registers by the management cores that are on their way to the register blocks (21 R423). -/
  posted : List Event
  /-- The page that the outside access in hand waits for (21 R427, R430). -/
  stall : Option PageWait
  /-- What left for the outside world, latest first. -/
  out : List Out
  /-- All memory by place: device memory, AB and weight codes of every vcore, cistern, management data memory, host
  memory and compressed blocks (02 R48, R57, R75; 21 R422, R435; 24 R466). An unlisted byte reads zero. -/
  mem : List Host.Cell
  /-- The words whose FE bit is empty, ascending (02 R59). -/
  empty : List Nat
  /-- The poisoned words, ascending (11 R274). -/
  poison : List Nat
  /-- The side records of words, ascending (03 R83). -/
  recs : List WordRec
  /-- Earlier values of words, ascending, which snapshot loads may still return (02 R55). -/
  past : List Past
  /-- What is known of the threads of peer modules whose accesses arrived (03 R84). -/
  peers : List (Nat × Clock)
  threads : List Thread
  vcores : List Vcore
  tasks : List Task
  cmds : List Cmd
  matq : List MatQ
  fills : List Fill
  /-- The physical slots that have still to issue in the pass of a core's rotation (01 R10); management cores count from 2,048. -/
  turns : List (Nat × List Nat)
  /-- Messages on their way, by sending thread order (01 R34). -/
  msgs : List (Nat × Msg)
  tlb : List Tlb
  /-- FUNCTAB (21 R424). -/
  functab : Nat
  dies : Vector Die 2
  fns : List Fn
  /-- Converted ways of slices (02 R75) where not zero. -/
  ways : List (Nat × Nat)
  pins : List Pin
  ctxs : List Ctx
  /-- Reader counts of KV records (06 R167): function, address, area, count. -/
  readers : List (Nat × Nat × Nat × Nat)
  retired : List Retired
  keys : List KeySlot
  /-- READY of BOOTST (22 R459). -/
  ready : Bool
  aliasKey : Bool
  /-- Measurements 1 to 7, as taken (22 R453). -/
  measured : List (Nat × BitVec 256)
  /-- Firmware that module flash holds beside what the part was made with: staged for the next reset, and running; and the
  fused security version number where an update raised it (22 R455). -/
  staged : List FwImage
  images : List FwImage
  svn : Nat
deriving DecidableEq, Repr

/-- ATTCFG after reset (06 R176). -/
def attcfgReset : Word := 0x100800

/-- The machine right after reset (22 R459 stage 1): no task, no thread, no queue enabled. [DESIGN CHOICE, log 3] [DESIGN CHOICE, log 81] -/
def State.reset : State :=
  { tick := 0, order := 0, nextUid := 0, nextCmd := 0, nextTask := 1, cur := none, op := {}, inputs := [], posted := [], stall := none, out := [],
    mem := [], empty := [], poison := [], recs := [], past := [], peers := [], threads := [], vcores := [], tasks := [], cmds := [], matq := [],
    fills := [], turns := [], msgs := [], tlb := [], functab := 0,
    dies := Vector.replicate 2 { attcfg := attcfgReset }, fns := [], ways := [], pins := [], ctxs := [], readers := [], retired := [],
    keys := [], ready := false, aliasKey := false, measured := [], staged := [], images := [], svn := 0 }

end Sys2Proof.Machine
end

