-- ==== Sys2Proof/Machine/Mem.lean ====
section
/-!
DEFINITION. Memory: the layout of places, bytes and words, FE bits and poison, the access records and clocks of race
detection, and the bytes that engines and threads move.
-/
namespace Sys2Proof.Machine

/-! ## The byte list in canonical form -/

/-- The byte at a place; an unlisted byte reads zero. [DESIGN CHOICE, log 2] -/
def peek : List Host.Cell → Nat → Byte
  | [], _ => 0
  | (k, b) :: t, a => if k = a then b else peek t a

/-- Sets one byte and keeps the canonical form: places rising, no zero byte listed. -/
def poke : List Host.Cell → Nat → Byte → List Host.Cell
  | [], a, b => if b = 0 then [] else [(a, b)]
  | (k, c) :: t, a, b =>
    if a < k then (if b = 0 then (k, c) :: t else (a, b) :: (k, c) :: t)
    else if a = k then (if b = 0 then t else (a, b) :: t)
    else (k, c) :: poke t a b

/-- The canonical form. -/
def Memory.wf : List Host.Cell → Bool
  | [] => true
  | (k, b) :: t => b != 0 && (match t with | [] => true | (k', _) :: _ => decide (k < k')) && Memory.wf t

/-- Replaces the bytes of a range: `l` gives the new ones by place, rising, those of zeros left out. -/
def putRange (m : List Host.Cell) (a n : Nat) (l : List Host.Cell) : List Host.Cell :=
  m.filter (fun x => x.1 < a) ++ ((l.filter fun x => x.2 != 0 && decide (a ≤ x.1) && decide (x.1 < a + n)) ++
    m.filter fun x => a + n ≤ x.1)

/-- Adds a number to an ascending list. -/
def insertKey : List Nat → Nat → List Nat
  | [], a => [a]
  | k :: t, a => if a < k then a :: k :: t else if a = k then k :: t else k :: insertKey t a

/-- Removes a number from an ascending list. -/
def eraseKey : List Nat → Nat → List Nat
  | [], _ => []
  | k :: t, a => if k = a then t else k :: eraseKey t a

/-! ## Places

Device physical addresses stand for themselves. -/

/-- The management data memory of a die (24 R466). -/
def mgmtBase (die : Nat) : Nat := 2 ^ 61 + die * 2 ^ 16
/-- The cistern of a slice (02 R75). -/
def cistBase (slice : Nat) : Nat := 2 ^ 62 + slice * 2 ^ 21
/-- The AB region of a vcore (02 R58). -/
def abBase (vu : Nat) : Nat := 2 ^ 64 + vu * 2 ^ 20
/-- A 4 KiB block of a compressible page, by its block-map entry (21 R435). -/
def blockBase (map : Nat) : Nat := 2 ^ 96 + map * 2 ^ 12
/-- Host memory. -/
def hostBase : Nat := 2 ^ 128

/-- The logical channel map (21 R442): where the bytes of a physical address stand. -/
def State.chan (s : State) (pa : Nat) : Nat :=
  if pa < 2 ^ 40 then
    match (s.dies[pa / 2 ^ 38 % 2]).chmap.find? (fun x => x.1 == pa / 2 ^ 31) with
    | some (_, b) => b * 2 ^ 31 + pa % 2 ^ 31
    | none => pa
  else pa

/-- Reads one byte at a place. -/
def State.byte (s : State) (a : Nat) : Byte := peek s.mem (s.chan a)

/-- `n` bytes from a place on. -/
def State.bytes (s : State) (a : Nat) : Nat → List Byte
  | 0 => []
  | n + 1 => s.byte a :: s.bytes (a + 1) n

/-- Bytes as a little-endian number (00 R2). -/
def natOfBytes : List Byte → Nat
  | [] => 0
  | b :: t => b.toNat + 256 * natOfBytes t

/-- `n` bytes at a place as a number. -/
def State.num (s : State) (a n : Nat) : Nat := natOfBytes (s.bytes a n)

/-- The doubleword at a place. -/
def State.dword (s : State) (a : Nat) : Word := w64 (s.num a 8)

/-- `n` doublewords from a place on. -/
def State.dwords (s : State) (a : Nat) : Nat → List Word
  | 0 => []
  | n + 1 => s.dword a :: s.dwords (a + 8) n

/-- Writes one byte. -/
def State.setByte (s : State) (a : Nat) (b : Byte) : State := { s with mem := poke s.mem (s.chan a) b }

/-- Writes bytes from a place on. -/
def State.setBytes (s : State) (a : Nat) : List Byte → State
  | [] => s
  | b :: t => (s.setByte a b).setBytes (a + 1) t

/-- Writes the low `n` bytes of a number. -/
def State.setNum (s : State) (a n x : Nat) : State := s.setBytes a (bytesOfNat n x)

/-- The FE bit of the word that holds a place: full (02 R59). -/
def State.full (s : State) (a : Nat) : Bool := !s.empty.contains (a / 8)

/-- Sets the FE bit of a word. -/
def State.setFull (s : State) (a : Nat) (f : Bool) : State :=
  { s with empty := if f then eraseKey s.empty (a / 8) else insertKey s.empty (a / 8) }

/-- The word that holds a place is poisoned (11 R274). -/
def State.poisoned (s : State) (a : Nat) : Bool := s.poison.contains (s.chan a / 8)

/-- Marks or clears a word's poison. -/
def State.setPoison (s : State) (a : Nat) (p : Bool) : State :=
  { s with poison := if p then insertKey s.poison (s.chan a / 8) else eraseKey s.poison (s.chan a / 8) }

/-- The places of the bytes of an access, following the conversion of 21 R445. -/
def lcOffset (c : Lc) (o : Nat) : Nat :=
  let rows := 2 ^ 16 / 2 ^ c.pl
  -- the stored row and column of a row-major offset, and the arranged offset
  let arrange (i1 b : Nat) : Nat :=
    if c.kind = 1 then
      let u := b / 4
      4 * (256 * (u / 16 + 2 ^ (c.pl - 6) * (i1 / 16)) + 16 * (u % 16) + i1 % 16) + b % 4
    else 16384 * (b / 128 + 2 ^ (c.pl - 7) * (i1 / 128)) + 128 * (i1 % 128) + b % 128
  -- the row-major offset that an arranged offset stands for
  let back (x : Nat) : Nat :=
    if c.kind = 1 then
      let q := x / 4
      let blk := q / 256
      let u := 16 * (blk % 2 ^ (c.pl - 6)) + q % 256 / 16
      let i1 := 16 * (blk / 2 ^ (c.pl - 6)) + q % 16
      (i1 % rows) * 2 ^ c.pl + 4 * u + x % 4
    else
      let blk := x / 16384
      let i1 := 128 * (blk / 2 ^ (c.pl - 7)) + x % 16384 / 128
      (i1 % rows) * 2 ^ c.pl + 128 * (blk % 2 ^ (c.pl - 7)) + x % 128
  if c.dir then arrange (o / 2 ^ c.pl) (o % 2 ^ c.pl) else back o

/-- The place of byte `i` of an access. -/
def Place.at (p : Place) (i : Nat) : Nat :=
  match p.lc with
  | none => p.loc + i
  | some c => c.base + lcOffset c ((p.addr + i) % 2 ^ 16)

/-- The bytes of an access. -/
def State.readP (s : State) (p : Place) : Nat → List Byte
  | n => (List.range n).map fun i => s.byte (p.at i)

/-- The value of an access. -/
def State.numP (s : State) (p : Place) (n : Nat) : Nat := natOfBytes (s.readP p n)

/-- A word that the access touches is poisoned: its index in the access. -/
def State.poisonP (s : State) (p : Place) (n : Nat) : Option Nat :=
  ((List.range n).filter fun i => s.poisoned (p.at i)).head?

/-- The trap value of a word (11 R274, 03 R84): the device virtual address, or the AB offset with bit 63 set; for the
cistern slice × 2^21 + offset. [DEDUCED, log 16] -/
def Place.tval (p : Place) (i : Nat) : Word :=
  let a := (p.addr + i) / 8 * 8
  if p.space = 1 then w64 (2 ^ 63 + a)
  else if p.space = 2 then w64 ((p.slice.getD 0) * 2 ^ 21 + a)
  else w64 a

/-- The address of a word in a digest block (08 R212). -/
def Place.digAddr (p : Place) : Nat :=
  if p.space = 2 then (p.slice.getD 0) * 2 ^ 21 + p.addr else p.addr

/-! ## Clocks (03 R81, R91) -/

/-- What a clock knows of a thread. -/
def Clock.know (c : Clock) (thr : Nat) : Option Know := c.find? fun k => k.thr == thr

/-- The epoch known for a slice. -/
def Know.at (k : Know) (slice : Nat) : Nat :=
  match k.exc.find? fun x => x.1 == slice with
  | some x => x.2
  | none => k.epoch

/-- The least upper bound of two entries of one thread. -/
def Know.join (a b : Know) : Know :=
  let e := Nat.max a.epoch b.epoch
  let ss := (a.exc.map (·.1) ++ b.exc.map (·.1)).eraseDups
  { thr := a.thr, epoch := e,
    exc := (ss.map fun x => (x, Nat.max (a.at x) (b.at x))).filter fun x => x.2 != e }

/-- Joins one entry into a clock. -/
def Clock.put : Clock → Know → Clock
  | [], k => [k]
  | a :: t, k => if k.thr < a.thr then k :: a :: t else if k.thr = a.thr then a.join k :: t else a :: Clock.put t k

/-- The join of two clocks. -/
def Clock.join (a b : Clock) : Clock := b.foldl Clock.put a

/-- A recorded access is ordered before the holder of the clock. -/
def Clock.covers (c : Clock) (r : Acc) (slice : Option Nat) : Bool :=
  match c.know r.thr with
  | none => false
  | some k => r.epoch ≤ (match slice, r.write with | some x, true => k.at x | _, _ => k.epoch)

/-! ## Access records (03 R83) -/

/-- The side record of a word. -/
def State.wordRec (s : State) (a : Nat) : WordRec := (s.recs.find? fun r => r.key == a / 8).getD { key := a / 8 }

/-- Puts a side record in its place. -/
def putRec : List WordRec → WordRec → List WordRec
  | [], r => [r]
  | a :: t, r => if r.key < a.key then r :: a :: t else if r.key = a.key then r :: t else a :: putRec t r

/-- Changes the side record of a word. -/
def State.setRec (s : State) (a : Nat) (f : WordRec → WordRec) : State := { s with recs := putRec s.recs (f (s.wordRec a)) }

/-- The first recorded access of another thread that an access conflicts with and is not ordered after (03 R82). [DEDUCED, log 13] -/
def State.conflict (s : State) (thr : Nat) (clk : Clock) (a : Nat) (slice : Option Nat) (write sync : Bool) :
    Option Acc :=
  (s.wordRec a).acc.find? fun r =>
    r.thr != thr && (write || r.write) && !(sync && r.sync) && !clk.covers r slice

/-- Records an access. -/
def State.record (s : State) (a : Nat) (r : Acc) : State :=
  s.setRec a fun w =>
    { w with acc := r :: w.acc.filter fun x => !(x.thr == r.thr && x.write == r.write && x.sync == r.sync) }

/-- Puts a word's earlier values in their place. -/
def putPast : List Past → Past → List Past
  | [], r => [r]
  | a :: t, r => if r.key < a.key then r :: a :: t else if r.key = a.key then r :: t else a :: putPast t r

/-- The earlier values of the word at a place. -/
def State.pastOf (s : State) (key : Nat) : List Old := ((s.past.find? fun x => x.key == key).map (·.olds)).getD []

/-- The word at a place is about to be overwritten: its value joins its earlier ones (02 R55). -/
def State.keepOld (s : State) (a : Nat) : State :=
  let l := s.pastOf (a / 8)
  if l.head?.any fun x => x.upto == s.tick then s
  else { s with past := putPast s.past ⟨a / 8, ⟨s.tick, s.dword (a / 8 * 8), s.poisoned a⟩ :: l⟩ }

/-- Writes the bytes of one word that a mask names: value and poison (12 R282); the value before joins the earlier ones of a
word of device memory. -/
def State.putWord (s : State) (p : Place) (mask : BitVec 8) (x : Word) : State :=
  let a := p.loc
  let s := if p.space = 0 then s.keepOld a else s
  let s := (List.range 8).foldl (fun s i =>
    if mask.toNat.testBit i then s.setByte (a + i) (BitVec.ofNat 8 (x.toNat / 2 ^ (8 * i))) else s) s
  if mask = 0xFF then s.setPoison a false else s

/-- The device writes a number that lies in one word of device memory on its own behalf. -/
def State.devNum (s : State) (a n x : Nat) : State := (s.keepOld a).setNum a n x

/-- What the word at a place holds: bytes, poison, FE bit, side record and earlier values. -/
structure WordAll where
  x : Nat
  bad : Bool
  full : Bool
  side : WordRec
  olds : List Old

/-- A word of a page or a record that moves. -/
def State.pageWord (s : State) (a : Nat) : WordAll := ⟨s.num a 8, s.poisoned a, s.full a, s.wordRec a, s.pastOf (a / 8)⟩

/-- Writes what a word elsewhere held: its records and earlier values move with it (03 R83, 02 R55). -/
def State.setPageWord (s : State) (a : Nat) (x : WordAll) : State :=
  let s := (((s.setNum a 8 x.x).setPoison a x.bad).setFull a x.full).setRec a fun w => { x.side with key := w.key }
  if x.olds = [] && s.pastOf (a / 8) = [] then s else { s with past := putPast s.past ⟨a / 8, x.olds⟩ }

/-- A plain write or an unqualified atomic leaves a value that no synchronising write left (03 R81). -/
def State.plainWrite (s : State) (a : Nat) : State := s.setRec a fun w => { w with synLive := false }

end Sys2Proof.Machine
end

