-- ==== Sys2Proof/Machine/Xlate.lean ====
section
/-!
DEFINITION. Translation of device virtual addresses (21 R422 to R432): page tables in memory, leaves, TLBs, and the fault
buffers.
-/
namespace Sys2Proof.Machine

/-- A physical address that memory backs (21 R422). -/
def paBacked (pa : Nat) : Bool :=
  if pa.testBit 40 then pa < 2 ^ 41 else pa < 2 ^ 39 && pa % 2 ^ 31 < 2000000000

/-- The cause of a translation fault (21 R431). -/
inductive Cause where
  | notMapped
  | badEntry
  | readOnly
  /-- A page command or a retirement holds the request (21 R440, R444); it is no fault. -/
  | held
deriving DecidableEq, Repr

/-- Its code. -/
def Cause.code : Cause → Nat
  | .notMapped => 0
  | .badEntry => 1
  | .readOnly => 2
  | .held => 3

/-- Every byte from a physical address on is backed; a range of one address lies in one channel, or in the second tier. -/
def paRange (pa n : Nat) : Bool := paBacked pa && paBacked (pa + (n - 1))

/-- The PA that ADDR of an entry names. -/
def entryPa (e : Word) : Nat := bits e 32 0 * 256

/-- Fields of a table entry (21 R426). -/
def entV (e : Word) : Bool := bit e 63
def entLeaf (e : Word) : Bool := bit e 62
def entWr (e : Word) : Bool := bit e 61
def entCmp (e : Word) : Bool := bit e 60
def entSeal (e : Word) : Bool := bit e 59
def entKey (e : Word) : Nat := bits e 58 47
def entHome (e : Word) : Nat := bits e 46 40
def entLc (e : Word) : Nat := bits e 39 38
def entDir (e : Word) : Bool := bit e 37
def entPl (e : Word) : Nat := bits e 36 33

/-- The key slot of a sealed leaf holds a key bound to the function (22 R458). [DESIGN CHOICE, log 57] -/
def State.keyOk (s : State) (fn : Nat) (e : Word) : Bool :=
  s.keys.any fun k => k.slot == entKey e && k.fn == fn

/-- A leaf that the walk takes for a good entry at its level (21 R426, R445, R446; 22 R458). -/
def State.leafOk (s : State) (fn : Nat) (large : Bool) (e : Word) : Bool :=
  let pa := entryPa e
  let lcOk :=
    match entLc e with
    | 0 => true
    | 1 => 6 ≤ entPl e && entPl e ≤ 12
    | 2 => 7 ≤ entPl e && entPl e ≤ 9
    | _ => false
  let align := if entCmp e then (if large then 4096 else 128) else if large then 2 ^ 21 else 2 ^ 16
  let size := if entCmp e then (if large then 4096 else 128) else align
  entLeaf e && pa % align == 0 && paRange pa size &&
  (pa.testBit 40 || pa / 2 ^ 31 % 256 / 2 == entHome e) && (entSeal e || entKey e == 0) && lcOk &&
  (entLc e == 0 || (!entWr e && !entCmp e && !pa.testBit 40)) && (!entSeal e || s.keyOk fn e)

/-- A non-leaf entry that the walk takes for good (21 R426). -/
def nonLeafOk (level : Nat) (e : Word) : Bool :=
  let pa := entryPa e
  !entLeaf e && bits e 61 33 == 0 &&
  (match level with
   | 0 => pa % 8192 == 0 && paRange pa 8192
   | 1 => pa % 16384 == 0 && paRange pa 16384
   | _ => paRange pa 256)

/-- What a walk finds: a leaf with its size and the place of its entry, or a fault. -/
inductive Walk where
  | leaf (e : Word) (large : Bool) (ent : Nat)
  | fault (c : Cause)
deriving DecidableEq, Repr

/-- Reads an entry and settles the cases that no deeper level sees. -/
def State.walkStep (s : State) (fn level : Nat) (ent : Nat) (deeper : Nat → Walk) : Walk :=
  let e := s.dword ent
  if !entV e then .fault .notMapped
  else if entLeaf e then
    if level < 2 || !s.leafOk fn (level == 2) e then .fault .badEntry else .leaf e (level == 2) ent
  else if level == 3 || !nonLeafOk level e then .fault .badEntry
  else deeper (entryPa e)

/-- The place of a function's descriptor (21 R424). -/
def State.funcDesc (s : State) (fn : Nat) : Nat := s.functab + 32 * fn

/-- The four-level walk of a function's tables for a device virtual address (21 R425, R426). -/
def State.walk (s : State) (fn va : Nat) : Walk :=
  let d := s.dword (s.funcDesc fn)
  if !bit d 63 then .fault .notMapped
  else
    let root := entryPa d
    if root % 8192 != 0 || !paRange root 8192 then .fault .badEntry
    else
      s.walkStep fn 0 (root + 8 * (va / 2 ^ 42 % 1024)) fun t1 =>
      s.walkStep fn 1 (t1 + 8 * (va / 2 ^ 32 % 1024)) fun t2 =>
      s.walkStep fn 2 (t2 + 8 * (va / 2 ^ 21 % 2048)) fun t3 =>
      s.walkStep fn 3 (t3 + 8 * (va / 2 ^ 16 % 32)) fun _ => .fault .badEntry

/-- The leaf that a port uses: the one its die's TLB holds, or the one a walk finds (21 R428). [DEDUCED, log 55] -/
def State.leafOf (s : State) (die fn va : Nat) : Walk :=
  match s.tlb.find? fun x => x.die == die && x.fn == fn &&
      (if x.large then x.page / 32 == va / 2 ^ 21 else x.page == va / 2 ^ 16) with
  | some x => .leaf x.leaf x.large 0
  | none => s.walk fn va

/-- The place of a device access under a leaf. [DEDUCED, log 56] -/
def placeOf (e : Word) (large : Bool) (va : Nat) : Place :=
  let o := if large then va % 2 ^ 21 else va % 2 ^ 16
  if entCmp e then
    { space := 0, addr := va, loc := blockBase (entryPa e + 8 * (o / 4096)) + o % 4096, slice := some (entHome e),
      blk := some (entryPa e + 8 * (o / 4096)) }
  else
    { space := 0, addr := va, loc := entryPa e + o, slice := some (entHome e),
      lc := if entLc e = 0 then none
            else some { base := entryPa e + o / 2 ^ 16 * 2 ^ 16, kind := entLc e, dir := entDir e, pl := entPl e } }

/-- A page command holds new accesses to the page (21 R440). -/
def State.heldPage (s : State) (fn page : Nat) : Bool :=
  s.dies.toList.any fun d => d.pcmd.any fun c => c.fn == fn && c.page ≤ page && page < c.page + c.pages

/-- A retirement holds new requests to the place's channel (21 R444). -/
def State.heldLoc (s : State) (loc : Nat) : Bool := s.dies.toList.any fun d => d.cret.any fun c => c.1 == loc / 2 ^ 31

/-- The place of a request under a leaf is held: its byte's channel, or the one of its block's allocation. -/
def State.heldPlace (s : State) (p : Place) : Bool :=
  s.heldLoc p.loc || p.blk.any fun m => bit (s.dword m) 63 && s.heldLoc (entryPa (s.dword m))

/-- The outcome of a translation. -/
inductive Xl where
  | ok (p : Place) (wr : Bool)
  | fault (c : Cause)
deriving DecidableEq, Repr

/-- Translates an address for a read or a write (21 R427, R431), unless its request is held (21 R440, R444). A write through a
leaf with a conversion is settled by the access itself (21 R446). [DEDUCED, log 66] -/
def State.xlate (s : State) (die fn va : Nat) (wr : Bool) : Xl :=
  if s.heldPage fn (va / 2 ^ 16) then .fault .held
  else
    match s.leafOf die fn va with
    | .fault c => .fault c
    | .leaf e large _ =>
      if wr && !entWr e && entLc e == 0 then .fault .readOnly
      else if s.heldPlace (placeOf e large va) then .fault .held
      else .ok (placeOf e large va) (entWr e)

/-- The die at an index. -/
def State.die (s : State) (d : Nat) : Die := s.dies[d % 2]

/-- Changes a die. -/
def State.setDie (s : State) (d : Nat) (f : Die → Die) : State :=
  { s with dies := s.dies.set (d % 2) (f (s.dies[d % 2])) }

/-- A function's record; one that nothing has changed is as after reset. -/
def State.fn (s : State) (n : Nat) : Fn := (s.fns.find? fun f => f.n == n).getD { n := n }

/-- Puts a function's record. -/
def putFn : List Fn → Fn → List Fn
  | [], x => [x]
  | a :: t, x => if x.n < a.n then x :: a :: t else if x.n = a.n then x :: t else a :: putFn t x

/-- Changes a function's record. -/
def State.setFn (s : State) (n : Nat) (f : Fn → Fn) : State := { s with fns := putFn s.fns (f (s.fn n)) }

/-- One more free-value use. [DESIGN CHOICE, log 6] -/
def State.next (s : State) : State := { s with tick := s.tick + 1 }

/-- A new place in the order of queues. -/
def State.stamp (s : State) : State := { s with order := s.order + 1 }

/-! ## Assist rings and interrupts (20 R420, R421) -/

/-- The message of a vector leaves, with the address and data of its table entry. -/
def State.sendMsix (s : State) (fn v : Nat) : State :=
  let m := (s.fn fn).msgs.getD v (0, 0)
  { s with out := .msix fn v m.1 m.2 :: s.out }

/-- Signals a vector, or leaves it pending while masked. [DESIGN CHOICE, log 78] -/
def State.msix (s : State) (fn v : Nat) : State :=
  if (s.fn fn).masked.toNat.testBit v then s.setFn fn fun f => { f with pending := f.pending ||| (1#4 <<< v) }
  else s.sendMsix fn v

/-- The ring has room. -/
def Fn.assistRoom (f : Fn) : Bool := f.aen && (f.apost + 2 ^ 32 - f.acons) % 2 ^ 32 < 2 ^ f.alg

/-- Writes entry APOST of the ring, DW7 last, and signals vector 1. -/
def State.assistWrite (s : State) (fn : Nat) (a : Assist) : State :=
  let f := s.fn fn
  let at0 := hostBase + f.abase.toNat + 64 * (f.apost % 2 ^ f.alg)
  let dw0 := w64 (a.kind * 2 ^ 56 + a.die * 2 ^ 55)
  let ws := (dw0 :: (a.dws ++ List.replicate (6 - a.dws.length) 0)) ++ [w64 f.apost]
  let s := (List.range 8).foldl (fun s i => s.setNum (at0 + 8 * i) 8 (ws.getD i 0).toNat) s
  (s.setFn fn fun f => { f with apost := (f.apost + 1) % 2 ^ 32 }).msix fn 1

/-- Posts waiting items in order while the ring has room; `n` bounds how many. -/
def State.assistDrain (s : State) (fn : Nat) : Nat → State
  | 0 => s
  | n + 1 =>
    match (s.fn fn).waiting with
    | [] => s
    | a :: t =>
      if (s.fn fn).assistRoom then
        State.assistDrain ((s.setFn fn fun f => { f with waiting := t }).assistWrite fn a) fn n
      else s

/-- Posts an item to a function's assist ring, or lets it wait in order. -/
def State.assist (s : State) (fn : Nat) (a : Assist) : State :=
  (s.setFn fn fun f => { f with waiting := f.waiting ++ [a] }).assistDrain fn ((s.fn fn).waiting.length + 1)

/-! ## Fault buffers (21 R431 to R434) -/

/-- DW0 of an entry. -/
def FaultEnt.dw0 (e : FaultEnt) : Word :=
  w64 (2 ^ 63 + e.req * 2 ^ 60 + e.fn * 2 ^ 52 + e.page * 2 ^ 16 + Nat.min e.count 65535)

/-- DW1 of an entry. -/
def FaultEnt.dw1 (e : FaultEnt) : Word := w64 (e.cause * 2 ^ 62 + e.gtid)

/-- The index of the valid entry for a page. -/
def Die.entryOf (d : Die) (fn page : Nat) : Option Nat :=
  (List.range 8).find? fun i => match d.fbuf[i]? with
    | some (some e) => e.fn == fn && e.page == page
    | _ => false

/-- The lowest free entry. -/
def Die.freeEntry (d : Die) : Option Nat :=
  (List.range 8).find? fun i => match d.fbuf[i]? with
    | some none => true
    | _ => false

/-- Changes an entry of a fault buffer. -/
def Die.setEntry (d : Die) (i : Nat) (e : Option FaultEnt) : Die := { d with fbuf := d.fbuf.setIfInBounds i e }

/-- A faulting requester joins or takes an entry, or is dropped; a scout probe adds nothing to a count and is never
dropped (21 R432). A request that is held takes no entry (21 R441). -/
def State.fault (s : State) (die req fn page : Nat) (c : Cause) (gtid : Nat) : State × PageWait :=
  let d := s.die die
  if c = .held then (s.stamp, ⟨die, fn, page, false, false, false, some s.order⟩)
  else match d.entryOf fn page with
  | some i =>
    (s.setDie die fun d => d.setEntry i ((d.fbuf[i]?.getD none).map fun e =>
      if req = 5 then e else { e with count := Nat.min (e.count + 1) 65535 }), ⟨die, fn, page, false, false, false, none⟩)
  | none =>
    match d.freeEntry with
    | some i =>
      let e : FaultEnt := ⟨req, fn, page, if req = 5 then 0 else 1, c.code, gtid⟩
      let s := s.setDie die fun d => d.setEntry i (some e)
      (if bit (s.die die).split 0 then
          s.assist 0 ⟨1, die, [e.dw0, e.dw1, w64 (b2n (s.die die).drop)]⟩ else s, ⟨die, fn, page, false, false, false, none⟩)
    | none =>
      if req = 5 then (s, ⟨die, fn, page, false, false, false, none⟩)
      else
        let rise := !d.drop
        let s := s.setDie die fun d => { d with drop := true }
        (if rise && bit (s.die die).split 0 then s.assist 0 ⟨1, die, [0, 0, 1]⟩ else s, ⟨die, fn, page, true, false, false, none⟩)

end Sys2Proof.Machine
end

