-- ==== Sys2Proof/Machine/Base.lean ====
section
/-!
DEFINITION. The outcome of a part of an instruction, the accessors of threads, vcores, tasks, commands and contexts, and the
registers of a thread.
-/
namespace Sys2Proof.Machine

/-! ## Parts of an instruction -/

/-- What a part of an instruction answers: a value and the state it leaves, or that the instruction is over (it trapped or
parked) in a state. -/
inductive R (α : Type) where
  | ok (a : α) (s : State)
  | stop (s : State)

/-- One part after another. -/
def R.bind {α β : Type} (x : R α) (f : α → State → R β) : R β :=
  match x with
  | .ok a s => f a s
  | .stop s => .stop s

/-- The outcome of `exec` and `step`. -/
abbrev Out1 := Host.Outcome State Fault Refusal

/-- A thread with nothing in it. -/
def Thread.blank : Thread :=
  { uid := 0, task := 0, vu := 0, slot := 0, core := 0, pslot := 0, home := 0, rng := 0, rngBase := 0 }

/-- A thread by its number. -/
def State.thread? (s : State) (u : Nat) : Option Thread := s.threads.find? fun t => t.uid == u

/-- The current thread. -/
def State.me (s : State) : Thread := ((s.cur.bind s.thread?)).getD Thread.blank

/-- Changes a thread. -/
def State.updT (s : State) (u : Nat) (f : Thread → Thread) : State :=
  { s with threads := s.threads.map fun t => if t.uid == u then f t else t }

/-- Changes the current thread. -/
def State.upd (s : State) (f : Thread → Thread) : State :=
  match s.cur with
  | some u => s.updT u f
  | none => s

/-- Performs an instruction of the current thread. [DESIGN CHOICE, log 10] -/
def run (s : State) (x : State → R Unit) : Out1 :=
  match s.cur.bind s.thread? with
  | none => .fault .noThread
  | some _ =>
    match x s with
    | .ok _ s' => .next s'
    | .stop s' => .next s'

/-- A vcore by its number. -/
def State.vcore? (s : State) (vu : Nat) : Option Vcore := s.vcores.find? fun v => v.vu == vu

/-- A vcore, or one that is not there. -/
def State.vcore (s : State) (vu : Nat) : Vcore := (s.vcore? vu).getD { vu := vu, task := 0, idx := 0 }

/-- Changes a vcore. -/
def State.setVcore (s : State) (vu : Nat) (f : Vcore → Vcore) : State :=
  { s with vcores := s.vcores.map fun v => if v.vu == vu then f v else v }

/-- A task by its number. -/
def State.task? (s : State) (n : Nat) : Option Task := s.tasks.find? fun t => t.tid == n

/-- A task, or one that is not there. -/
def State.task (s : State) (n : Nat) : Task :=
  (s.task? n).getD { tid := n, fn := 0, tag := 0, q := 0, prio := 0 }

/-- Changes a task. -/
def State.setTask (s : State) (n : Nat) (f : Task → Task) : State :=
  { s with tasks := s.tasks.map fun t => if t.tid == n then f t else t }

/-- An engine command by its number. -/
def State.cmd? (s : State) (n : Nat) : Option Cmd := s.cmds.find? fun c => c.id == n

/-- Changes an engine command. -/
def State.setCmd (s : State) (n : Nat) (f : Cmd → Cmd) : State :=
  { s with cmds := s.cmds.map fun c => if c.id == n then f c else c }

/-- The completion status (12 R297). -/
def Cmd.statusWord (c : Cmd) : Word := w64 (c.recs * 2 ^ 32 + c.detail * 2 ^ 8 + c.code)

/-- A context by its handle. -/
def State.ctx? (s : State) (h : Nat) : Option Ctx := s.ctxs.find? fun c => c.h == h

/-- Changes a context. -/
def State.setCtx (s : State) (h : Nat) (f : Ctx → Ctx) : State :=
  { s with ctxs := s.ctxs.map fun c => if c.h == h then f c else c }

/-- The global thread number (01 R22). -/
def Thread.gtid (t : Thread) : Nat := t.vu % 1024 * 8 + t.slot

/-- The function that a thread's accesses belong to. -/
def State.fnOf (s : State) (t : Thread) : Nat := (s.task t.task).fn

/-- The die of the port that a thread's accesses use. -/
def Thread.die (t : Thread) : Nat := t.core / 1024 % 2

/-- The slice of a core's cluster (02 R48). -/
def coreSlice (core : Nat) : Nat := core / 16 % 128

/-- The core that hosts a thread's vcore. -/
def State.hostCore (s : State) (t : Thread) : Nat := (s.vcore t.vu).core

/-- A thread runs away from its host core (02 R53). Firmware threads have no vcore. -/
def State.away (s : State) (t : Thread) : Bool := t.fw.isNone && s.hostCore t != t.core

/-- The thread that a lane acts as (03 R93). -/
def Thread.agent (t : Thread) : Nat := match t.lane with | some l => l.loopOf | none => t.uid

/-- The thread whose clock and epoch the current thread uses. -/
def State.agentT (s : State) : Thread := (s.thread? s.me.agent).getD s.me

/-- The task is deterministic. -/
def State.det (s : State) (t : Thread) : Bool := (s.task t.task).det

/-- The thread runs in firmware mode (11 R276). -/
def Thread.fwm (t : Thread) : Bool := t.fw.isSome

/-! ## Registers -/

/-- A general register as the instruction reads it; g0 reads zero. -/
def Thread.gr (t : Thread) (r : R5) : Word :=
  if r = 0 then 0 else
    match t.shadow with
    | some h => h.g[r.toNat]'(r.isLt)
    | none => t.g[r.toNat]'(r.isLt)

/-- Writes a general register; a write to g0 is discarded. -/
def Thread.wg (t : Thread) (r : R5) (x : Word) : Thread :=
  if r = 0 then t else { t with g := t.g.set r.toNat x (r.isLt) }

/-- A vector register as the instruction reads it. -/
def Thread.vr (t : Thread) (r : R5) : VReg :=
  match t.shadow with
  | some h => h.v[r.toNat]'(r.isLt)
  | none => t.v[r.toNat]'(r.isLt)

/-- Writes a vector register whole. -/
def Thread.wv (t : Thread) (r : R5) (x : VReg) : Thread := { t with v := t.v.set r.toNat x (r.isLt) }

/-- A predicate as the instruction reads it; p0 reads all true. -/
def Thread.pr (t : Thread) (r : BitVec 3) : PReg :=
  if r = 0 then BitVec.allOnes 256 else
    match t.shadow with
    | some h => h.p[r.toNat]'(r.isLt)
    | none => t.p[r.toNat]'(r.isLt)

/-- Writes a predicate; a write to p0 is discarded. -/
def Thread.wp (t : Thread) (r : BitVec 3) (x : PReg) : Thread :=
  if r = 0 then t else { t with p := t.p.set r.toNat x (r.isLt) }

/-- A segment register as the instruction reads it. -/
def Thread.seg (t : Thread) (n : BitVec 3) : Seg :=
  match t.shadow with
  | some h => h.sg[n.toNat]'(n.isLt)
  | none => t.sg[n.toNat]'(n.isLt)

/-- The registers as they stand, for a shadow. -/
def Thread.snap (t : Thread) : Shadow :=
  match t.shadow with
  | some h => h
  | none => { g := t.g, v := t.v, p := t.p, sg := t.sg, pend := t.pend }

/-- A lane mask as a bit mask over the bytes of a vector register. -/
def maskBits (m : PReg) : VReg :=
  BitVec.ofNat 2048 ((List.range 256).foldl (fun a i => if m.toNat.testBit i then a + 255 * 2 ^ (8 * i) else a) 0)

/-- Replaces the bytes of `old` that the mask's lanes select. -/
def blend (m : PReg) (x old : VReg) : VReg := (x &&& maskBits m) ||| (old &&& ~~~(maskBits m))

end Sys2Proof.Machine
end

