-- ==== Sys2Proof/Machine/Block.lean ====
section
/-!
DEFINITION. The firmware register block of a die (21 R423): what its registers read, and the management core's accesses to its own
block in its firmware space, whose writes reach the registers in order.
-/
namespace Sys2Proof.Machine

/-- Where the block of a die begins, in BAR0 and in the management core's data memory. [DEDUCED, log 93] -/
def blockOffset (die : Nat) : Nat := 0x2000 + 0x1000 * die

/-- The registers of a fault buffer's entry (21 R431). -/
def fbufReg (e : Option FaultEnt) (hi : Bool) : Word := match e with
  | some e => if hi then e.dw1 else e.dw0
  | none => 0

/-- The registers of a free list (21 R437). -/
def FreeList.reg (f : FreeList) : Nat → Word
  | 0x00 => w64 f.base
  | 0x08 => w64 (b2n f.en * 2 ^ 63 + f.lg * 2 ^ 48 + f.lowat)
  | 0x10 => w64 f.prod
  | 0x18 => w64 f.cons
  | _ => 0

/-- The channel map's entry of a logical channel (21 R442). -/
def Die.chanReg (d : Die) (l : Nat) : Word := match d.chmap.find? fun x => x.1 == l with
  | some (_, b) => w64 (2 ^ 63 + b * 2 ^ 31)
  | none => w64 (l * 2 ^ 31)

/-- What a register of a die's block reads: WO and reserved fields and offsets without a register read zero (00 R4). -/
def State.readDieReg (s : State) (die r : Nat) : Word :=
  let d := s.die die
  if r < 0x80 then fbufReg ((d.fbuf[r / 16]?).getD none) (r % 16 == 8)
  else if 0x100 ≤ r && r < 0x220 then (d.free.getD ((r - 0x100) / 32) {}).reg (r % 32)
  else if 0x800 ≤ r && r < 0xC00 then d.chanReg ((r - 0x800) / 8 + 128 * (die % 2))
  else
    match r with
    | 0x080 => w64 (b2n d.drop * 2 ^ 63 + (d.fbuf.toList.filter Option.isSome).length)
    | 0x098 => w64 (b2n d.tinv.isSome * 2 ^ 63)
    | 0x308 => d.pnew
    | 0x310 => w64 (b2n d.pcmd.isSome * 2 ^ 63 + d.pstat)
    | 0x388 => w64 (d.ctgt * 2 ^ 31)
    | 0x390 => w64 (b2n d.cret.isSome * 2 ^ 63 + d.cstat)
    | 0x400 => w64 d.remapBase
    | _ => 0

/-- The step that a write of a block's register is. -/
def blockWrite (die r : Nat) (w : Word) : Event :=
  let plain : Event := { i := .registerWrite, op := { addr := blockOffset die + r, val := w } }
  let cmd (i : Instr) : Event := { i := i, op := { die := die, word := w } }
  let list (i : Nat) : Event := { i := .freeListRefill, op := { die := die, wid := i, word := w } }
  if r = 0x118 then list 0
  else if 0x120 ≤ r && r < 0x220 && r % 32 = 0x10 then list ((r - 0x100) / 32)
  else
    match r, bits w 63 62 with
    | 0x088, 1 => cmd .fcmdWake
    | 0x088, 2 => cmd .fcmdReplayAll
    | 0x088, 3 => cmd .fcmdFail
    | 0x090, 1 => cmd .tinvPage
    | 0x090, 2 => cmd .tinvFunction
    | 0x090, 3 => cmd .tinvAll
    | 0x300, _ => cmd (match bits w 63 61 with | 1 => .pageMigrate | 2 => .pageUnmap | _ => .pcmdInvalid)
    | 0x380, _ => cmd .channelRetire
    | _, _ => plain

/-- The die and register that an aligned doubleword of management data memory is, if it is one. [DEDUCED, log 93] -/
def blockAt (loc size : Nat) : Option (Nat × Nat) :=
  (List.range 2).findSome? fun d =>
    let a := mgmtBase d + blockOffset d
    if size = 8 && a ≤ loc && loc < a + 0x1000 && (loc - a) % 8 = 0 then some (d, loc - a) else none

/-- A management core's write of a register goes to the block behind its earlier ones. -/
def State.post (s : State) (e : Event) : State := { s with posted := s.posted ++ [e] }

/-- Writes of a die's registers by its management core are on their way. -/
def State.posting (s : State) (die : Nat) : Bool :=
  s.posted.any fun e => e.op.die == die && e.i != .registerWrite || e.i == .registerWrite && e.op.addr / 0x1000 == 2 + die

end Sys2Proof.Machine
end

