-- ==== Sys2Proof/Machine/Silt.lean ====
section
/-!
DEFINITION. The record of a context as plain data: slots, context order and positions, silt entries with their horizons, marks,
edits, dispatches, commits and appends (05 R126 to R156; 17 R389).
-/
namespace Sys2Proof.Machine

/-! ## Shape (05 R128 to R131) -/

/-- NB, NSB and L of 05 R129, and D of 06 R159. -/
def Ctx.nb (c : Ctx) : Nat := c.maxbm1 + 1
def Ctx.nsb (c : Ctx) : Nat := 16 * c.nb / 2 ^ c.siltlg
def Ctx.layers (c : Ctx) : Nat := c.nlm1 + 1
def Ctx.d (c : Ctx) : Nat := 2 ^ c.hdlg

/-- The silt block of a slot, and the KV block of a silt block (05 R130). -/
def Ctx.siltOf (c : Ctx) (slot : Nat) : Nat := slot / 2 ^ c.siltlg
def Ctx.blkOf (c : Ctx) (b : Nat) : Nat := b * 2 ^ c.siltlg / 16

/-- A checkpoint layer (05 R128). -/
def Ctx.checkpoint (c : Ctx) (l : Nat) : Bool := (l + 1) % c.cstride == 0 || l == c.nlm1

/-- The record of an occupied slot. -/
def Ctx.occ (c : Ctx) (slot : Nat) : Option SlotRec := c.slots.find? fun x => x.slot == slot

/-- Slots by ascending raw position. -/
def putPos (x : SlotRec) : List SlotRec → List SlotRec
  | [] => [x]
  | y :: t => if x.pos ≤ y.pos then x :: y :: t else y :: putPos x t

/-- Slots in context order: block by block, within a block in rank order, which in SLACK mode is that of their positions
(05 R131). -/
def Ctx.ordered (c : Ctx) (blocks : List BlockRec) (slots : List SlotRec) : List SlotRec :=
  blocks.flatMap fun y =>
    let l := slots.filter fun z => z.slot / 16 == y.blk
    if c.shift then l else l.foldr putPos []

/-- The occupied slots of a KV block in rank order. -/
def Ctx.inBlock (c : Ctx) (blk : Nat) : List SlotRec := c.slots.filter fun x => x.slot / 16 == blk

/-- The occupied slots of a silt block in rank order. -/
def Ctx.inSilt (c : Ctx) (b : Nat) : List SlotRec := c.slots.filter fun x => c.siltOf x.slot == b

/-- The place of a KV block in the context order. -/
def Ctx.orderOf (c : Ctx) (blk : Nat) : Option Nat := c.blocks.findIdx? fun x => x.blk == blk

/-- The record of a KV block. -/
def Ctx.block (c : Ctx) (blk : Nat) : BlockRec := (c.blocks.find? fun x => x.blk == blk).getD { blk := blk }

/-- Silt block `x` lies at or after `b` (05 R131). -/
def Ctx.atOrAfter (c : Ctx) (x b : Nat) : Bool :=
  c.blkOf x == c.blkOf b ||
  (match c.orderOf (c.blkOf x), c.orderOf (c.blkOf b) with
   | some i, some j => j < i
   | _, _ => false)

/-- Keys and values of the slot's token have been written at a layer; provisional writes count where `prov` says so. -/
def SlotRec.holds (x : SlotRec) (l : Nat) (prov : Bool) : Bool := x.wrote.contains (l, false) || (prov && x.wrote.contains (l, true))

/-- Notes that keys and values of a slot's token have been written at a layer, or that a provisional write is undone. -/
def Ctx.write (c : Ctx) (l slot : Nat) (prov : Bool) : Ctx :=
  { c with slots := c.slots.map fun x => if x.slot == slot && !x.holds l false
      then { x with wrote := (l, prov) :: x.wrote.filter fun y => y.1 != l } else x }
def Ctx.unwrite (c : Ctx) (l slot : Nat) : Ctx :=
  { c with slots := c.slots.map fun x => if x.slot == slot then { x with wrote := x.wrote.filter fun y => y != (l, true) } else x }

/-- A slot of a dispatch's list is still occupied by the token that stood in it at the dispatch (05 R147). -/
def Ctx.same (c : Ctx) (stamp slot : Nat) : Bool := match c.occ slot with | some x => x.born ≤ stamp | none => false

/-- The rank of a slot in its block. -/
def Ctx.rank (c : Ctx) (slot : Nat) : Nat := ((c.inBlock (slot / 16)).findIdx? fun x => x.slot == slot).getD 0

/-- The raw position of an occupied slot, with 8 fraction bits (05 R132, R133). -/
def Ctx.posOf (c : Ctx) (x : SlotRec) : Int :=
  if c.shift then 256 * ((c.block (x.slot / 16)).bpos + c.rank x.slot) else x.pos

/-- A position as a position word. -/
def posWord (p : Int) : BitVec 32 := BitVec.ofInt 32 p

/-! ## Silt entries (05 R139, R140) -/

/-- Entry (ℓ, b); one that nothing has changed is VALID with STAMP 0. -/
def Ctx.entry (c : Ctx) (l b : Nat) : Silt :=
  (c.silt.find? fun e => e.layer == l && e.blk == b).getD { layer := l, blk := b }

/-- Puts an entry. -/
def Ctx.setEntry (c : Ctx) (e : Silt) : Ctx :=
  { c with silt := if c.silt.any fun x => x.layer == e.layer && x.blk == e.blk
      then c.silt.map fun x => if x.layer == e.layer && x.blk == e.blk then e else x
      else c.silt ++ [e] }

/-- An entry is outstanding. -/
def Silt.out (e : Silt) : Bool := e.state != 0

/-- The outstanding entries upstream of (ℓ, b). -/
def Ctx.upstream (c : Ctx) (l b : Nat) : List Silt :=
  c.silt.filter fun e => e.out && e.layer < l && c.atOrAfter b e.blk

/-- The horizon (05 R140). -/
def Ctx.horizon (c : Ctx) (l b : Nat) : Nat :=
  if l = 0 then c.a else (c.upstream l b).foldl (fun a e => Nat.min a e.stamp) c.a

/-- The effective stamp. -/
def Ctx.effStamp (c : Ctx) (l b : Nat) : Nat :=
  let e := c.entry l b
  if e.out then e.stamp else Nat.max e.stamp (c.horizon l b)

/-- Some entry is outstanding for edit n. -/
def Ctx.outFor (c : Ctx) (n : Nat) : Bool := c.silt.any fun e => e.out && e.stamp < n

/-! ## Marks (05 R137, R141, R142; 17 R389) -/

/-- A mark: the entry, whether DIRTY rather than SUSPECT, and FORCE. -/
structure Mark where
  l : Nat
  b : Nat
  dirty : Bool
  force : Bool
deriving DecidableEq, Repr

/-- Applies a mark, with the effective stamp of the context `snap`. -/
def Ctx.mark (snap : Ctx) (c : Ctx) (m : Mark) : Ctx :=
  let e := c.entry m.l m.b
  let kind := if m.dirty then 2 else 1
  let e := { e with force := e.force || m.force }
  c.setEntry
    (match e.state with
     | 0 => { e with state := kind, stamp := snap.effStamp m.l m.b }
     | 1 => { e with state := kind }
     | 2 => e
     | _ => { e with remark := Nat.max e.remark kind })

/-- Applies marks in order. -/
def Ctx.marks (snap : Ctx) (c : Ctx) (l : List Mark) : Ctx := l.foldl snap.mark c

/-- The silt blocks with an occupied slot that lie at or after b, b left out; a provisional slot counts only once it is accepted. -/
def Ctx.laterSilt (c : Ctx) (b : Nat) : List Nat :=
  (((c.slots.filter fun x => !x.prov).map fun x => c.siltOf x.slot).eraseDups).filter fun x => x != b && c.atOrAfter x b

/-- The marks of an edit of b's slots (05 R137). -/
def Ctx.editMarks (c : Ctx) (b : Nat) (force : Bool) : List Mark :=
  { l := 0, b := b, dirty := true, force := force } ::
  (if c.shift && force then
    (c.laterSilt b).flatMap fun x => (List.range c.nlm1).filterMap fun k =>
      if (c.entry (k + 1) x).out then none else some { l := k + 1, b := x, dirty := false, force := false }
   else [])

/-! ## Edits (05 R132 to R138, R155) -/

/-- What an edit answers: its code, and slot with the changed context before its number, where it is accepted. -/
inductive Edit where
  | bad (code : Nat)
  | ok (slot : Nat) (c : Ctx) (marks : List Mark)

/-- The lowest free slot of a block. -/
def Ctx.freeSlot (c : Ctx) (blk : Nat) : Option Nat :=
  ((List.range 16).map (16 * blk + ·)).find? fun x => (c.occ x).isNone

/-- Puts a slot directly after another, or first. -/
def putAfter (l : List SlotRec) (lower : Option Nat) (x : SlotRec) : List SlotRec :=
  match lower with
  | none => x :: l
  | some p => l.flatMap fun y => if y.slot == p then [y, x] else [y]

/-- Puts a block directly after another, or first. -/
def linkAfter (l : List BlockRec) (lower : Option Nat) (x : BlockRec) : List BlockRec :=
  match lower with
  | none => x :: l
  | some p => l.flatMap fun y => if y.blk == p then [y, x] else [y]

/-- Moves BPOS of the blocks after one (05 R134). -/
def shiftAfter (l : List BlockRec) (blk : Nat) (by_ : Int) (n : Nat) : List BlockRec :=
  match l.findIdx? fun x => x.blk == blk with
  | none => l
  | some i => l.take (i + 1) ++ (l.drop (i + 1)).map fun x => { x with bpos := x.bpos + by_, shiftn := n }

/-- EDINS: `lower` is none for the front (05 R132, R134, R136, R137). That it finds no slot is told before that its position would
be exhausted: the spec orders the two nowhere. [DESIGN CHOICE, log 95] -/
def Ctx.ins (c : Ctx) (lower spare : Option Nat) (token : BitVec 32) : Edit :=
  let low := lower.bind c.occ
  if lower.isSome && low.isNone then .bad 9
  else
    let up := match low with
      | none => c.slots.head?
      | some x => ((c.slots.dropWhile fun y => y.slot != x.slot).drop 1).head?
    let found := ((low.bind fun x => c.freeSlot (x.slot / 16)).or (up.bind fun x => c.freeSlot (x.slot / 16)))
    let linked := match spare with
      | some b => if b < c.nb && (c.orderOf b).isNone then some (16 * b) else none
      | none => none
    match found.or linked with
    | none => .bad 8
    | some slot =>
      let pos : Int :=
        match low, up with
        | none, none => 0
        | none, some u => if c.shift then 0 else c.posOf u - 256
        | some x, none => c.posOf x + 256
        | some x, some u => if c.shift then c.posOf x + 256 else (c.posOf x + c.posOf u) / 2
      if (!c.shift && (low.map c.posOf) == some pos) || pos < -2 ^ 31 || 2 ^ 31 ≤ pos then .bad 6
      else
        let n := c.a + 1
        let blk := slot / 16
        let blocks := if found.isSome then c.blocks
          else linkAfter c.blocks (low.map fun x => x.slot / 16)
            { blk := blk, bpos := if c.shift then pos / 256 else 0, shiftn := if c.shift then n else 0 }
        let blocks := if c.shift then shiftAfter blocks blk 1 n else blocks
        let x : SlotRec := { slot := slot, token := token, pos := pos, born := n }
        let c' := { c with blocks := blocks, slots := c.ordered blocks (putAfter c.slots lower x) }
        .ok slot c' (c'.editMarks (c.siltOf slot) true)

/-- EDDEL. -/
def Ctx.del (c : Ctx) (slot : Nat) : Edit :=
  match c.occ slot with
  | none => .bad 9
  | some _ =>
    let c' := { c with slots := c.slots.filter fun x => x.slot != slot,
                       blocks := if c.shift then shiftAfter c.blocks (slot / 16) (-1) (c.a + 1) else c.blocks }
    .ok slot c' (c'.editMarks (c.siltOf slot) true)

/-- EDSUB. -/
def Ctx.subst (c : Ctx) (slot : Nat) (token : BitVec 32) : Edit :=
  match c.occ slot with
  | none => .bad 9
  | some _ =>
    .ok slot { c with slots := c.slots.map fun x => if x.slot == slot then { x with token := token } else x }
      (c.editMarks (c.siltOf slot) false)

/-- The position words of a context by index. -/
def renumber : Nat → List SlotRec → List SlotRec
  | _, [] => []
  | k, x :: t => { x with pos := 256 * (k : Int) } :: renumber (k + 1) t

/-- REPACK. -/
def Ctx.repack (c : Ctx) : Edit :=
  if c.shift then .bad 10
  else
    let new := renumber 0 c.slots
    let moved := ((c.slots.zip new).filter fun x => x.1.pos != x.2.pos).map fun x => c.siltOf x.1.slot
    .ok 0 { c with slots := new } (moved.eraseDups.map fun b => { l := 0, b := b, dirty := true, force := true })

/-- The arbiter takes an edit: its code, number and slot, and the context after it (05 R135). A context that is being released
answers ENDING whatever its edit number, an order that the spec leaves open. [DESIGN CHOICE, log 95] -/
def Ctx.edit (c : Ctx) (e : EditOp) : Nat × Nat × Nat × Ctx :=
  if c.releasing.isSome then (4, 0, 0, c)
  else if 2 ^ 32 - 1 ≤ c.a then (7, 0, 0, c)
  else
    match (match e with
      | .ins front slot spare token => c.ins (if front then none else some slot) spare token
      | .del slot => c.del slot
      | .sub slot token => c.subst slot token
      | .repack => c.repack) with
    | .bad code => (code, 0, 0, c)
    | .ok slot c' l =>
      -- marks are evaluated with A and every horizon as they stood before the edit
      let m := c.marks c' l
      (0, c.a + 1, slot, { m with a := c.a + 1 })

/-! ## Dispatch, commit and the end of a work item (05 R141 to R145) -/

/-- An entry that may be dispatched. -/
def Ctx.dispatchable (c : Ctx) (e : Silt) : Bool :=
  (e.state == 1 || e.state == 2) && (c.upstream e.layer e.blk).isEmpty

/-- Dispatch order: layer, place of the KV block, silt block. -/
def Ctx.dispKey (c : Ctx) (e : Silt) : Nat × Nat × Nat :=
  (e.layer, (c.orderOf (c.blkOf e.blk)).getD c.blocks.length, e.blk)

/-- Lexicographic order of keys. -/
def keyLt (a b : Nat × Nat × Nat) : Bool :=
  a.1 < b.1 || (a.1 == b.1 && (a.2.1 < b.2.1 || (a.2.1 == b.2.1 && a.2.2 < b.2.2)))

/-- The first of the entries in dispatch order. -/
def Ctx.firstOf (c : Ctx) (l : List Silt) : Option Silt :=
  l.foldl (fun a e => match a with
    | none => some e
    | some x => if keyLt (c.dispKey e) (c.dispKey x) then some e else a) none

/-- The entry that the scheduler takes next. -/
def Ctx.nextDispatch (c : Ctx) : Option Silt :=
  if c.releasing.isSome then none else c.firstOf (c.silt.filter c.dispatchable)

/-- Dispatches an entry for a thread, or for the host. -/
def Ctx.dispatch (c : Ctx) (e : Silt) (thr : Option Nat) : Ctx :=
  c.setEntry { e with
    state := 3, busy := true, pfirst := 0, force := false, remark := 0,
    disp := some { thr := thr, stamp := c.a, state := e.state, force := e.force,
                   slots := ((c.inSilt e.blk).filter fun x => !x.prov).map fun x => (x.slot, c.posOf x) } }

/-- The state after PENDING. -/
def Silt.settle (e : Silt) : Silt := { e with state := e.remark, busy := e.remark != 0, remark := 0, disp := none }

/-- A commit of (ℓ, b) with stamp `st` (05 R141, R142): it keeps, or writes and marks what lies downstream. -/
def Ctx.commit (c : Ctx) (l b st : Nat) (write force : Bool) : Ctx :=
  let e := c.entry l b
  let e := if write then { e with pfirst := e.first, first := st } else e
  let c := if write then ((e.disp.map (·.slots)).getD []).foldl (fun c x => if c.same st x.1 then c.write l x.1 false else c) c else c
  let c' := c.setEntry ({ e with stamp := st } : Silt).settle
  if write && l < c.nlm1 then
    c.marks c' ({ l := l + 1, b := b, dirty := true, force := force } ::
      (c.laterSilt b).map fun x => { l := l + 1, b := x, dirty := false, force := false })
  else c'

/-- A work item ends without a commit. -/
def Ctx.itemEnd (c : Ctx) (l b : Nat) : Ctx :=
  let e := c.entry l b
  match e.state, e.disp with
  | 3, some d =>
    c.setEntry { e with state := Nat.max d.state e.remark, remark := 0, force := e.force || d.force, disp := none }
  | _, _ => c

/-- The entry that a thread is the PENDING work item of. -/
def Ctx.itemOf (c : Ctx) (thr : Nat) (it : Item) : Option (Silt × Disp) :=
  let e := c.entry it.layer it.block
  match e.state, e.disp with
  | 3, some d => if it.ctx == c.h && d.thr == some thr then some (e, d) else none
  | _, _ => none

/-- A thread that is a work item is gone. -/
def State.itemGone (s : State) (thr : Nat) (it : Item) : State :=
  s.setCtx it.ctx fun c => match c.itemOf thr it with
    | some _ => c.itemEnd it.layer it.block
    | none => c

/-! ## Reader counts (06 R167, R168) -/

/-- Adds to the reader count of an area of a record. -/
def putReader (fn va area : Nat) (k : Int) : List (Nat × Nat × Nat × Nat) → List (Nat × Nat × Nat × Nat)
  | [] => if 0 < k then [(fn, va, area, k.toNat)] else []
  | x :: t =>
    if x.1 == fn && x.2.1 == va && x.2.2.1 == area then
      (if (x.2.2.2 : Int) + k ≤ 0 then t else (fn, va, area, ((x.2.2.2 : Int) + k).toNat) :: t)
    else x :: putReader fn va area k t

/-- Adds to the reader counts of a captured block. -/
def State.addReaders (s : State) (fn : Nat) (b : Captured) (k : Int) : State :=
  { s with readers := b.areas.foldl (fun l a => putReader fn b.va a k l) s.readers }

/-- The reader count of an area. -/
def State.readersOf (s : State) (fn va area : Nat) : Nat :=
  ((s.readers.find? fun x => x.1 == fn && x.2.1 == va && x.2.2.1 == area).map (·.2.2.2)).getD 0

/-- Sets bit `n` of the 16-bit number at a place. -/
def State.setBit16 (s : State) (a n : Nat) (b : Bool) : State :=
  let w := s.num a 2
  if w.testBit n == b then s else s.devNum a 2 (if b then w + 2 ^ n else w - 2 ^ n)

/-- Clears the WMASK bits of a silt block's slots in an area of the record whose header stands at a place (05 R150). -/
def State.clearMask (s : State) (hdr siltlg b area : Nat) : State :=
  (List.range (2 ^ siltlg)).foldl (fun s i => s.setBit16 (hdr + 8 + 2 * area) ((b * 2 ^ siltlg + i) % 16) false) s

/-- The staging area of an entry has been cleared for its dispatch. -/
def Ctx.cleared (c : Ctx) (l b : Nat) : Ctx :=
  let e := c.entry l b
  { c.setEntry { e with disp := e.disp.map fun d => { d with cleared := true } } with
    toClear := c.toClear.filter fun x => !(x.1 == l && x.2.1 == b) }

/-- Clears what dispatches are to clear in one context and nothing reads any more. -/
def State.clearCtx (s : State) (c : Ctx) : State :=
  c.toClear.foldl (fun s (l, b, va, area) =>
    if s.readersOf c.fn va area != 0 then s
    else match s.xlate c.die c.fn va true with
      | .ok p _ => (s.clearMask p.loc c.siltlg b area).setCtx c.h fun c => c.cleared l b
      | .fault _ => s) s

/-- Clears what dispatches are to clear and nothing reads any more (05 R150). [DEDUCED, log 34] -/
def State.clearDue (s : State) : State := s.ctxs.foldl State.clearCtx s

/-- An entry has been dispatched: where its record is known, its staging area's WMASK bits are to be cleared. -/
def State.dispatched (s : State) (h l b : Nat) : State :=
  match s.ctx? h with
  | none => s
  | some c =>
    match c.homes.find? fun x => x.1 == l && x.2.1 == c.blkOf b with
    | none => s
    | some (_, _, va) =>
      match s.xlate c.die c.fn va false with
      | .fault _ => s
      | .ok p _ =>
        let area := if (s.num p.loc 2).testBit (b % (16 / 2 ^ c.siltlg)) then 0 else 1
        (s.setCtx h fun c => { c with
          toClear := (c.toClear.filter fun x => !(x.1 == l && x.2.1 == b)) ++ [(l, b, va, area)] }).clearDue

/-- Releases the reader counts of a capture set. -/
def State.releaseSet (s : State) (c : CapSet) : State := (c.blocks.foldl (fun s b => s.addReaders c.fn b (-1)) s).clearDue

/-! ## Appends (05 R132, R133, R154; 07 R197) -/

/-- The occupied slots that stood before the appends of a loop's round. -/
def Ctx.beforeRound (c : Ctx) (loop : Option Nat) : List SlotRec :=
  match loop with
  | none => c.slots
  | some u => c.slots.filter fun x => (x.ix.map (·.1)) != some u

/-- The position of an append: after the last token, `k` further appends between. After an EDDEL of the last token it stands
one behind the token that is now last, as R132 has it; a position beyond 32 bits is not checked, and its position word wraps. [DESIGN CHOICE, log 95] -/
def Ctx.appendPos (c : Ctx) (loop : Option Nat) (k : Nat) : Int :=
  match (c.beforeRound loop).getLast? with
  | none => 256 * (k : Int)
  | some x => c.posOf x + 256 * (k + 1 : Nat)

/-- Puts an append of a round before the round's later ones. -/
def putRound (u i : Nat) (x : SlotRec) : List SlotRec → List SlotRec
  | [] => [x]
  | y :: t => match y.ix with
    | some (v, j) => if v = u && i < j then x :: y :: t else y :: putRound u i x t
    | none => y :: putRound u i x t

/-- Puts the block of an append of a round before the blocks that hold only its later ones. -/
def Ctx.putBlock (c : Ctx) (u i : Nat) (b : BlockRec) : List BlockRec :=
  let later (y : BlockRec) : Bool := c.inBlock y.blk != [] &&
    (c.inBlock y.blk).all fun x => match x.ix with | some (v, j) => v == u && i < j | none => false
  let keep := (c.blocks.reverse.dropWhile later).reverse
  keep ++ b :: c.blocks.drop keep.length

/-- An append occupies a slot (07 R197 where it belongs to a loop's round: its loop, index, and the slots of its block that
stand before it along the walk). -/
def Ctx.occupy (c : Ctx) (slot : Nat) (ix : Option (Nat × Nat)) (before : Nat) (prov : Bool) : Ctx :=
  let blk := slot / 16
  let pos := c.appendPos (ix.map (·.1)) ((ix.map (·.2)).getD 0)
  let x : SlotRec := { slot := slot, token := 0, pos := pos, prov := prov, ix := ix, app := true, born := c.a }
  let base : Int := if c.shift then pos / 256 - before else 0
  let blocks :=
    if (c.orderOf blk).isSome then
      (if c.shift && c.inBlock blk == [] then c.blocks.map fun y => if y.blk == blk then { y with bpos := base } else y
       else c.blocks)
    else
      match ix with
      | some (u, i) => c.putBlock u i { blk := blk, bpos := base, prov := prov }
      | none => c.blocks ++ [{ blk := blk, bpos := base, prov := prov }]
  let slots := match ix with | some (u, i) => putRound u i x c.slots | none => c.slots ++ [x]
  { c with blocks := blocks, slots := c.ordered blocks slots }

/-- A provisional append is undone (07 R199). -/
def Ctx.vacate (c : Ctx) (slot : Nat) : Ctx :=
  let c := { c with slots := c.slots.filter fun x => !(x.prov && x.slot == slot) }
  if c.inBlock (slot / 16) == [] then { c with blocks := c.blocks.filter fun y => !(y.blk == slot / 16 && y.prov) } else c

/-- A provisional append stands from now on (07 R199). [DEDUCED, log 35] -/
def Ctx.confirm (c : Ctx) (slot : Nat) : Ctx :=
  { c with slots := c.slots.map fun x => if x.slot == slot then { x with prov := false } else x,
           blocks := c.blocks.map fun y => if y.blk == slot / 16 then { y with prov := false } else y }

/-- An append makes the state of a new slot at ℓ (05 R154). One into an entry that is outstanding, or that already holds state
there, marks it DIRTY with FORCE; the spec does not name the entry that is neither VALID nor holds state. [DESIGN CHOICE, log 95] -/
def Ctx.appended (c : Ctx) (l slot : Nat) : Ctx :=
  let b := c.siltOf slot
  let e := c.entry l b
  let c := if !e.out && !((c.inSilt b).any fun y => y.holds l false) then
      let h := c.horizon l b
      c.setEntry { e with stamp := h, first := h, state := if (c.upstream l b).isEmpty then 0 else 1 }
    else c.mark c { l := l, b := b, dirty := true, force := true }
  c.write l slot false

end Sys2Proof.Machine
end

