-- ==== Sys2Proof/Machine/Segments.lean ====
section
/-!
DEFINITION. Digests of a thread, segment checks, the regions of AB and of device memory that are not free to every access,
and the elements of runnels.
-/
namespace Sys2Proof.Machine

/-! ## Digests (08 R211 to R213) -/

/-- The product of GF(2^128): `n` further bits of `b` from bit 128 − n on. -/
def gfLoop : Nat → Nat → Nat → Nat → Nat
  | 0, _, _, z => z
  | n + 1, a, b, z =>
    gfLoop n (if a.testBit 127 then (2 * a % 2 ^ 128) ^^^ 0x87 else 2 * a) (b / 2) (if b % 2 = 1 then z ^^^ a else z)

/-- The product of GF(2^128). -/
def gfmul (a b : Dig) : Dig := BitVec.ofNat 128 (gfLoop 128 a.toNat b.toNat 0)

/-- The constant of the fold. -/
def foldKey : Dig := 0xC3A51D7E92B460F85E19A7C23D8B4F61

/-- Folds a block into a digest. -/
def foldBlk (h blk : Dig) : Dig := gfmul (h ^^^ blk) foldKey

/-- A digest block (08 R212). -/
def digBlock (kind space mask addr val : Nat) : Dig :=
  BitVec.ofNat 128 (kind * 2 ^ 126 + space * 2 ^ 124 + mask * 2 ^ 116 + addr / 8 * 8 % 2 ^ 52 * 2 ^ 64 + val)

/-- The bytes of a word that a mask names, the others zero. -/
def maskedWord (mask : BitVec 8) (x : Word) : Nat :=
  (List.range 8).foldl (fun a i => if mask.toNat.testBit i then a + x.toNat / 2 ^ (8 * i) % 256 * 2 ^ (8 * i) else a) 0

/-- Folds blocks into the digest as it stands. -/
def Thread.foldNow (t : Thread) (l : List Dig) : Thread :=
  { t with dig := l.foldl foldBlk t.dig, folded := t.folded + l.length }

/-- Folds blocks at the thread's place in program order: behind the holes that are still open. -/
def Thread.foldAt (t : Thread) (l : List Dig) : Thread :=
  if l = [] then t
  else if t.folds = [] then t.foldNow l else { t with folds := t.folds ++ [.blocks l] }

/-- Folds blocks for the current thread; a lane folds for its loop's thread (07 R204). -/
def State.foldMe (s : State) (l : List Dig) : State := s.updT s.me.agent fun t => t.foldAt l

/-- Words in ascending destination address (08 R213). -/
def insertW (x : CmdW) : List CmdW → List CmdW
  | [] => [x]
  | y :: t => if x.space < y.space || (x.space == y.space && x.addr ≤ y.addr) then x :: y :: t else y :: insertW x t

/-- The KIND 1 blocks of a command's writes, which stand in folding order. -/
def cmdBlocks (l : List CmdW) : List Dig :=
  l.map fun w => digBlock 1 w.space w.mask.toNat w.addr (maskedWord w.mask w.x)

/-! ## Segment checks (02 R45) -/

/-- The segment violation with its reason and segment (02 R46). -/
def segTval (reason seg : Nat) : Word := w64 (reason + 256 * seg)

/-- The rights of SEGHI [63:59] that an access needs. -/
def needRD : Nat := 16
def needWR : Nat := 8
def needEX : Nat := 4
def needSY : Nat := 2
def needEN : Nat := 1


/-- The answer of a segment check: an address, or the reason of R46. -/
inductive Chk where
  | ok (a : SegA)
  | bad (reason : Nat)
deriving DecidableEq, Repr

/-- seg_check (02 R45), for an element of `size` bytes aligned to `align`. -/
def segCheck (d : Seg) (n : Nat) (e : Int) (size align need : Nat) : Chk :=
  if !bit d.lo 63 then .bad 1
  else if Nat.land (bits d.hi 63 59) need ≠ need then .bad 2
  else if e < 0 || (bits d.hi 51 0 : Int) < e + size - 1 then .bad 3
  else if e % align ≠ 0 then .bad 4
  else .ok ⟨bits d.lo 62 61, bits d.lo 60 54, bits d.lo 51 0 + e.toNat, n⟩

/-- A descriptor is well formed (02 R44). -/
def Seg.wf (d : Seg) (absz : Nat) : Bool :=
  let sp := bits d.lo 62 61
  let top := bits d.lo 51 0 + bits d.hi 51 0
  !bit d.lo 63 ||
  (sp != 3 && bits d.lo 5 0 == 0 && bits d.lo 53 52 == 0 && bits d.hi 58 52 == 0 && (sp == 2 || bits d.lo 60 54 == 0) &&
    (match sp with
     | 0 => top < 2 ^ 52
     | 1 => top < absz * 4096
     | _ => top ≤ 0x17FFFF))

/-! ## Regions (01 R31; 02 R69, R75; 05 R129; 20 R417) -/

/-- A flume's bytes. -/
def Flume.size (f : Flume) : Nat := f.nstg * f.stg

/-- The logical slot is a member. -/
def Flume.member (f : Flume) (slot : Nat) : Bool := f.pmask.toNat.testBit slot || f.cmask.toNat.testBit slot

/-- The flumes that `size` bytes at an AB offset touch. -/
def Vcore.flumesAt (v : Vcore) (off size : Nat) : List Flume :=
  v.flumes.filter fun f => f.base < off + size && off < f.base + f.size

/-- The logical slot that a thread acts for: a lane's is its loop thread's. -/
def State.slotOf (s : State) (t : Thread) : Nat :=
  match t.lane with | some l => ((s.thread? l.loopOf).getD t).slot | none => t.slot

/-- A device address that belongs to the device: a live context's store or an accepted task's save area. -/
def State.reserved (s : State) (fn va size : Nat) : Bool :=
  (s.ctxs.any fun c => c.fn == fn && c.store < va + size && va < c.store + c.stsz) ||
  (s.tasks.any fun k => k.fn == fn && k.st != .ended && k.save < va + size && va < k.save + 2 ^ 31)

/-- Converted ways of a slice (02 R75). -/
def State.waysOf (s : State) (slice : Nat) : Nat :=
  match s.ways.find? fun x => x.1 == slice with
  | some x => x.2
  | none => 0

/-- The reason of R46 that the place of an access gives, where there is one. -/
def State.regionBad (s : State) (t : Thread) (a : SegA) (size : Nat) (store runnel : Bool) : Option Nat :=
  match a.space with
  | 1 =>
    let fs := (s.vcore t.vu).flumesAt a.addr size
    if store && 1984 < a.addr + size && a.addr < 2048 then some 5
    else if fs.any fun f => !f.member (s.slotOf t) then some 6
    else if runnel && fs != [] then some 7
    else if fs.any fun f => a.addr < f.base || f.base + f.size < a.addr + size then some 9
    else none
  | 2 => if s.waysOf a.slice * 2 ^ 17 < a.addr + size then some 3 else none
  | _ => if t.fw.isNone && s.reserved (s.fnOf t) a.addr size then some 2 else none

/-- The check of one unit of access of the current thread. [DEDUCED, log 58] -/
def State.unit (s : State) (n : BitVec 3) (e : Int) (size align need : Nat) (store : Bool) : Chk :=
  match segCheck (s.me.seg n) n.toNat e size align need with
  | .bad r => .bad r
  | .ok a =>
    match s.regionBad s.me a size store false with
    | some r => .bad r
    | none => .ok a

/-! ## Runnels (02 R70 to R73) -/

/-- The bound runnel of a register. -/
def Thread.runnel (t : Thread) (r : Nat) : Option Runnel := t.runnels.find? fun x => x.v == r

/-- The runnel that a source register names: in a bundle's second half as it stood before the bundle (10 R252). -/
def Thread.runnelSrc (t : Thread) (r : Nat) : Option Runnel :=
  match t.shadow.bind (·.run) with
  | some l => l.find? fun x => x.v == r
  | none => t.runnel r

/-- Changes a runnel. -/
def Thread.setRunnel (t : Thread) (r : Nat) (f : Runnel → Runnel) : Thread :=
  { t with runnels := t.runnels.map fun x => if x.v == r then f x else x }

/-- The elements of a stream (02 R71). -/
def Runnel.len (x : Runnel) : Nat := x.counts.foldl (· * ·) 1

/-- The offset of element `n`, i0 innermost (02 R71). -/
def Runnel.offset (x : Runnel) (n : Nat) : Int :=
  let go := (x.counts.zip x.strides).foldl
    (fun (a : Int × Nat) c => (a.1 + (a.2 % Nat.max c.1 1 : Nat) * c.2, a.2 / Nat.max c.1 1)) ((x.base : Int), n)
  go.1

/-- The check of element `n`: size 256, alignment 64, no flume region (02 R69, R71). -/
def State.elemAt (s : State) (t : Thread) (x : Runnel) (n : Nat) : Chk :=
  let need := needEN + (if x.write then needWR else needRD)
  let c := if x.ab then
      let e := x.offset n
      if e < 0 || ((s.task t.task).absz * 4096 : Int) < e + 256 then Chk.bad 3
      else if e % 64 ≠ 0 then .bad 4 else .ok ⟨1, 0, e.toNat, 0⟩
    else segCheck (t.sg[x.seg % 8]) x.seg (x.offset n) 256 64 need
  match c with
  | .bad r => .bad r
  | .ok a =>
    match s.regionBad t a 256 x.write true with
    | some r => .bad r
    | none => .ok a

/-- The segment number of a runnel's violations. -/
def Runnel.segNo (x : Runnel) : Nat := if x.ab then 0 else x.seg

/-- The digest blocks of a pushed element (08 R213). -/
def pushBlocks (a : SegA) (x : VReg) : List Dig :=
  let addr := if a.space = 2 then a.slice * 2 ^ 21 + a.addr else a.addr
  (List.range 32).map fun i => digBlock 0 a.space 255 (addr + 8 * i) (x.toNat / 2 ^ (64 * i) % 2 ^ 64)

/-- Pushes an element onto a write runnel (02 R72, 13 R315): the bytes outside the mask hold zero. Answers the trap of a
push that the stream does not take. -/
def State.pushR (s : State) (pc : Word) (r : R5) (m : PReg) (x : VReg) : State × Option Trap :=
  match s.me.runnel r.toNat with
  | none => (s, none)
  | some y =>
    if !y.write || y.len ≤ y.taken then (s, some ⟨3, w64 r.toNat, none⟩)
    else
      match s.elemAt s.me y y.taken with
      | .bad c => (s, some ⟨4, segTval c y.segNo, none⟩)
      | .ok a =>
        let e := x &&& maskBits m
        ((s.upd fun t => t.setRunnel r.toNat fun y =>
            { y with taken := y.taken + 1, pushed := y.pushed ++ [⟨e, pc, t.seq, s.agentT.epoch, s.agentT.clock⟩] }).foldMe
          (pushBlocks a e), none)

end Sys2Proof.Machine
end

