-- ==== Sys2Proof/Machine/Ops.lean ====
section
/-!
DEFINITION. The named operations over threads: parking, retiring, windows, stopping a task, lanes that are held back, and
taking a trap and returning from it.
-/
namespace Sys2Proof.Machine

/-! ## Parking -/

/-- The causes for which an issuing instruction parks (10 R251). -/
def Park.atIssue : Park → Bool
  | .status _ | .stf _ _ _ | .message | .fence _ | .bar _ _ _ | .flume _ _ | .runnel _ _ | .element _ | .accesses => true
  | _ => false

/-- The thread parks at its instruction, which is issued again after the wake. -/
def State.parkMe (s : State) (p : Park) : State :=
  (s.upd fun t => { t with park := some p, ticket := s.order, again := t.again || p.atIssue }).stamp

/-- An instruction that parks. -/
def parkR {α : Type} (p : Park) (s : State) : R α := .stop (s.parkMe p)

/-- The arrival numbers of a thread's requests that were held and are released (21 R440, R444). -/
def Thread.released (t : Thread) : List Nat :=
  let no (w : PageWait) : Option Nat := if w.woken then w.held else none
  (match t.park with | some (.page w) => (no w).toList | _ => []) ++
  t.windows.filterMap fun x => match x.res with
    | .wait (.defer (.page w) _ _) => no w
    | _ => none

/-- Released requests of a core go on in the order of their arrival. -/
def State.heldFirst (s : State) (t : Thread) (w : PageWait) : Bool :=
  w.held.all fun n => (s.threads.filter fun x => x.core == t.core).all fun x => x.released.all (n ≤ ·)

/-! ## Retiring -/

/-- Windows after one more instruction of the thread (01 R12). -/
def tickWindows (l : List Window) : List Window := l.map fun w => { w with rem := w.rem - 1 }

/-- The instruction has issued: PC past it, one more instruction counted. -/
def Thread.retire (t : Thread) (len : Nat) : Thread :=
  { t with pc := t.pc + w64 len, icount := t.icount + 1, windows := tickWindows t.windows, seq := t.seq + 1,
           failed := [], shadow := none, again := false, halting := false }

/-- Retires the current thread's instruction. -/
def State.retire (s : State) (len : Nat) : State := s.upd fun t => t.retire len

/-- Opens a window over the next `look` instructions, for the instruction that has just retired. -/
def Thread.openWin (t : Thread) (look : Nat) (pc : Word) (res : WRes) (sync acq : Bool) : Thread :=
  { t with windows := t.windows ++ [{ wid := t.seq, rem := look, pc := pc, res := res, sync := sync, acq := acq }] }

/-! ## Lanes of a forecast loop (07 R191 to R202) -/

/-- A lane that is not accepted. -/
def Thread.spec (t : Thread) : Bool := match t.lane with | some l => !l.accepted | none => false

/-- A lane in its guess routine. -/
def Thread.guessing (t : Thread) : Bool := match t.lane with | some l => l.phase == .guess && !l.accepted | none => false

/-- The index of a thread in its loop; lane 0 is the loop's thread itself. -/
def Thread.laneIndex (t : Thread) : Nat := match t.lane with | some l => l.index | none => 0

/-- Undoes what a speculative lane's MSTQ did (07 R199; 18 R392): engine writes bring the old words of the record
back and leave FE bits as they stand, the WMASK bits and WPOS
words are as before, and the slots that it occupied are free. -/
def State.dropProv (s : State) (p : Prov) : State :=
  let s := p.fin.foldl (fun s (slot, hdr, area, old) =>
    (s.setBit16 (hdr + 8 + 2 * area) (slot % 16) false).devNum (hdr + 16 + 64 * area + 4 * (slot % 16)) 4 old) s
  let s := p.saved.foldl (fun s x => ((s.putWord x.1 0xFF x.2.1).setPoison x.1.loc x.2.2).plainWrite x.1.loc) s
  s.setCtx p.ctx fun c => p.slots.foldl Ctx.vacate (p.fin.foldl (fun c x => c.unwrite p.layer x.1) c)

/-- A lane as it stands before its round: it has done nothing and waits. -/
def Thread.resetLane (t : Thread) : Thread :=
  match t.lane with
  | none => t
  | some l =>
    { t with
      lane := some { l with phase := .idle, accepted := false, guess := none, buf := [], held := [], provs := [], apps := 0 },
      park := some .lane, windows := [], pend := [], shadow := none, verdicts := [], late := [], runnels := [],
      caps := Vector.replicate 2 none, lastbeta := none, touched := 0, fenced := [], icount := 0 }

/-- Rejects one lane: everything that it did is discarded (07 R192, R195, R199, R200). -/
def State.rejectLane (s : State) (u : Nat) : State :=
  match (s.thread? u).bind (·.lane) with
  | none => s
  | some l =>
    let s := l.provs.reverse.foldl State.dropProv s
    let s := ((s.thread? u).map fun t => t.caps.toList).getD [] |>.foldl (fun s x => match x with
      | some c => s.releaseSet c
      | none => s) s
    { s.updT u Thread.resetLane with matq := s.matq.filter fun m => m.thr != u }

/-! ## Stopping a task

A task that a double trap, a teardown or an uncorrectable error ends stops at once (11 R273, 20 R411); its completion
follows with TASK_END. -/

/-- What is held at an ingress for steps of a task is discarded (19 R394). -/
def Die.without (d : Die) (tid : Nat) : Die := { d with ingress := d.ingress.filter fun x => x.task != tid }

/-- Drops every thread, message, matrix entry and pin of a task, and marks how it ended. -/
def State.stopTask (s : State) (tid status detail : Nat) : State :=
  let s := ((s.threads.filter fun t => t.task == tid && t.spec).map (·.uid)).reverse.foldl State.rejectLane s
  let gone := s.threads.filter fun t => t.task == tid
  let us := gone.map (·.uid)
  let s := (s.threads.filter fun t => t.task == tid).foldl (fun s t =>
    let s := t.caps.toList.foldl (fun s x => match x with | some c => s.releaseSet c | none => s) s
    match t.item with | some it => s.itemGone t.uid it | none => s) s
  let s := { s with
    threads := s.threads.filter fun t => t.task != tid,
    msgs := s.msgs.filter fun m => !us.contains m.1,
    matq := s.matq.filter fun m => m.vu / 1024 != tid,
    fills := s.fills.filter fun m => m.vu / 1024 != tid,
    pins := s.pins.filter fun p => p.task != tid,
    dies := s.dies.map (Die.without · tid),
    cmds := s.cmds.map fun (c : Cmd) => if c.task == tid && c.st != CmdSt.finished then
      { c with st := .finished, code := (match c.kind with | .cstep | .cchain => 7 | _ => c.code) } else c }
  s.setTask tid fun k => { k with
    status := status, detail := detail, saved := [], uids := us ++ k.uids,
    endClk := gone.foldl (fun c t => (c.join t.clock).put { thr := t.uid, epoch := t.epoch }) k.endClk }

/-! ## Rejecting and holding back -/

/-- Rejects the lanes of a loop above an index. -/
def State.rejectAbove (s : State) (loop idx : Nat) : State :=
  (((s.threads.filter fun t => match t.lane with
    | some l => l.loopOf == loop && idx < l.index && !l.accepted
    | none => false).map (·.uid)).reverse).foldl State.rejectLane s

/-- A guess routine ends without a guess (07 R192). -/
def State.endGuess (s : State) : State :=
  (s.upd fun t => { t with lane := t.lane.map fun l => { l with phase := .idle, guess := none }, windows := [],
                           shadow := none }).parkMe .lane

/-- What a speculative lane does at a trap or at an instruction that waits for acceptance (07 R192, R201). [DEDUCED, log 51] -/
def State.hold (s : State) : State := if s.me.guessing then s.endGuess else s.parkMe .lane

/-! ## Traps (11 R271 to R274) -/

/-- A double trap ends the task (11 R273). -/
def State.doubleTrap (s : State) (code : Nat) : State :=
  let t := s.me
  (s.stopTask t.task 6 0).setTask t.task fun k => { k with trap2 := code, trapGtid := ((s.thread? t.agent).getD t).gtid }

/-- The thread has sent slice `x` an access of an epoch that FENCE waits for (03 R87). -/
def Thread.touch (t : Thread) (epoch x : Nat) : Thread :=
  if t.touched.toNat.testBit x then t
  else { t with touched := t.touched ||| (1#128 <<< x),
                fenced := (x, epoch - 1) :: t.fenced.filter fun y => y.1 != x }

/-- Only live registers are shipped; others arrive zero (02 R51), and the slice left joins the touched mask (03 R87), with no
write there outside what the thread has released (03 R91, R92). -/
def Thread.ship (t : Thread) (core pslot : Nat) : Thread :=
  { t.touch t.epoch (coreSlice t.core) with
    v := Vector.ofFn fun i => if t.vlive.toNat.testBit i.val then t.v[i] else 0,
    p := Vector.ofFn fun i => if i.val != 0 && t.vlive.toNat.testBit (31 + i.val) then t.p[i] else 0,
    core := core, pslot := pslot }

/-- Back to the slot that the host core keeps (02 R53). -/
def State.goHome (s : State) : State :=
  let t := s.me
  if s.away t then s.upd fun t => t.ship (s.hostCore t) t.home else s

/-- Delivers a trap to the current thread, all of whose windows are closed (11 R271). -/
def State.deliver (s : State) (late : Bool) (tpc topc : Word) (x : Trap) : State :=
  if s.me.inh then s.doubleTrap x.code
  else
    ((s.rejectAbove s.me.agent s.me.laneIndex).goHome).upd fun t =>
      { t with
        tcause := w64 (b2n late * 2 ^ 15 + x.code), tpc := tpc, tpcd := tpc, topc := topc, tval := x.tval, inh := true,
        mmxsrc := x.mmx.getD t.mmxsrc, pc := t.tvec, shadow := none, park := none, failed := [], halting := false }

/-- The register's engine command has not completed (01 R19). -/
def State.pending (s : State) (t : Thread) (r : R5) : Option Nat :=
  match t.pend.find? fun x => x.1 == r with
  | some (_, c) => match s.cmd? c with
    | some k => if k.st == .finished then none else some c
    | none => none
  | none => none

/-- A general register loses its engine command when something else is written to it. -/
def Thread.unpend (t : Thread) (r : R5) : Thread := { t with pend := t.pend.filter fun x => x.1 != r }

/-- Commits one register write of a window; a pending general register refuses it (01 R20). -/
def State.commitW (s : State) (pc : Word) (w : RegW) : State × Option Trap :=
  match w with
  | .g d x =>
    if (s.pending s.me d).isSome && d != 0 then (s, some ⟨3, w64 d.toNat, none⟩)
    else (s.upd fun t => (t.unpend d).wg d x, none)
  | .v d m x =>
    match s.me.runnel d.toNat with
    | some _ => s.pushR pc d m x
    | none => (s.upd fun t => t.wv d (blend m x (t.v[d.toNat]'(d.isLt))), none)
  | .status d c =>
    if d = 0 then (s, none)
    else if (s.pending s.me d).isSome then (s, some ⟨3, w64 d.toNat, none⟩)
    else
      let done := match s.cmd? c with | some k => if k.st == .finished then some k.statusWord else none | none => none
      (s.upd fun t =>
        let t := t.unpend d
        let t := match done with | some x => t.wg d x | none => t
        { t with pend := (d, c) :: t.pend }, none)

/-- Commits the writes of a result, all or none. -/
def State.commitAll (s : State) (pc : Word) : List RegW → State × Option Trap
  | [] => (s, none)
  | w :: t =>
    match s.commitW pc w with
    | (s', none) => s'.commitAll pc t
    | (_, some x) => (s, some x)

/-- Closes one window: commits its result, or answers its late fault (01 R13, R17). -/
def State.closeWin (s : State) (w : Window) : State × Option Late :=
  let s := s.upd fun t => { t with windows := t.windows.filter fun x => x.wid != w.wid }
  match w.res with
  | .regs l =>
    match s.commitAll w.pc l with
    | (s', none) => (s', none)
    | (_, some x) => (s, some ⟨w.wid, w.pc, x⟩)
  | .fault x => (s, some ⟨w.wid, w.pc, x⟩)
  | .wait _ => (s, none)

/-- Closes windows in issue order and gathers their late faults. -/
def State.closeWins (s : State) : List Window → State × List Late
  | [] => (s, [])
  | w :: t =>
    let (s, f) := s.closeWin w
    let (s, fs) := s.closeWins t
    (s, f.toList ++ fs)

/-- The result has not arrived. -/
def Window.waiting (w : Window) : Bool := match w.res with | .wait _ => true | _ => false

/-- A write runnel that a due window pushes to has no room. -/
def Thread.pushFull (t : Thread) (w : Window) : Option Nat :=
  match w.res with
  | .regs l =>
    (l.filterMap fun x => match x with
      | .v d _ _ => match t.runnel d.toNat with
        | some y => if y.write && 8 ≤ y.pushed.length then some d.toNat else none
        | none => none
      | _ => none).head?
  | _ => none

/-- Orders late faults by issue. -/
def insertLate (x : Late) : List Late → List Late
  | [] => [x]
  | y :: t => if x.seq < y.seq then x :: y :: t else y :: insertLate x t

/-- A trap raised at an instruction's own issue (01 R16, 11 R271): every window closes first; a late fault that this
closing brings is delivered in its place. -/
def State.raise (s : State) (x : Trap) : State :=
  let ws := s.me.windows
  if s.me.spec then s.hold
  else if ws.any Window.waiting then s.parkMe .windows
  else
    let pc := s.me.pc
    let (s, fs) := s.closeWins ws
    match fs with
    | [] => s.deliver false pc pc x
    | f :: rest =>
      (s.upd fun t => { t with late := rest.foldl (fun l y => insertLate y l) t.late }).deliver true pc f.pc f.trap

/-- An instruction that raises a trap. -/
def raiseR {α : Type} (code : Nat) (tval : Word) (s : State) : R α := .stop (s.raise ⟨code, tval, none⟩)

/-- The illegal-operand fault. -/
def illegalR {α : Type} (tval : Word) (s : State) : R α := raiseR 3 tval s

/-- The segment violation. -/
def segvR {α : Type} (reason seg : Nat) (s : State) : R α := raiseR 4 (segTval reason seg) s

/-- The late faults of an instruction boundary: verdicts that returned and windows that close (01 R13, R17; 03 R83). A
thread with a late fault to take closes every window and takes the earliest; the others stay with it until the handler
returns. A speculative lane waits for acceptance before any of them (07 R201). -/
def State.boundary (s : State) : R Unit :=
  let due := s.me.windows.filter fun w => w.rem == 0
  if s.me.spec && (s.me.verdicts.any (·.returned) || due.any fun w => match w.res with | .fault _ => true | _ => false) then
    .stop s.hold
  else if due.any Window.waiting then parkR .windows s
  else
    match (due.filterMap s.me.pushFull).head? with
    | some r => parkR (.runnel r false) s
    | none =>
      let vs := (s.me.verdicts.filter (·.returned)).map (·.late)
      let s := s.upd fun t => { t with verdicts := t.verdicts.filter fun v => !v.returned }
      let (s, fs) := s.closeWins due
      let new := vs ++ fs
      if new = [] && (s.me.late = [] || s.me.inh) then .ok () s
      else if s.me.inh then .stop (s.doubleTrap ((new.head?.map fun x => x.trap.code).getD 0))
      else
        let s := s.upd fun t => { t with late := new.foldl (fun l y => insertLate y l) t.late }
        let ws := s.me.windows
        if ws.any Window.waiting then parkR .windows s
        else
          let (s, fs) := s.closeWins ws
          let s := s.upd fun t => { t with late := fs.foldl (fun l y => insertLate y l) t.late }
          match s.me.late with
          | [] => .ok () s
          | f :: rest => .stop ((s.upd fun t => { t with late := rest }).deliver true s.me.pc f.pc f.trap)

/-- The return from a trap handler (11 R270); a thermal displacement that waited for it moves the thread (11 R272). -/
def State.eret (s : State) : State :=
  let s := s.upd fun t => { (t.retire 0) with inh := false, pc := t.tpc }
  match s.me.displace with
  | none => s
  | some c => (s.upd fun t => { t with displace := none }).parkMe (.moving c false)

end Sys2Proof.Machine
end

