-- ==== Sys2Proof/Machine/Operands.lean ====
section
/-!
DEFINITION. What instructions read and write: source registers and their engine commands, the b() operand with the
constant window, destinations, lengths, digests and clocks of a thread, and the checks that stand before an access.
-/
namespace Sys2Proof.Machine

/-! ## Clocks of a thread (03 R81, R87, R91) -/

/-- The clock that a thread releases for the lane `me`: what it knows, and its own accesses, without the writes to touched
slices that no echo has answered when `exc` holds. -/
def Thread.relClock (t me : Thread) (exc : Bool) : Clock :=
  t.clock.put { thr := t.uid, epoch := t.epoch,
                exc := if exc then me.fenced.filter fun x => me.touched.toNat.testBit x.1 else [] }

/-- Joins a clock into the current thread's. -/
def State.joinClk (s : State) (c : Clock) : State := s.updT s.me.agent fun t => { t with clock := t.clock.join c }

/-- A new region of the current thread begins: later accesses have a later epoch (03 R80). -/
def State.newEpoch (s : State) : State := s.updT s.me.agent fun t => { t with epoch := t.epoch + 1 }

/-- A synchronising operation takes effect: snapshot loads after it return nothing older (02 R55). -/
def State.synced (s : State) : State := s.updT s.me.agent fun t => { t with since := s.tick, seen := [] }

/-- The clock that the current thread releases, and its next region. -/
def State.release (s : State) (exc : Bool) : Clock × State := (s.agentT.relClock s.me exc, s.newEpoch)

/-- The clock that a synchronising operation releases: the one of its issue where it is performed later. -/
def State.relFor (s : State) : Clock × State :=
  match s.me.shadow.bind (·.clk) with
  | some c => (c, s)
  | none => s.release false

/-- The current thread has sent a slice such an access. -/
def State.touchMe (s : State) (slice : Option Nat) : State :=
  match slice with
  | some x => let e := s.agentT.epoch; s.upd fun t => t.touch e x
  | none => s

/-! ## Waiting of accesses and synchronising operations (12 R279, 03 R89) -/

/-- A speculative lane waits for acceptance before an instruction that serialises it; a guess routine ends (07 R192, R201). -/
def serialise (s : State) : R Unit := if s.me.spec then .stop s.hold else .ok () s

/-- An access waits for the windows of earlier acquiring operations. -/
def accessGate (s : State) : R Unit :=
  if s.me.windows.any fun w => w.acq && w.waiting then parkR (.syncWindow false) s else .ok () s

/-- A synchronising operation waits for the windows of earlier ones. -/
def syncGate (s : State) : R Unit :=
  if s.me.windows.any fun w => (w.sync || w.acq) && w.waiting then parkR (.syncWindow true) s else .ok () s

/-- Waits for the thread's stores: its pushed elements are stored, and every verdict is there (03 R83). -/
def verdictGate (s : State) : R Unit :=
  match s.me.runnels.find? fun y => y.pushed != [] with
  | some y => parkR (.runnel y.v true) s
  | none => if s.me.verdicts != [] then parkR .verdicts s else .ok () s

/-! ## Sources (01 R20) -/

/-- The engine command that keeps a source register pending. -/
def State.pendSrc (s : State) (t : Thread) (r : R5) : Option Nat :=
  match t.shadow with
  | some h => (h.pend.find? fun x => x.1 == r).bind fun x => (s.cmd? x.2).bind fun k =>
      if k.st == .finished then none else some x.2
  | none => s.pending t r

/-- A command's completion point (08 R213): its writes fold, and it is over for the reader (03 R81). -/
def State.absorbCmd (s : State) (c : Nat) : State :=
  match s.cmd? c with
  | none => s
  | some k =>
    let s := if k.folded then s else (s.foldMe (cmdBlocks k.writes)).setCmd c fun k => { k with folded := true }
    s.joinClk k.clock

/-- Reads a register whose engine command has completed. -/
def State.absorb (s : State) (r : R5) : State :=
  match s.me.pend.find? fun x => x.1 == r with
  | none => s
  | some (_, c) => (s.absorbCmd c).upd fun t => t.unpend r

/-- Reads registers whose engine commands have completed: their writes fold in the order of the commands' issue (08 R213). -/
def State.absorbs (s : State) (rs : List R5) : State :=
  let s := (s.cmds.filter fun c => rs.any fun r => s.me.pend.any fun x => x.1 == r && x.2 == c.id).foldl
    (fun s c => s.absorbCmd c.id) s
  rs.foldl State.absorb s

/-- The status register that a held instruction names (07 R200). -/
def heldDest : Instr → Option R5
  | .cpy x | .cpyr x | .cpyrOrd x | .rqcpy x | .cstep x | .cchain x => some x.d
  | .chain x => some x.x.d
  | .dgst d _ _ => some d
  | _ => none

/-- The register waits for a command that a speculative lane holds. -/
def Thread.holds (t : Thread) (r : R5) : Bool :=
  match t.lane with
  | some l => r != 0 && l.held.any fun h => heldDest h.i == some r
  | none => false

/-- Waits for the engine commands of source registers (01 R20). The read of a pending one is a synchronising operation, which
waits for the earlier ones and for the verdicts on the thread's stores (03 R79, R83) and takes effect at the thread's wake. -/
def needRegs (rs : List R5) (s : State) : R Unit :=
  if s.me.spec && rs.any s.me.holds then .stop s.hold else
  match rs.findSome? fun r => if r = 0 then none else s.pendSrc s.me r with
  | some c => (syncGate s).bind fun _ s => (verdictGate s).bind fun _ s => parkR (.status c) s
  | none => .ok () (s.absorbs rs)

/-- The read of a pending status register takes effect: the command's writes are over for the thread, whose next region begins. -/
def State.statusRead (s : State) (c : Nat) : State := ((s.absorbCmd c).newEpoch).synced

/-- The register that a b() operand names. -/
def bRegs : BOp → List R5
  | .reg r => [r]
  | _ => []

/-- The instruction's length in format S or L (10 R235). -/
def bLenS : BOp → Nat
  | .lit _ => 12
  | _ => 4

/-- Its length in format X. -/
def bLenX : BOp → Nat
  | .lit _ => 20
  | _ => 12

/-- The slices of a scope for a thread (03 R86). -/
def State.scopeMask (s : State) (t : Thread) (scope : Nat) : BitVec 128 :=
  let c := s.hostCore t
  match scope with
  | 0 | 1 => 0
  | 2 => 1#128 <<< coreSlice c
  | 3 => (BitVec.allOnes 128 >>> 64) <<< (64 * (c / 1024 % 2))
  | _ => BitVec.allOnes 128

/-- The instruction makes an access of R78 when it is performed. -/
def isAccess : Instr → Bool
  | .ld _ | .ldf _ | .vld _ | .vldStrided _ | .vldx _ | .vldq _ | .amoadd _ | .amoand _ | .amoor _ | .amoxor _ | .amomin _
  | .amomax _ | .amominu _ | .amomaxu _ | .amoswp _ | .amocas _ | .amofadd _ => true
  | _ => false

/-- The window's instruction has issued and has still to make its access. -/
def Window.unmade (w : Window) : Bool := match w.res with | .wait (.defer _ i _) => isAccess i | _ => false

/-- Waits until every access that has issued has been performed (03 R88). -/
def accessesGate (s : State) : R Unit := if s.me.windows.any Window.unmade then parkR .accesses s else .ok () s

/-- The implicit FENCE of an instruction that parks for it (03 R88, R89). -/
def fenceGate (scope : Nat) (s : State) : R Unit :=
  (verdictGate s).bind fun _ s =>
  (accessesGate s).bind fun _ s =>
  let need := s.me.touched &&& s.scopeMask s.me scope
  if need = 0 then .ok () s else parkR (.fence need) s

/-- The thread first goes back to its host core (02 R53). -/
def homeGate (s : State) : R Unit :=
  if s.away s.me then parkR (.moving (s.hostCore s.me) true) s else .ok () s

/-! ## Conflicts (03 R82 to R84) -/

/-- Trap value and MMXSRC of a conflict (03 R84). -/
def mmTrap (tval : Word) (write : Bool) (r : Acc) : Trap :=
  ⟨5, tval, some (BitVec.ofNat 16 (b2n write * 2 ^ 15 + b2n r.write * 2 ^ 14 + b2n r.peer * 2 ^ 13 + r.gtid % 2 ^ 13))⟩

/-- The record that an access of the current thread leaves, in the region of its issue. -/
def State.accOf (s : State) (write sync : Bool) : Acc :=
  { thr := s.me.agent, gtid := s.agentT.gtid, epoch := (s.me.shadow.bind (·.epoch)).getD s.agentT.epoch, write := write,
    sync := sync }

/-- The conflict of an access of the current thread to the word at a place (03 R82). [DEDUCED, log 12] -/
def State.clash (s : State) (a : Nat) (slice : Option Nat) (write sync : Bool) : Option Acc :=
  s.conflict s.me.agent s.agentT.clock a slice write sync

/-- The conflict of a synchronising access that also brings the edges of a clock, if it is performed (03 R81, R82). -/
def State.clashAfter (s : State) (c : Clock) (a : Nat) (slice : Option Nat) (write sync : Bool) : Option Acc :=
  s.conflict s.me.agent (s.agentT.clock.join c) a slice write sync

/-! ## Destinations -/

/-- The illegal-operand fault of a pending destination (01 R20). -/
def destOk (d : R5) (s : State) : R Unit :=
  if d != 0 && (s.pending s.me d).isSome then illegalR (w64 d.toNat) s else .ok () s

/-- Writes a general register at issue. -/
def State.setG (s : State) (d : R5) (x : Word) : State :=
  if d = 0 then s else s.upd fun t => (t.unpend d).wg d x

/-- Writes a general register that may be pending. -/
def wrG (d : R5) (x : Word) (s : State) : R Unit := (destOk d s).bind fun _ s => .ok () (s.setG d x)

/-- The instruction is over: the thread goes on behind it. -/
def finish (len : Nat) (s : State) : R Unit := .ok () (s.retire len)

/-! ## Windows -/

/-- What performing a long-latency instruction answers: its result, or what it waits for. -/
inductive Perf where
  | now (s : State) (res : WRes)
  | later (s : State) (w : Why)

/-- Issues a long-latency instruction that is performed at its issue where it can be: its window opens (01 R12). -/
def openPerf (i : Instr) (look : BitVec 4) (len : Nat) (sync acq : Bool) (p : Perf) : R Unit :=
  let go (s : State) (res : WRes) : R Unit :=
    let pc := s.me.pc
    .ok () ((s.retire len).upd fun t => t.openWin look.toNat pc res sync acq)
  match p with
  | .now s res => go s res
  | .later s w =>
    let e := s.agentT.epoch
    if sync then
      let (c, s) := s.release false
      go s (.wait (.defer w i { s.me.snap with clk := some c, epoch := some e, run := none }))
    else go s (.wait (.defer w i { s.me.snap with epoch := some e, run := none }))

/-- A window whose result is known at issue. -/
def openRegs (look : BitVec 4) (len : Nat) (l : List RegW) (s : State) : R Unit :=
  let pc := s.me.pc
  .ok () ((s.retire len).upd fun t => t.openWin look.toNat pc (.regs l) false false)

/-- A window that closes with a fault (01 R17). -/
def openFault (look : BitVec 4) (len : Nat) (x : Trap) (s : State) : R Unit :=
  let pc := s.me.pc
  .ok () ((s.retire len).upd fun t => t.openWin look.toNat pc (.fault x) false false)

end Sys2Proof.Machine
end

