-- ==== Sys2Proof/Machine/Access.lean ====
section
/-!
DEFINITION. Accesses of threads and engines: segment checks, flumes, translation, migration, loads and stores with race
detection, FE bits, poison, digests, and the side buffers of forecast lanes.
-/
namespace Sys2Proof.Machine

/-! ## Segment checks of instructions -/

/-- The segment check of an instruction (12 R280). -/
def segR (n : BitVec 3) (e : Int) (size align need : Nat) (store : Bool) (s : State) : R SegA :=
  match s.unit n e size align need store with
  | .ok a => .ok a s
  | .bad r => segvR r n.toNat s

/-- The segment checks of many units, in order: the first that fails is raised. -/
def segsR (n : BitVec 3) (size align need : Nat) (store : Bool) : List Int → State → R (List SegA)
  | [], s => .ok [] s
  | e :: t, s => (segR n e size align need store s).bind fun a s =>
      (segsR n size align need store t s).bind fun l s => .ok (a :: l) s

/-! ## Flume stages (02 R65 to R67) -/

/-- Completed SBARs of all of a mask's slots. -/
def Flume.least (f : Flume) (mask : BitVec 8) : Nat :=
  ((List.range 8).filter fun i => mask.toNat.testBit i).foldl (fun a i => Nat.min a (f.count[i]?.getD 0)) (2 ^ 64)

/-- PUB and REL. -/
def Flume.pubN (f : Flume) : Nat := f.least f.pmask
def Flume.relN (f : Flume) : Nat := f.least f.cmask

/-- An AB address under a thread's stage pointers: the flume, the absolute stage and the physical offset. -/
def Vcore.stageAt (v : Vcore) (spt : Vector Nat 8) (off size : Nat) : Option (Flume × Nat × Nat) :=
  (v.flumesAt off size).head?.map fun f =>
    let j := (off - f.base) / f.stg
    let st := spt[f.f]?.getD 0 + j
    (f, st, f.base + st % f.nstg * f.stg + (off - f.base) % f.stg)

/-- The stage is open to the slot (02 R66). -/
def Flume.opened (f : Flume) (slot st : Nat) : Bool :=
  if f.pmask.toNat.testBit slot then st < f.relN + f.dist else st < f.pubN

/-- The clock that an access to a stage joins (02 R67). -/
def Flume.joinClk (f : Flume) (slot st : Nat) : Clock :=
  if f.pmask.toNat.testBit slot then (if st < f.nstg then [] else f.rel.getD (st - f.nstg) []) else f.pub.getD st []

/-- Resolves an AB unit through its flume; the thread parks until the stage is open. -/
def stageR (a : SegA) (size : Nat) (s : State) : R SegA :=
  if a.space ≠ 1 then .ok a s
  else
    (homeGate s).bind fun _ s =>
    match (s.vcore s.me.vu).stageAt s.agentT.spt a.addr size with
    | none => .ok a s
    | some (f, st, off) =>
      (serialise s).bind fun _ s =>
      if f.opened (s.slotOf s.me) st then .ok { a with addr := off } (s.joinClk (f.joinClk (s.slotOf s.me) st))
      else parkR (.flume f.f (some st)) s

/-- Resolves many units. -/
def stagesR (size : Nat) : List SegA → State → R (List SegA)
  | [], s => .ok [] s
  | a :: t, s => (stageR a size s).bind fun a s => (stagesR size t s).bind fun l s => .ok (a :: l) s

/-! ## Translation -/

/-- A translated address, or why there is none: a page fault, a failed page (21 R433), a leaf with a conversion that the
access may not use (21 R446). -/
inductive Tr where
  | ok (p : Place)
  | page (w : PageWait) (s : State)
  | failed
  | lc

/-- Translates a resolved address of the current thread; `req` is the requester's kind in the fault buffer (21 R431). -/
def State.trans (s : State) (a : SegA) (wr lcOk : Bool) (req : Nat) : Tr :=
  let t := s.me
  match a.space with
  | 1 => .ok { space := 1, addr := a.addr, loc := abBase t.vu + a.addr, slice := none }
  | 2 => .ok { space := 2, addr := a.addr, loc := cistBase a.slice + a.addr, slice := some a.slice }
  | _ =>
    match t.fw, a.seg with
    | some d, 2 => .ok { space := 0, addr := a.addr, loc := mgmtBase d + a.addr % 2 ^ 16, slice := none }
    | _, _ =>
      match s.xlate t.die (s.fnOf t) a.addr wr with
      | .ok p _ => if p.lc.isSome && !lcOk then .lc else .ok p
      | .fault c =>
        if t.failed.contains (t.die, a.addr / 2 ^ 16) then .failed
        else
          let (s, w) := s.fault t.die req (s.fnOf t) (a.addr / 2 ^ 16) c s.agentT.gtid
          .page w s

/-- The late segment violations of translation (21 R433, R446). -/
def failTrap : Trap := ⟨4, segTval 3 0, none⟩
def lcTrap (seg : Nat) : Trap := ⟨4, segTval 8 seg, none⟩

/-- A fault that is delivered at the boundary after the instruction that retires now. [DEDUCED, log 15] -/
def State.late (s : State) (x : Trap) (returned : Bool) : State :=
  s.upd fun t => { t with verdicts := t.verdicts ++ [⟨⟨t.seq + 1, t.pc, x⟩, returned⟩] }

/-- Translates for an instruction that parks at a fault; one whose page failed retires with its late fault (21 R433). -/
def transR (len : Nat) (a : SegA) (wr lcOk : Bool) (req : Nat) (s : State) : R Place :=
  match s.trans a wr lcOk req with
  | .ok p => .ok p s
  | .page w s => parkR (.page w) s
  | .failed => .stop ((s.late failTrap true).retire len)
  | .lc => .stop ((s.late (lcTrap a.seg) true).retire len)

/-- Translates many units. -/
def transesR (len : Nat) (wr lcOk : Bool) (req : Nat) : List SegA → State → R (List Place)
  | [], s => .ok [] s
  | a :: t, s => (transR len a wr lcOk req s).bind fun p s => (transesR len wr lcOk req t s).bind fun l s => .ok (p :: l) s

/-! ## Migration (02 R49, R50; 11 R272; 07 R203) -/

/-- The physical slots of a core that hold no thread and are kept for none. -/
def State.freeSlots (s : State) (core : Nat) : List Nat :=
  (List.range 8).filter fun i =>
    !(s.threads.any fun t => ((t.core == core && t.pslot == i) ||
        (t.fw.isNone && s.hostCore t == core && t.home == i)) &&
        (t.fw.isSome || s.away t || (s.vcore t.vu).resident)) &&
    !((s.die (core / 1024)).hot.any fun h => h.core == core && 8 ≤ i + h.disabled)

/-- The die-local site of a core: clusters are tiles of 4 × 4 sites, in row-major order as the cores in them are. [DEDUCED, log 65] -/
def siteOf (core : Nat) : Nat :=
  let cl := core / 16 % 64
  let k := core % 16
  32 * (cl / 8 * 4 + k / 4) + cl % 8 * 4 + k % 4

/-- The core at a site of a die. -/
def coreAt (die site : Nat) : Nat :=
  let r := site / 32
  let c := site % 32
  die * 1024 + (r / 4 * 8 + c / 4) * 16 + r % 4 * 4 + c % 4

/-- The core is enabled: the boot reached its site (22 R460 to R462). -/
def State.coreOn (s : State) (core : Nat) : Bool := (s.die (core / 1024)).sites.any fun x => x.s == siteOf core

/-- The core of a cluster of the function's partition that a migrating thread goes to. -/
def State.bestCore (s : State) (fn cluster : Nat) : Option Nat :=
  if !(s.fn fn).part.contains cluster then none
  else
    let best := ((List.range 16).filter fun i => s.coreOn (cluster * 16 + i)).foldl (fun (a : Nat × Nat) i =>
        let n := (s.freeSlots (cluster * 16 + i)).length
        if a.2 < n then (cluster * 16 + i, n) else a) (0, 0)
    if best.2 = 0 then none else some best.1

/-- Part of a forecast loop. -/
def Thread.looping (t : Thread) : Bool := t.lane.isSome || t.loop.isSome

/-- A serialised re-execution is under way and another thread of the task runs away (08 R216). -/
def State.awayOther (s : State) (t : Thread) : Bool :=
  ((s.task t.task).rerun || (s.task t.task).serial) &&
    s.threads.any fun x => x.task == t.task && x.uid != t.uid && s.away x

/-- Where an access that migrates sends the thread; none where the access is made by proxy. [DEDUCED, log 80] -/
def State.migrateTo (s : State) (slice : Option Nat) : Option Nat :=
  let t := s.me
  match slice with
  | none => none
  | some x =>
    if coreSlice t.core = x || t.inh || t.fwm || t.looping || t.runnels != [] || s.awayOther t then none
    else s.bestCore (s.fnOf t) x

/-- The thread migrates before the access. -/
def migrateGate (slice : Option Nat) (s : State) : R Unit :=
  match s.migrateTo slice with
  | some c => parkR (.moving c false) s
  | none => .ok () s

/-! ## Words of an access -/

/-- The offsets at which the words of `n` bytes at an address begin. -/
def wordOffs (addr n : Nat) : List Nat := (List.range n).filter fun i => i == 0 || (addr + i) % 8 == 0

/-- The first conflict of an access with its trap (03 R83). -/
def State.clashP (s : State) (p : Place) (n : Nat) (write sync : Bool) : Option Trap :=
  (wordOffs p.addr n).findSome? fun i => (s.clash (p.at i) p.slice write sync).map (mmTrap (p.tval i) write)

/-- Records an access of the current thread to every word it touches. -/
def State.recordP (s : State) (p : Place) (n : Nat) (write sync : Bool) : State :=
  (wordOffs p.addr n).foldl (fun s i => s.record (p.at i) (s.accOf write sync)) s

/-- The poison trap of an access. -/
def State.poisonTrap (s : State) (p : Place) (n : Nat) : Option Trap :=
  (s.poisonP p n).map fun i => ⟨6, p.tval i, none⟩

/-! ## Side buffers (07 R195, R196) -/

/-- The key of the word that holds byte `i` of a place. -/
def Place.key (p : Place) (i : Nat) : Nat := p.at i / 8

/-- The side buffer of a lane. -/
def Thread.buf (t : Thread) : List BufW := match t.lane with | some l => l.buf | none => []

/-- Adds to the side buffer. -/
def Thread.addBuf (t : Thread) (l : List BufW) : Thread :=
  { t with lane := t.lane.map fun x => { x with buf := x.buf ++ l } }

/-- Bytes of a word as a lane's own buffered stores leave them. -/
def overlay (buf : List BufW) (key i : Nat) (b : Byte) : Byte :=
  buf.foldl (fun b w => if w.write && w.p.key 0 == key && w.mask.toNat.testBit i then
      BitVec.ofNat 8 (w.x.toNat / 2 ^ (8 * i)) else b) b

/-- The bytes that the current thread reads. -/
def State.seen (s : State) (p : Place) (n : Nat) : List Byte :=
  if s.me.spec then
    (List.range n).map fun i => overlay s.me.buf (p.key i) (p.at i % 8) (s.byte (p.at i))
  else s.readP p n

/-- An earlier lane that is not accepted holds a store to one of the words (07 R196). -/
def State.earlierWrites (s : State) (keys : List Nat) : Bool :=
  match s.me.lane with
  | none => false
  | some l => s.threads.any fun t => match t.lane with
    | some x => x.loopOf == l.loopOf && x.index < l.index && !x.accepted &&
        x.buf.any fun w => w.write && keys.contains (w.p.key 0)
    | none => false

/-- The words of a record that an MSTQ of a lane overwrote: codes and scales, and for a FIN its WMASK and WPOS words. -/
def Prov.keys (p : Prov) : List Nat :=
  (p.saved.map fun x => x.1.key 0) ++ p.fin.flatMap fun (slot, hdr, area, _) =>
    [(hdr + 8) / 8, (hdr + 16 + 64 * area + 4 * (slot % 16)) / 8]

/-- The words that take an entry of a lane's side buffer: those that it stored or loaded, and the words of KV records that its
appends overwrote (07 R195; 18 R392). -/
def Lane.keys (l : Lane) : List Nat := (l.buf.map fun w => w.p.key 0) ++ l.provs.flatMap Prov.keys

/-- More words do not fit in the lane's side buffer. -/
def Thread.bufFull (t : Thread) (keys : List Nat) : Bool :=
  match t.lane with
  | some l => 1024 < (l.keys ++ keys).eraseDups.length
  | none => false

/-- The start of word `i` of an access, as a place of its own. -/
def Place.word (p : Place) (i : Nat) : Place :=
  { p with addr := (p.addr + i) / 8 * 8, loc := p.at i / 8 * 8, lc := none }

/-- A speculative lane waits where its side buffer has no entries for all the words of an instruction, and where an earlier
lane's buffered store may give a word that it loads; a store ends a guess. -/
def specWords (loads stores : List Nat) (s : State) : R Unit :=
  if !s.me.spec then .ok () s
  else if stores != [] && s.me.guessing then .stop s.hold
  else if s.earlierWrites loads || (!s.me.guessing && s.me.bufFull (loads ++ stores)) then parkR .lane s
  else .ok () s

/-- The words of an access. -/
def Place.keys (p : Place) (n : Nat) : List Nat := (wordOffs p.addr n).map p.key

/-- The gate of one load or store. -/
def specGate (p : Place) (n : Nat) (store : Bool) (s : State) : R Unit :=
  if store then specWords [] (p.keys n) s else specWords (p.keys n) [] s

/-- The words of checked units, each with its size; the lane parks for a page. -/
def specKeys (store : Bool) : List (Nat × SegA) → State → R (List Nat)
  | [], s => .ok [] s
  | (n, a) :: t, s =>
    match s.trans a store true (b2n store) with
    | .ok p => (specKeys store t s).bind fun l s => .ok (p.keys n ++ l) s
    | .page w s => parkR (.page w) s
    | _ => specKeys store t s

/-- The gate of an instruction that loads some units and stores others: it waits for pages, its side buffer, and earlier lanes'
stores (07 R195, R196). -/
def specUnits (loads stores : List (Nat × SegA)) (s : State) : R Unit :=
  if !s.me.spec then .ok () s
  else if stores != [] && s.me.guessing then .stop s.hold
  else (specKeys false loads s).bind fun l s => (specKeys true stores s).bind fun k s => specWords l k s

/-- Units of one size. -/
def sized (n : Nat) (l : List SegA) : List (Nat × SegA) := l.map fun a => (n, a)

/-- A speculative lane's load enters its read set. -/
def State.specRead (s : State) (p : Place) (n : Nat) (recd : Bool) : State :=
  if s.me.guessing then s
  else s.upd fun t => t.addBuf ((wordOffs p.addr n).map fun i => ⟨p.word i, false, recd, 0, 0, t.seq, t.pc⟩)

/-! ## Loads and stores -/

/-- The poison that the current thread finds: a whole store of its own side buffer covers a word's (12 R282). -/
def State.seenTrap (s : State) (p : Place) (n : Nat) : Option Trap :=
  if s.me.spec then
    ((List.range n).find? fun i => s.poisoned (p.at i) &&
        !(s.me.buf.any fun w => w.write && w.mask == 0xFF && w.p.key 0 == p.key i)).map fun i => ⟨6, p.tval i, none⟩
  else s.poisonTrap p n

/-- A value that a snapshot load may return: the value, its poison, and the moment from which on the word held it. -/
structure Snap where
  x : Word
  bad : Bool
  since : Nat

/-- The moment after which a word must still have held a value for the current thread to load it (02 R55): that of the thread's
last synchronising operation, of its last store to the word, or from which on the word held the value it last loaded. [DEDUCED, log 11] -/
def State.snapFrom (s : State) (key : Nat) : Nat :=
  Nat.max s.agentT.since (((s.agentT.seen.find? fun x => x.1 == key).map (·.2)).getD 0)

/-- From this moment on the current thread loads what the word held. -/
def State.sawFrom (s : State) (key m : Nat) : State :=
  s.updT s.me.agent fun t => { t with seen := (key, m) :: t.seen.filter fun x => x.1 != key }

/-- The earlier values that a word still held after a moment. -/
def oldSnaps (m : Nat) : List Old → List Snap
  | [] => []
  | x :: t => if m < x.upto then ⟨x.x, x.bad, (t.head?.map (·.upto)).getD 0⟩ :: oldSnaps m t else []

/-- The value of a word that a snapshot load returns: the newest, or any that the word still held after the moment. -/
def State.snapOf (s : State) (key : Nat) : Snap :=
  let l := oldSnaps (s.snapFrom key) (s.pastOf key)
  let now : Snap := ⟨s.dword (8 * key), s.poisoned (8 * key), ((s.pastOf key).head?.map (·.upto)).getD 0⟩
  (now :: l).getD (Config.stale s.tick key % (l.length + 1)) now

/-- A word that the access touches has an earlier value that the thread may still load. -/
def State.hasOld (s : State) (p : Place) (n : Nat) : Bool :=
  (p.keys n).any fun k => (s.pastOf k).any fun x => s.snapFrom k < x.upto

/-- A snapshot load of words that have such values. -/
def State.oldLoad (s : State) (p : Place) (n : Nat) : List Byte × Option Trap × State :=
  let ks := ((List.range n).map p.key).eraseDups
  let l := ks.map fun k => (k, s.snapOf k)
  let at0 (i : Nat) : Option Snap := (l.find? fun x => x.1 == p.key i).map (·.2)
  ((List.range n).map fun i => BitVec.ofNat 8 (((at0 i).map (·.x.toNat)).getD 0 / 2 ^ (8 * (p.at i % 8))),
   ((List.range n).find? fun i => ((at0 i).map (·.bad)).getD false).map fun i => ⟨6, p.tval i, none⟩,
   l.foldl (fun s x => s.sawFrom x.1 x.2.since) s)

/-- What an access that loads brings: its bytes, the trap of a poisoned word, and its record or place in the read set. A load
that is recorded, and one of AB or cistern, returns the newest value (03 R78); a snapshot load may return an earlier one (02 R55). -/
def State.loadBoth (s : State) (p : Place) (n : Nat) (recd : Bool) : List Byte × Option Trap × State :=
  if s.me.spec then (s.seen p n, s.seenTrap p n, s.specRead p n recd)
  else if recd then (s.readP p n, s.poisonTrap p n, s.recordP p n false false)
  else if p.space != 0 || !s.hasOld p n then (s.readP p n, s.poisonTrap p n, s)
  else s.oldLoad p n

/-- What a load gives. -/
inductive Ld where
  | val (bs : List Byte) (s : State)
  | bad (x : Trap) (s : State)

/-- Performs a load: the access is recorded where its kind is, and poison reaches the thread with the data (03 R78, R83;
11 R274). -/
def State.load (s : State) (p : Place) (n : Nat) (recd : Bool) : Ld :=
  match if !s.me.spec && recd then s.clashP p n false false else none with
  | some x => .bad x s
  | none =>
    match s.loadBoth p n recd with
    | (_, some x, s) => .bad x s
    | (bs, none, s) => .val bs s

/-- Loads many units: all are performed, and the first trap counts. -/
def State.loads (s : State) (n : Nat) (recd : Bool) : List Place → List (List Byte) × Option Trap × State
  | [] => ([], none, s)
  | p :: t =>
    match s.load p n recd with
    | .val bs s =>
      let (l, x, s) := s.loads n recd t
      (bs :: l, x, s)
    | .bad x s =>
      let (l, _, s) := s.loads n recd t
      (List.replicate n 0 :: l, some x, s)

/-- A store by an earlier lane to a word that a later speculative lane has read rejects that lane (07 R196). -/
def State.spoil (s : State) (keys : List Nat) : State :=
  if !s.me.looping then s
  else
    let idx := s.me.laneIndex
    let hit := s.threads.filter fun t => match t.lane with
      | some l => l.loopOf == s.me.agent && idx < l.index && !l.accepted &&
          l.buf.any fun w => !w.write && keys.contains (w.p.key 0)
      | none => false
    match (hit.map Thread.laneIndex).foldl (fun (a : Option Nat) i => some (Nat.min i (a.getD i))) none with
    | some i => s.rejectAbove s.me.agent (i - 1)
    | none => s

/-- Performs a store to one word of the current thread; answers its trap where the word clashes. -/
def State.storeWord (s : State) (p : Place) (mask : BitVec 8) (x : Word) : State × Option Trap :=
  match s.clash p.loc p.slice true false with
  | some r => (s.touchMe p.slice, some (mmTrap (p.tval 0) true r))
  | none =>
    let s := ((s.putWord p mask x).plainWrite p.loc).record p.loc (s.accOf true false)
    let s := if p.space = 0 then s.sawFrom (p.key 0) s.tick else s
    ((s.touchMe p.slice).foldMe [digBlock 0 p.space mask.toNat p.digAddr (maskedWord mask x)], none)

/-- The words that some bytes from an address on fill: offset, mask and value. [DEDUCED, log 18] -/
def storeWords (addr : Nat) (data : List (Option Byte)) : List (Nat × BitVec 8 × Word) :=
  ((wordOffs addr data.length).map fun i =>
    let o := (addr + i) % 8
    let bs := (data.drop i).take (8 - o)
    let m := (List.range bs.length).foldl (fun a k => if (bs.getD k none).isSome then a + 2 ^ (o + k) else a) 0
    let x := (List.range bs.length).foldl (fun a k => a + ((bs.getD k none).getD 0).toNat * 2 ^ (8 * (o + k))) 0
    (i, BitVec.ofNat 8 m, w64 x)).filter fun y => y.2.1 != 0

/-- Stores bytes of the current thread; a byte that is none is not written. A speculative lane's go to its side buffer
(07 R195); the others are performed, and the first word that clashes gives the thread its verdict (03 R83). -/
def State.store (s : State) (p : Place) (data : List (Option Byte)) : State × Option Trap :=
  let ws := storeWords p.addr data
  let s := s.spoil (ws.map fun w => p.key w.1)
  if s.me.spec then
    (s.upd fun t => t.addBuf (ws.map fun w => ⟨p.word w.1, true, true, w.2.1, w.2.2, t.seq, t.pc⟩), none)
  else
    ws.foldl (fun (a : State × Option Trap) w =>
      let (s, x) := a.1.storeWord (p.word w.1) w.2.1 w.2.2
      (s, a.2.or x)) (s, none)

/-- Gives the thread the verdict of its store. -/
def State.verdict (s : State) (x : Option Trap) : State :=
  match x with
  | some x => s.late x false
  | none => s

/-- Stores many units of an instruction, with one verdict. -/
def State.stores (s : State) (l : List (Place × List (Option Byte))) : State :=
  let r := l.foldl (fun (a : State × Option Trap) x =>
    let (s, v) := a.1.store x.1 x.2
    (s, a.2.or v)) (s, none)
  r.1.verdict r.2

/-! ## Engine accesses (02 R60, R61; 03 R85) -/

/-- An engine writes bytes of one word: the word becomes full and no record is left; `poison` marks it. -/
def State.engWord (s : State) (p : Place) (mask : BitVec 8) (x : Word) (poison : Bool) (clk : Clock) : State :=
  let s := (s.putWord p mask x).setFull p.loc true
  let s := if poison then s.setPoison p.loc true else s
  s.setRec p.loc fun r => { r with synLive := false, eng := clk.join r.eng }

/-- An engine writes bytes; answers the words for the digest. -/
def State.engStore (s : State) (p : Place) (data : List (Option Byte)) (poison : Bool) (clk : Clock) :
    State × List CmdW :=
  (storeWords p.addr data).foldl (fun (a : State × List CmdW) w =>
    let q := p.word w.1
    (a.1.engWord q w.2.1 w.2.2 poison clk, a.2 ++ [⟨q.space, q.digAddr, w.2.1, w.2.2⟩])) (s, [])

/-- The digest blocks of words that a thread's matrix or attention instruction writes (08 R213). -/
def threadBlocks (l : List CmdW) : List Dig :=
  (l.foldr insertW []).map fun w => digBlock 0 w.space w.mask.toNat w.addr (maskedWord w.mask w.x)

/-! ## The record at issue (01 R476) -/

/-- Reads `n` doublewords of a record at an instruction's issue, as a snapshot load; a poisoned word is the instruction's
late poison trap. -/
inductive Rec where
  | words (l : List Word) (s : State)
  | bad (x : Trap) (s : State)

/-- The words of a record and the poison trap that it brings. -/
def State.recBoth (s : State) (p : Place) (n : Nat) : List Word × Option Trap × State :=
  let (bs, x, s) := s.loadBoth p (8 * n) false
  ((List.range n).map fun i => w64 (natOfBytes ((bs.drop (8 * i)).take 8)), x, s)

/-- Reads a record. -/
def State.recAt (s : State) (p : Place) (n : Nat) : Rec :=
  match s.recBoth p n with
  | (_, some x, s) => .bad x s
  | (l, none, s) => .words l s

/-! ## The constant window (10 R242, 11 R257) -/

/-- A constant-window word: a load of the word at the thread's host core. -/
def constWord (n : BitVec 8) (s : State) : R Word :=
  (accessGate s).bind fun _ s => (homeGate s).bind fun _ s =>
  let off := 8 * n.toNat
  let p : Place := { space := 1, addr := off, loc := abBase s.me.vu + off, slice := none }
  (specGate p 8 false s).bind fun _ s =>
  match s.load p 8 true with
  | .bad x s => .stop (s.raise x)
  | .val bs s => .ok (w64 (natOfBytes bs)) s

/-- The b() operand (11 R256). -/
def readB (b : BOp) (s : State) : R Word :=
  match b with
  | .reg r => .ok (s.me.gr r) s
  | .cw n => constWord n s
  | .imm v => .ok (v.signExtend 64) s
  | .lit v => .ok v s

end Sys2Proof.Machine
end

