-- ==== Sys2Proof/Machine/Flags.lean ====
section
/-!
DEFINITION. The machine has no flag register: what decides a branch or fills a predicate is a comparison, and the pure
functions of integer arithmetic stand beside them (11 R258 to R262).
-/
namespace Sys2Proof.Machine

/-- The condition of BR (11 R261). -/
def brHolds : BrCond → Word → Word → Bool
  | .eq, a, b => a == b
  | .ne, a, b => a != b
  | .lt, a, b => a.toInt < b.toInt
  | .ge, a, b => b.toInt ≤ a.toInt
  | .ltu, a, b => a.toNat < b.toNat
  | .geu, a, b => b.toNat ≤ a.toNat

/-- The condition of BRP, over all 256 byte lanes (11 R262). -/
def brpHolds : BrpCond → PReg → Bool
  | .any, p => p != 0
  | .none, p => p == 0
  | .all, p => p == BitVec.allOnes 256
  | .nall, p => p != BitVec.allOnes 256

/-- Bits [127:64] of a signed product. -/
def mulhS (a b : Word) : Word := BitVec.ofInt 64 (a.toInt * b.toInt / 2 ^ 64)
/-- Bits [127:64] of an unsigned product. -/
def mulhU (a b : Word) : Word := w64 (a.toNat * b.toNat / 2 ^ 64)
/-- The count of a shift: b()[5:0]. -/
def shiftN (b : Word) : Nat := b.toNat % 64
/-- Rotation to the left. -/
def rolW (a : Word) (n : Nat) : Word := (a <<< n) ||| (a >>> (64 - n))
/-- Number of leading zero bits. -/
def clzW (a : Word) : Nat := if a = 0 then 64 else 63 - Nat.log2 a.toNat
/-- Number of trailing zero bits. -/
def ctzW (a : Word) : Nat := ((List.range 64).find? fun i => a.toNat.testBit i).getD 64
/-- Number of one bits. -/
def popcN (n : Nat) (a : Nat) : Nat := ((List.range n).filter fun i => a.testBit i).length
/-- Bits in the other order. -/
def brevW (a : Word) : Word :=
  w64 ((List.range 64).foldl (fun x i => if a.toNat.testBit (63 - i) then x + 2 ^ i else x) 0)
/-- Bytes in the other order. -/
def bswapW (a : Word) : Word :=
  w64 ((List.range 8).foldl (fun x i => x + a.toNat / 2 ^ (8 * (7 - i)) % 256 * 2 ^ (8 * i)) 0)
/-- The low `n` bits of `x` sign-extended (11 R256). -/
def sx (x : Nat) (n : Nat) : Word := BitVec.ofInt 64 ((BitVec.ofNat n x).toInt)
/-- The low `n` bits of `x`. -/
def zx (x : Nat) (n : Nat) : Word := w64 (x % 2 ^ n)
/-- One for true. -/
def oneIf (b : Bool) : Word := if b then 1 else 0
/-- The field of BFI replaced. -/
def insertField (a b : Word) (pos w : Nat) : Word :=
  w64 (a.toNat - a.toNat / 2 ^ pos % 2 ^ w * 2 ^ pos + b.toNat % 2 ^ w * 2 ^ pos)

/-- Signed quotient and remainder, with their corners (11 R260). -/
def divS (a d : Word) : Word :=
  if d = 0 then BitVec.allOnes 64 else BitVec.ofInt 64 (Int.tdiv a.toInt d.toInt)
def remS (a d : Word) : Word := if d = 0 then a else BitVec.ofInt 64 (Int.tmod a.toInt d.toInt)
/-- Unsigned quotient and remainder. -/
def divU (a d : Word) : Word := if d = 0 then BitVec.allOnes 64 else w64 (a.toNat / d.toNat)
def remU (a d : Word) : Word := if d = 0 then a else w64 (a.toNat % d.toNat)

end Sys2Proof.Machine
end

