-- ==== Sys2Proof/Machine/VOps.lean ====
section
/-!
DEFINITION. Elements of vector registers, governing predicates, and vector operands with their runnels (13 R314 to R316; 02
R72, R73).
-/
namespace Sys2Proof.Machine

/-! ## Elements -/

/-- Element size in bytes of a type code (13 R314). -/
def tySize (ty : BitVec 2) : Nat := if ty.toNat % 2 = 0 then 4 else 2

/-- Element `i` of `w` bytes. -/
def getEl (x : VReg) (w i : Nat) : Nat := x.toNat / 2 ^ (8 * w * i) % 2 ^ (8 * w)

/-- The elements of a register. -/
def els (x : VReg) (w : Nat) : List Nat := (List.range (256 / w)).map (getEl x w)

/-- A register from its elements. -/
def ofEls (w : Nat) (l : List Nat) : VReg :=
  BitVec.ofNat 2048 (l.foldr (fun e a => a * 2 ^ (8 * w) + e % 2 ^ (8 * w)) 0)

/-- Element `i` is active (13 R314). -/
def act (m : PReg) (w i : Nat) : Bool := m.toNat.testBit (w * i)

/-- A predicate whose elements are given. -/
def ofBools (w : Nat) (l : List Bool) : PReg :=
  BitVec.ofNat 256 (l.foldr (fun e a => a * 2 ^ w + (if e then 2 ^ w - 1 else 0)) 0)

/-- The byte lanes of the active elements. -/
def lanesOf (m : PReg) (w : Nat) : PReg := ofBools w ((List.range (256 / w)).map (act m w))

/-- A signed element. -/
def sInt (w x : Nat) : Int := if x < 2 ^ (8 * w - 1) then (x : Int) else (x : Int) - 2 ^ (8 * w)

/-- An integer reduced to an element. -/
def toEl (w : Nat) (x : Int) : Nat := (x % 2 ^ (8 * w)).toNat

/-! ## Operands -/

/-- The register has a runnel bound, by the thread or by another lane of its loop. -/
def State.boundIn (s : State) (r : R5) : Bool :=
  s.threads.any fun t => t.agent == s.me.agent && (t.runnel r.toNat).isSome

/-- A runnel is an access that serialises a speculative lane (07 R201). -/
def runnelGate (rs : List R5) (s : State) : R Unit :=
  if s.me.spec && rs.any s.boundIn then .stop s.hold else .ok () s

/-- The misuse of runnels that an instruction's operands make (13 R316): its destination, then its sources. [DEDUCED, log 29] [DEDUCED, log 53] -/
def runnelMisuse (t : Thread) (dst : Option R5) (srcs : List R5) : Option R5 :=
  let bad (y : Option Runnel) (write : Bool) : Bool :=
    match y with
    | none => false
    | some y => y.write != write || y.len ≤ y.taken
  ((dst.filter fun r => bad (t.runnel r.toNat) true).or (srcs.find? fun r => bad (t.runnelSrc r.toNat) false))

/-- A destination that is a write runnel has room, and its next element an address (02 R71, R72). -/
def pushGate (r : R5) (s : State) : R Unit :=
  match s.me.runnel r.toNat with
  | none => .ok () s
  | some y =>
    match s.elemAt s.me y y.taken with
    | .bad c => segvR c y.segNo s
    | .ok _ => if 8 ≤ y.pushed.length then parkR (.runnel r.toNat false) s else .ok () s

/-- The chunks of 64 bytes of an element that starts at `a`, under the thread's translation, or the address of the first that does not
translate, with the cause. An element may cross pages (02 R71). [DEDUCED, log 19] -/
def State.elemChunks (s : State) (t : Thread) (wr : Bool) (a : SegA) : List Nat → (Nat × Cause) ⊕ List Place
  | [] => .inr []
  | k :: l =>
    let e := a.addr + 64 * k
    let p : (Nat × Cause) ⊕ Place := match a.space with
      | 1 => .inr { space := 1, addr := e, loc := abBase t.vu + e, slice := none }
      | 2 => .inr { space := 2, addr := e, loc := cistBase a.slice + e, slice := some a.slice }
      | _ => match s.xlate t.die (s.fnOf t) e wr with
        | .ok p _ => .inr p
        | .fault c => .inl (e, c)
    match p, s.elemChunks t wr a l with
    | .inl x, _ => .inl x
    | .inr _, .inl x => .inl x
    | .inr p, .inr ps => .inr (p :: ps)

/-- The four chunks of an element. -/
def State.elemPlaces (s : State) (t : Thread) (y : Runnel) (a : SegA) : (Nat × Cause) ⊕ List Place :=
  s.elemChunks t y.write a [0, 1, 2, 3]

/-- The value of an element, the address of a poisoned word in it, a conflict, and its record. -/
def State.elemValue (s : State) (ps : List Place) : VReg := BitVec.ofNat 2048 (natOfBytes (ps.flatMap fun p => s.readP p 64))

def State.elemPoison (s : State) (ps : List Place) : Option Word := ps.findSome? fun p => (s.poisonP p 64).map p.tval

def State.elemClash (s : State) (ps : List Place) (write : Bool) : Option Trap := ps.findSome? fun p => s.clashP p 64 write false

def State.elemRecord (s : State) (ps : List Place) : State := ps.foldl (fun s p => s.recordP p 64 false false) s

/-- The words of an element. -/
def elemKeys (ps : List Place) : List Nat := ps.flatMap fun p => p.keys 64

/-- An element that was fetched at a moment is still a value that a snapshot load may return (02 R55, R73). -/
def State.elemFresh (s : State) (ps : List Place) (m : Nat) : Bool := (elemKeys ps).all fun k => s.snapFrom k ≤ m

/-- The thread has loaded what the words of an element held at a moment. -/
def State.elemSeen (s : State) (ps : List Place) (m : Nat) : State :=
  (elemKeys ps).foldl (fun s k =>
    let b := (((s.pastOf k).find? fun x => x.upto ≤ m).map (·.upto)).getD 0
    if s.snapFrom k < b then s.sawFrom k b else s) s

/-- The places of the next element of a read runnel. -/
def State.nextElem (s : State) (y : Runnel) : Option ((Nat × Cause) ⊕ List Place) :=
  match s.elemAt s.me y y.taken with
  | .bad _ => none
  | .ok a => some (s.elemPlaces s.me y a)

/-- The next element of a read runnel is read when it is taken: a fresh one always, another where what was fetched ahead is older
than a snapshot load may return (02 R73, 03 R78), or where the stream was released in the same bundle (10 R252). [DEDUCED, log 83] -/
def State.rereads (s : State) (y : Runnel) (ps : List Place) : Bool :=
  y.fresh || !(y.ahead.head?.any fun x => s.elemFresh ps x.moment)

/-- A source that is a read runnel has an element at hand, or its address fails; a page that failed counts as at hand. An element
that is to be read again and whose page is no longer there is fetched anew. -/
def takeGate (r : R5) (s : State) : R Unit :=
  match s.me.runnelSrc r.toNat with
  | none => .ok () s
  | some y =>
    let bound := (s.me.runnel r.toNat).isSome
    if (y.wait.map (·.failed)).getD false then .ok () s
    else
      match s.elemAt s.me y y.taken with
      | .bad c => if y.ahead != [] then .ok () s else segvR c y.segNo s
      | .ok a =>
        if bound && y.ahead = [] then parkR (.runnel r.toNat false) s
        else
          match s.elemPlaces s.me y a with
          | .inr _ => .ok () s
          | .inl (e, c) =>
            if !bound then
              let (s, w) := s.fault s.me.die 4 (s.fnOf s.me) (e / 2 ^ 16) c s.agentT.gtid
              parkR (.page w) s
            else parkR (.runnel r.toNat false) (s.upd fun t => t.setRunnel r.toNat fun y => { y with ahead := [] })

/-- All gates of a list. -/
def gates (g : R5 → State → R Unit) : List R5 → State → R Unit
  | [], s => .ok () s
  | r :: t, s => (g r s).bind fun _ s => gates g t s

/-- Takes the next element of a read runnel: its value, or the trap that comes with it (02 R72 to R74). -/
def State.take (s : State) (r : R5) (y : Runnel) : VReg × Option Trap × State :=
  let s' := s.upd fun t => t.setRunnel r.toNat fun y =>
    { y with taken := y.taken + 1, done := Nat.max y.done (y.taken + 1), ahead := y.ahead.drop 1, wait := none }
  let kept : VReg × Option Trap × State := match y.ahead with
    | [] => (0, some failTrap, s')
    | x :: _ => (x.x, x.bad.map fun a => ⟨6, a, none⟩, s')
  if (y.wait.map (·.failed)).getD false && y.ahead = [] then (0, some failTrap, s')
  else
    match s.nextElem y with
    | some (.inr ps) =>
      if s.rereads y ps then
        match if y.fresh then s.elemClash ps false else none with
        | some t => (0, some t, s')
        | none =>
          (s.elemValue ps, (s.elemPoison ps).map fun a => ⟨6, a, none⟩,
           if y.fresh then s'.elemRecord ps else s'.elemSeen ps s.tick)
      else (kept.1, kept.2.1, s'.elemSeen ps ((y.ahead.head?.map (·.moment)).getD 0))
    | _ => kept

/-- The values of vector sources; a bound register's element is taken once for all operands that name it. -/
def State.vread (s : State) : List R5 → List (R5 × VReg) × Option Trap × State
  | [] => ([], none, s)
  | r :: t =>
    let (l, x, s) := match s.me.runnelSrc r.toNat with
      | none => (s.me.vr r, none, s)
      | some y => s.take r y
    let (rest, y, s) := s.vread t
    ((r, l) :: rest, x.or y, s)

/-- Looks a source up. -/
def vval (l : List (R5 × VReg)) (r : R5) : VReg := ((l.find? fun x => x.1 == r).map (·.2)).getD 0

/-- What an instruction whose source brings a trap does: a short-latency one retires and takes it late. -/
def lateShort (len : Nat) (x : Trap) (s : State) : State := (s.late x true).retire len

/-- A long-latency one takes it at the close of its window. -/
def lateLong (look : BitVec 4) (len : Nat) (x : Trap) (s : State) : State :=
  let pc := s.me.pc
  (s.retire len).upd fun t => t.openWin look.toNat pc (.fault x) false false

/-- The checks on the operands of a vector instruction, in the order of 13 R316: general sources, vector sources, a vector
destination written at issue, a general destination; a runnel element is an access (12 R279). -/
def vgates (gs : List R5) (vs : List R5) (vd : Option R5) (pushNow : Bool) (gd : Option R5) (s : State) : R Unit :=
  (needRegs gs s).bind fun _ s =>
  (runnelGate (vd.toList ++ vs) s).bind fun _ s =>
  match runnelMisuse s.me vd vs with
  | some r => illegalR (w64 r.toNat) s
  | none =>
    (match gd with | some d => destOk d s | none => .ok () s).bind fun _ s =>
    (if (vd.any fun (r : R5) => (s.me.runnel r.toNat).isSome) || vs.any fun (r : R5) => (s.me.runnelSrc r.toNat).isSome then accessGate s
     else .ok () s).bind fun _ s =>
    (match vd with | some d => if pushNow then pushGate d s else .ok () s | none => .ok () s).bind fun _ s =>
    gates takeGate vs.eraseDups s

/-- Takes the vector sources; a trap that comes with one ends the instruction in the way given. -/
def vtake (vs : List R5) (bad : Trap → State → State) (s : State) : R (List (R5 × VReg)) :=
  match s.vread vs.eraseDups with
  | (l, none, s) => .ok l s
  | (_, some x, s) => .stop (bad x s)

/-- The operands of a vector instruction, checked and taken. -/
def vopnds (gs : List R5) (vs : List R5) (vd : Option R5) (pushNow : Bool) (gd : Option R5) (bad : Trap → State → State)
    (s : State) : R (List (R5 × VReg)) :=
  (vgates gs vs vd pushNow gd s).bind fun _ s => vtake vs bad s

/-- Writes the bytes of a vector register that a mask selects, or pushes them. -/
def wrV (d : R5) (m : PReg) (x : VReg) (s : State) : R Unit :=
  match s.me.runnel d.toNat with
  | some _ =>
    match s.pushR s.me.pc d m x with
    | (s, none) => .ok () s
    | (s, some t) => .stop (s.raise t)
  | none => .ok () (s.upd fun t => t.wv d (blend m x (t.v[d.toNat]'(d.isLt))))

end Sys2Proof.Machine
end

