-- ==== Sys2Proof/Machine/Float.lean ====
section
/-!
DEFINITION. FP32 and BF16 (04 R97 to R103, R124): exact values, one rounding, and the correctly rounded functions of 13 R320,
R326 and R328.
-/
namespace Sys2Proof.Machine

/-! ## Values and formats -/

/-- A floating-point value: a NaN, an infinity, or (−1)^neg × m × 2^e. -/
inductive Fp where
  | nan
  | inf (neg : Bool)
  | fin (neg : Bool) (m : Nat) (e : Int)
deriving DecidableEq, Repr

/-- A format: significand bits, and the exponent of its subnormal step. -/
structure Fmt where
  p : Nat
  emin : Int
deriving DecidableEq, Repr

/-- FP32 and BF16. -/
def f32 : Fmt := ⟨24, -149⟩
def bf16 : Fmt := ⟨8, -133⟩

/-- The format of a type code that is a floating-point type (10 R246). -/
def fmtOf (ty : BitVec 2) : Fmt := if ty = 0 then f32 else bf16

/-- Weight of the sign bit. -/
def Fmt.sign (f : Fmt) : Nat := 2 ^ (f.p + 7)

/-- The canonical NaN (04 R101). -/
def Fmt.qnan (f : Fmt) : Nat := 255 * 2 ^ (f.p - 1) + 2 ^ (f.p - 2)

/-- Reads a value. -/
def Fmt.dec (f : Fmt) (x : Nat) : Fp :=
  let neg := x / f.sign % 2 == 1
  let e := x / 2 ^ (f.p - 1) % 256
  let m := x % 2 ^ (f.p - 1)
  if e = 255 then (if m = 0 then .inf neg else .nan)
  else if e = 0 then .fin neg m f.emin
  else .fin neg (m + 2 ^ (f.p - 1)) (f.emin + e - 1)

/-- Rounding modes (04 R100). -/
inductive RM where
  | rne | rtz | rdn | rup
deriving DecidableEq, Repr

/-- The mode of an RM field. -/
def rmOf (x : BitVec 2) : RM := match x.toNat with | 0 => .rne | 1 => .rtz | 2 => .rdn | _ => .rup

/-- Whether a remainder rounds up: the kept number is odd, the remainder against the half (`lo` of `2^d`). -/
def roundsUp (m : RM) (neg odd : Bool) (lo d : Nat) : Bool :=
  match m with
  | .rne => 2 ^ d < 2 * lo || (2 * lo == 2 ^ d && odd)
  | .rtz => false
  | .rdn => neg && lo != 0
  | .rup => !neg && lo != 0

/-- Divides by 2^d and rounds. -/
def roundShift (m : RM) (neg : Bool) (x d : Nat) : Nat :=
  let hi := x / 2 ^ d
  if roundsUp m neg (hi % 2 == 1) (x % 2 ^ d) d then hi + 1 else hi

/-- Number of bits. -/
def bitLen (m : Nat) : Nat := if m = 0 then 0 else Nat.log2 m + 1

/-- The largest finite magnitude of a format, as bits. -/
def Fmt.maxFin (f : Fmt) : Nat := 255 * 2 ^ (f.p - 1) - 1

/-- Rounds a magnitude to `p` significant bits on a grid no finer than the subnormal step: m × 2^e as M × 2^q. -/
def roundGrid (p : Nat) (emin : Int) (rm : RM) (neg : Bool) (m : Nat) (e : Int) : Nat × Int :=
  let q := max (e + bitLen m - p) emin
  if q ≤ e then (m * 2 ^ (e - q).toNat, q) else (roundShift rm neg m (q - e).toNat, q)

/-- Encodes a value, rounding once (04 R98); an overflow gives what IEEE 754 gives for the mode, or saturates. -/
def Fmt.enc (f : Fmt) (rm : RM) (sat : Bool) (x : Fp) : Nat :=
  match x with
  | .nan => f.qnan
  | .inf neg => b2n neg * f.sign + 255 * 2 ^ (f.p - 1)
  | .fin neg m e =>
    if m = 0 then b2n neg * f.sign
    else
      let (mm, q) := roundGrid f.p f.emin rm neg m e
      let bits := (q - f.emin).toNat * 2 ^ (f.p - 1) + mm
      b2n neg * f.sign +
        (if 255 * 2 ^ (f.p - 1) ≤ bits then
          (if sat then f.maxFin
           else match rm, neg with
            | .rne, _ => 255 * 2 ^ (f.p - 1)
            | .rtz, _ => f.maxFin
            | .rdn, true => 255 * 2 ^ (f.p - 1)
            | .rdn, false => f.maxFin
            | .rup, true => f.maxFin
            | .rup, false => 255 * 2 ^ (f.p - 1))
         else bits)

/-! ## Exact operations -/

/-- The sign inverted; a NaN stays. -/
def Fp.neg : Fp → Fp
  | .nan => .nan
  | .inf n => .inf (!n)
  | .fin n m e => .fin (!n) m e

/-- The exact product. -/
def Fp.mul : Fp → Fp → Fp
  | .nan, _ => .nan
  | _, .nan => .nan
  | .inf a, .inf b => .inf (a != b)
  | .inf a, .fin b m _ => if m = 0 then .nan else .inf (a != b)
  | .fin a m _, .inf b => if m = 0 then .nan else .inf (a != b)
  | .fin a m e, .fin b n d => .fin (a != b) (m * n) (e + d)

/-- A signed number m × 2^e at a smaller or equal exponent. -/
def alignTo (neg : Bool) (m : Nat) (e e0 : Int) : Int :=
  let x : Int := (m * 2 ^ (e - e0).toNat : Nat)
  if neg then -x else x

/-- The exact sum; an exact zero of unlike signs is +0 (04 R98). -/
def Fp.add : Fp → Fp → Fp
  | .nan, _ => .nan
  | _, .nan => .nan
  | .inf a, .inf b => if a = b then .inf a else .nan
  | .inf a, .fin _ _ _ => .inf a
  | .fin _ _ _, .inf b => .inf b
  | .fin a m e, .fin b n d =>
    if m = 0 && n = 0 then .fin (a && b) 0 0
    else
      let e0 := min e d
      let x := alignTo a m e e0 + alignTo b n d e0
      .fin (x < 0) x.natAbs e0

/-- Order of two numbers, −∞ and +∞ among them; zeros are equal. -/
def Fp.lt : Fp → Fp → Bool
  | .nan, _ => false
  | _, .nan => false
  | .inf a, .inf b => a && !b
  | .inf a, .fin _ _ _ => a
  | .fin _ _ _, .inf b => !b
  | .fin a m e, .fin b n d =>
    let e0 := min e d
    alignTo a m e e0 < alignTo b n d e0

/-- A zero, an infinity, a NaN, a negative sign. -/
def Fp.isZero : Fp → Bool
  | .fin _ 0 _ => true
  | _ => false
def Fp.isNan : Fp → Bool
  | .nan => true
  | _ => false
def Fp.sgn : Fp → Bool
  | .nan => false
  | .inf n => n
  | .fin n _ _ => n

/-- The lesser and the greater; −0 is less than +0 (13 R319). -/
def Fp.minF (a b : Fp) : Fp :=
  if a.isNan || b.isNan then .nan
  else if a.lt b then a else if b.lt a then b else if a.sgn then a else b
def Fp.maxF (a b : Fp) : Fp :=
  if a.isNan || b.isNan then .nan
  else if a.lt b then b else if b.lt a then a else if a.sgn then b else a

/-- The magnitude. -/
def Fp.absF : Fp → Fp
  | .nan => .nan
  | .inf _ => .inf false
  | .fin _ m e => .fin false m e

/-- A quotient with so many more bits that its last, sticky bit settles every rounding. -/
def quot (neg : Bool) (m : Nat) (e : Int) (n : Nat) (d : Int) : Fp :=
  let sh := 40 + bitLen n
  let x := m * 2 ^ sh
  .fin neg (2 * (x / n) + (if x % n = 0 then 0 else 1)) (e - d - sh - 1)

/-- Division (13 R328). -/
def Fp.div : Fp → Fp → Fp
  | .nan, _ => .nan
  | _, .nan => .nan
  | .inf _, .inf _ => .nan
  | .inf a, .fin b _ _ => .inf (a != b)
  | .fin a _ _, .inf b => .fin (a != b) 0 0
  | .fin a m e, .fin b n d =>
    if n = 0 then (if m = 0 then .nan else .inf (a != b))
    else if m = 0 then .fin (a != b) 0 0
    else quot (a != b) m e n d

/-- Newton's steps to an integer square root from above. -/
def sqrtLoop : Nat → Nat → Nat → Nat
  | 0, _, x => x
  | k + 1, n, x => let y := (x + n / x) / 2; if y < x then sqrtLoop k n y else x

/-- The integer square root. -/
def isqrt (n : Nat) : Nat := if n = 0 then 0 else sqrtLoop (bitLen n + 8) n (2 ^ (bitLen n / 2 + 1))

/-- The square root, with a sticky last bit (13 R328). -/
def Fp.sqrt : Fp → Fp
  | .nan => .nan
  | .inf n => if n then .nan else .inf false
  | .fin n m e =>
    if m = 0 then .fin n 0 0
    else if n then .nan
    else
      let odd := e % 2 != 0
      let x := m * 2 ^ (if odd then 121 else 120)
      let r := isqrt x
      .fin false (2 * r + (if r * r = x then 0 else 1)) ((e - (if odd then 1 else 0)) / 2 - 60 - 1)

/-! ## Operations on bits -/

/-- RNE of a value to FP32 bits. -/
def rne32 (x : Fp) : Nat := f32.enc .rne false x
/-- A value of FP32 bits. -/
def val32 (x : Nat) : Fp := f32.dec x
/-- Addition and multiplication of FP32 bits. -/
def add32 (a b : Nat) : Nat := rne32 ((val32 a).add (val32 b))
def mul32 (a b : Nat) : Nat := rne32 ((val32 a).mul (val32 b))
/-- FP32 to BF16 (04 R103). -/
def toBf (rm : RM) (x : Nat) : Nat := bf16.enc rm true (val32 x)
/-- BF16 to FP32, exact; a NaN becomes canonical. -/
def ofBf (x : Nat) : Nat := rne32 (bf16.dec x)

/-- A floating-point value to an integer of a range, saturating; NaN gives 0 (04 R103). -/
def Fp.toInt (rm : RM) (lo hi : Int) : Fp → Int
  | .nan => 0
  | .inf n => if n then lo else hi
  | .fin n m e =>
    let r := if 0 ≤ e then m * 2 ^ (Nat.min e.toNat 200) else roundShift rm n m (-e).toNat
    let x : Int := if n then -(r : Int) else r
    max lo (min hi x)

/-- An integer as an exact value. -/
def Fp.ofInt (x : Int) : Fp := .fin (x < 0) x.natAbs 0

/-! ## The reduction tree (04 R124) -/

/-- One level: pairs combined. -/
def treeLevel {α : Type} (op : α → α → α) : List α → List α
  | a :: b :: t => op a b :: treeLevel op t
  | l => l

/-- `k` levels of the tree over a list of 2^k values. -/
def treeRed {α : Type} (op : α → α → α) (d : α) : Nat → List α → α
  | 0, l => l.headD d
  | k + 1, l => treeRed op d k (treeLevel op l)

/-! ## Estimates (13 R320) -/

/-- Rounds a value to 8 significant bits on the grid of a type and encodes it. -/
def estimate (f : Fmt) (x : Fp) : Nat :=
  match x with
  | .fin n m e =>
    if m = 0 then f.enc .rne false x
    else let (mm, q) := roundGrid 8 f.emin .rne n m e; f.enc .rne false (.fin n mm q)
  | y => f.enc .rne false y

/-- VRCPE. -/
def rcpe (f : Fmt) (a : Fp) : Nat := estimate f ((Fp.fin false 1 0).div a)

/-- VRSQE. -/
def rsqe (f : Fmt) (a : Fp) : Nat :=
  match a with
  | .nan => f.qnan
  | .inf n => if n then f.qnan else 0
  | .fin n m e =>
    if m = 0 then f.enc .rne false (.inf n)
    else if n then f.qnan
    else
      -- 1/sqrt(m 2^e) = sqrt(2^240 / m') 2^(-120 - e/2)
      let odd := e % 2 != 0
      let mm := if odd then 2 * m else m
      let ee := if odd then e - 1 else e
      let x := 2 ^ 240 / mm
      let r := isqrt x
      let exact := 2 ^ 240 % mm = 0 && r * r = x
      estimate f (.fin false (2 * r + (if exact then 0 else 1)) (-120 - ee / 2 - 1))

/-! ## Correctly rounded functions (13 R326, R328)

Each is evaluated as a fixed-point number with 400 or 600 fractional bits, far beyond what any rounding of an FP32 or BF16
result needs, and rounded once. -/

/-- ln 2, 2/√π with 400 and π with 600 fractional bits. -/
def ln2F : Nat := 1789879222497203190815761498240779176894896805856420935579692301363062920687047601279850318367644315849030039181347319086
def erfC : Nat := 2913756966668194800300214067270034030186276855045544562015353861004409627435460814446341471088463227900768995815277951550
def piF : Nat := 13036087627152999135228793149325883706411451860641517059512692589349356927284956232122985947124868324260373329126004229970251138265841936145774751301626362401504686637351871636910347

/-- Sum of the terms t, t·step(1), …: `n` more terms, the k-th being the last times x over 2^fb over (den k). -/
def series (n : Nat) (fb x : Nat) (den : Nat → Nat) (k term acc : Nat) : Nat :=
  match n with
  | 0 => acc
  | n + 1 => let t := term * x / 2 ^ fb / den k; series n fb x den (k + 1) t (acc + t)

/-- The alternating sum of such terms. -/
def altSeries (n : Nat) (fb x : Nat) (den : Nat → Nat) (k term : Nat) (neg : Bool) (acc : Int) : Int :=
  match n with
  | 0 => acc
  | n + 1 =>
    let t := term * x / 2 ^ fb / den k
    altSeries n fb x den (k + 1) t (!neg) (if neg then acc - t else acc + t)

/-- x × 2^400 for a value whose exponent is at least −400, rounded down. -/
def fix400 (m : Nat) (e : Int) : Nat := if 0 ≤ e + 400 then m * 2 ^ (e + 400).toNat else m / 2 ^ (-(e + 400)).toNat

/-- e^x for x = ±X/2^400: significand with 400 fractional bits and the power of two. -/
def expFix (neg : Bool) (x : Nat) : Nat × Int :=
  let k : Int := if neg then -((x / ln2F : Nat) : Int) - 1 else (x / ln2F : Nat)
  let r : Nat := if neg then ln2F * ((x / ln2F) + 1) - x else x % ln2F
  (series 100 400 r (fun k => k) 1 (2 ^ 400) (2 ^ 400), k)

/-- The exponential. [PRESUMED, log 31] -/
def Fp.exp : Fp → Fp
  | .nan => .nan
  | .inf n => if n then .fin false 0 0 else .inf false
  | .fin n m e =>
    if m = 0 then .fin false 1 0
    else if 8 ≤ e + bitLen m then (if n then .fin false 1 (-1000) else .fin false 1 1000)
    else let (x, k) := expFix n (fix400 m e); .fin false x (k - 400)

/-- The natural logarithm. -/
def Fp.log : Fp → Fp
  | .nan => .nan
  | .inf n => if n then .nan else .inf false
  | .fin n m e =>
    if m = 0 then .inf true
    else if n then .nan
    else
      let b := bitLen m - 1
      let k : Int := e + b
      -- y = m / 2^b in [1, 2); t = (y - 1) / (y + 1)
      let t := (m - 2 ^ b) * 2 ^ 400 / (m + 2 ^ b)
      let t2 := t * t / 2 ^ 400
      let y := (List.range 140).foldl (fun (a : Nat × Nat) i => (a.1 + a.2 / (2 * i + 1), a.2 * t2 / 2 ^ 400)) (0, t)
      let x : Int := k * ln2F + 2 * y.1
      .fin (x < 0) x.natAbs (-400)

/-- The hyperbolic tangent: (E − 1) / (E + 1) with E = e^(2|x|). -/
def Fp.tanh : Fp → Fp
  | .nan => .nan
  | .inf n => .fin n 1 0
  | .fin n m e =>
    if m = 0 then .fin n 0 0
    else if 7 ≤ e + bitLen m then .fin n 1 0
    else
      let (x, k) := expFix false (2 * fix400 m e)
      let one := 2 ^ 400
      let big := x * 2 ^ k.toNat
      quot n (big - one) 0 (big + one) 0

/-- The error function: 2/√π × e^(−x²) × Σ 2^n x^(2n+1) / (1·3·…·(2n+1)). -/
def Fp.erf : Fp → Fp
  | .nan => .nan
  | .inf n => .fin n 1 0
  | .fin n m e =>
    if m = 0 then .fin n 0 0
    else if 4 ≤ e + bitLen m then .fin n 1 0
    else
      let x := fix400 m e
      let x2 := x * x / 2 ^ 400
      let sum := series 900 400 (2 * x2) (fun k => 2 * k + 1) 1 x x
      let (y, k) := expFix true x2
      .fin n (erfC * sum / 2 ^ 400 * y) (k - 800)

/-- cos and sin of r/2^600 in [0, π/2). -/
def cosFix (r : Nat) : Int :=
  let r2 := r * r / 2 ^ 600
  altSeries 80 600 r2 (fun k => (2 * k - 1) * (2 * k)) 1 (2 ^ 600) true (2 ^ 600)
def sinFix (r : Nat) : Int :=
  let r2 := r * r / 2 ^ 600
  altSeries 80 600 r2 (fun k => 2 * k * (2 * k + 1)) 1 r true r

/-- A fixed-point number with 600 fractional bits as a value. -/
def ofFix600 (x : Int) : Fp := .fin (x < 0) x.natAbs (-600)

/-- cos32 and sin32 of a finite FP32 angle in radians, correctly rounded (13 R326). -/
def cosSin (n : Bool) (m : Nat) (e : Int) : Nat × Nat :=
  if m = 0 then (rne32 (.fin false 1 0), rne32 (.fin n 0 0))
  else
    let x := m * 2 ^ (e + 600).toNat
    let half := piF / 2
    let q := x / half
    let r := x - q * half
    let (c, s) := match q % 4 with
      | 0 => (cosFix r, sinFix r)
      | 1 => (-sinFix r, cosFix r)
      | 2 => (-cosFix r, -sinFix r)
      | _ => (sinFix r, -cosFix r)
    (rne32 (ofFix600 c), rne32 (ofFix600 (if n then -s else s)))

/-- rope_pair (13 R326). -/
def ropePair (f : Fmt) (x y p q : Nat) : Nat × Nat :=
  let xv := f.dec x
  let yv := f.dec y
  let pv := f.dec p
  let qv := f.dec q
  if xv.isNan || yv.isNan || pv.isNan || qv.isNan then (f.qnan, f.qnan)
  else
    match val32 (rne32 (pv.mul qv)) with
    | .fin n m e =>
      let (c, s) := cosSin n m e
      (f.enc .rne false ((xv.mul (val32 c)).add ((yv.mul (val32 s)).neg)),
       f.enc .rne false ((xv.mul (val32 s)).add (yv.mul (val32 c))))
    | _ => (f.qnan, f.qnan)

end Sys2Proof.Machine
end

