-- ==== Sys2Proof/Machine/Memory.lean ====
section
/-!
DEFINITION. Scalar loads and stores, LDF and STF, the full/empty instructions, LDB and STB (12 R281 to R283, R296).
-/
namespace Sys2Proof.Machine

/-- The offset that an M-format instruction adds to its base register (10 R243). -/
def mOff (o : MOff) (size : Nat) : Int :=
  match o with
  | .small o => o.toInt * size
  | .lit v => v.toInt

/-- The length of an M-format instruction. -/
def mLen : MOff → Nat
  | .small _ => 4
  | .lit _ => 12

/-- The offset e of an M-format access, with the registers of its issue. -/
def mAddr (s : State) (base : R5) (o : MOff) (size : Nat) : Int := (s.me.gr base).toInt + mOff o size

/-- The word that a load of `size` bytes gives (12 R281). -/
def loadVal (bs : List Byte) (size : Nat) (signed : Bool) : Word :=
  if signed then sx (natOfBytes bs) (8 * size) else w64 (natOfBytes bs)

/-! ## LD -/

/-- The checked address of a scalar load or store, with the registers of its issue. -/
def mUnit (s : State) (seg : BitVec 3) (base : R5) (o : MOff) (size need : Nat) (store : Bool) : Chk :=
  s.unit seg (mAddr s base o size) size size need store

/-- LD: a fresh load and any load through AB or the cistern is recorded, a snapshot load is not (03 R78). -/
def ldRecorded (x : LoadA) (space : Nat) : Bool := x.fr || space != 0

/-- Performs LD at a resolved address. -/
def ldAt (x : LoadA) (a : SegA) (s : State) : Perf :=
  let size := 2 ^ x.sz.toNat
  match s.trans a false (!x.fr) 0 with
  | .page w s => .later s (.page w)
  | .failed => .now s (.fault failTrap)
  | .lc => .now s (.fault (lcTrap a.seg))
  | .ok p =>
    match blockAt p.loc size with
    | some (d, r) => .now s (.regs [.g x.d (s.readDieReg d r)])
    | none =>
    match s.load p size (ldRecorded x a.space) with
    | .bad t s => .now s (.fault t)
    | .val bs s => .now s (.regs [.g x.d (loadVal bs size x.sx)])

/-- Performs LD with the registers of its issue. -/
def perfLd (x : LoadA) (s : State) : Perf :=
  match mUnit s x.seg x.base x.off (2 ^ x.sz.toNat) needRD false with
  | .bad r => .now s (.fault ⟨4, segTval r x.seg.toNat, none⟩)
  | .ok a => ldAt x a s

/-- The home slice that an address shows at once: an access whose page is missing at its issue shows none, and a load, LDF or atomic is
performed after the wake without moving the thread, which 02 R49 leaves open. [DEDUCED, log 15] -/
def State.sliceNow (s : State) (a : SegA) : Option Nat :=
  match a.space with
  | 1 => none
  | 2 => some a.slice
  | _ => if s.me.fwm then none else
    match s.leafOf s.me.die (s.fnOf s.me) a.addr with
    | .leaf e _ _ => some (entHome e)
    | .fault _ => none

/-- The gate of one access that a speculative lane makes: it waits for its page, its side buffer, an earlier lane's store. -/
def specAccess (a : SegA) (size : Nat) (store : Bool) (s : State) : R Unit :=
  if store then specUnits [] [(size, a)] s else specUnits [(size, a)] [] s

/-- A management core's load waits for its core's writes of registers (21 R423). -/
def postedGate (s : State) : R Unit := match s.me.fw with
  | some d => if s.posting d then parkR (.posted d) s else .ok () s
  | none => .ok () s

/-- LD. -/
def execLd (x : LoadA) (s : State) : Out1 := run s fun s =>
  let size := 2 ^ x.sz.toNat
  (needRegs [x.base] s).bind fun _ s =>
  (accessGate s).bind fun _ s =>
  (segR x.seg (mAddr s x.base x.off size) size size needRD false s).bind fun a s =>
  (stageR a size s).bind fun a s =>
  (if x.fr || a.space == 2 then migrateGate (s.sliceNow a) s else .ok () s).bind fun _ s =>
  (specAccess a size false s).bind fun _ s =>
  (postedGate s).bind fun _ s =>
  openPerf (.ld x) x.look (mLen x.off) false false (ldAt x a s)

/-! ## ST -/

/-- The low bytes of a register. -/
def dataOf (x : Word) (size : Nat) : List (Option Byte) := (bytesOfNat size x.toNat).map some

/-- ST. -/
def execSt (x : StoreA) (s : State) : Out1 := run s fun s =>
  let size := 2 ^ x.sz.toNat
  (needRegs [x.base, x.d] s).bind fun _ s =>
  (accessGate s).bind fun _ s =>
  (segR x.seg (mAddr s x.base x.off size) size size needWR true s).bind fun a s =>
  (stageR a size s).bind fun a s =>
  (migrateGate (s.sliceNow a) s).bind fun _ s =>
  (transR (mLen x.off) a true false 1 s).bind fun p s =>
  (specGate p size true s).bind fun _ s =>
  finish (mLen x.off) (match blockAt p.loc size with
    | some (d, r) => s.post (blockWrite d r (s.me.gr x.d))
    | none => s.stores [(p, dataOf (s.me.gr x.d) size)])

/-! ## LDF and STF -/

/-- The die whose headgate serves a function: that of its partition. [DEDUCED, log 60] -/
def State.gateDie (s : State) (fn : Nat) : Nat := ((s.fn fn).part.headD 0) / 64 % 2

/-- The word at an address of a function, where its page is there. -/
def State.gateWord (s : State) (fn va : Nat) : Option Nat :=
  match s.xlate (s.gateDie fn) fn va false with
  | .ok p _ => some (p.loc / 8)
  | .fault _ => none

/-- The words that headgates wait on, with their places in the words' wait lists: kick words of device queues (20 R403) and
prerequisite words of ready launches (20 R408). -/
def State.gateWaits (s : State) : List (Nat × Nat) :=
  (s.fns.flatMap fun f => f.queues.toList.filterMap fun q =>
    if q.en && q.dev then (s.gateWord f.n q.kword).map fun k => (k, q.kticket) else none) ++
  s.tasks.flatMap fun k => if k.st != .ready then [] else
    (k.preq.filter fun x => !x.2).filterMap fun x => (s.gateWord k.fn x.1).map fun w => (w, k.order)

/-- The current thread's turn at a word: none with an earlier ticket waits for it (12 R281). -/
def State.firstAt (s : State) (key ticket : Nat) (full : Bool) : Bool :=
  (s.threads.all fun t =>
    (t.windows.all fun w => match w.res with
      | .wait (.defer (.full k n) _ _) => !(full && k == key && n < ticket)
      | _ => true) &&
    (match t.park with
     | some (.stf p _ _) => !(!full && p.loc / 8 == key && t.ticket < ticket)
     | _ => true)) &&
  (!full || s.gateWaits.all fun w => !(w.1 == key && w.2 < ticket))

/-- Performs LDF on its word, which is full: the poison trap, the conflict, or the value; with take the word becomes empty
(12 R281, R282; 03 R81). -/
def ldfTake (x : LoadA) (p : Place) (s : State) : Perf :=
  let a := p.loc
  let r := s.wordRec a
  let c := (if r.synLive then r.syn else []).join r.eng
  if s.poisoned a then .now s (.fault ⟨6, p.tval 0, none⟩)
  else
    match s.clashAfter c a p.slice x.sx true with
    | some r => .now s (.fault (mmTrap (p.tval 0) x.sx r))
    | none =>
      let s := (s.joinClk c).synced
      let s := s.record a (s.accOf x.sx true)
      let v := s.dword a
      let s := if x.sx then
          let (c, s) := s.relFor
          (s.setFull a false).setRec a fun w => { w with take := c, eng := [] }
        else s.newEpoch
      .now s (.regs [.g x.d v])

/-- Performs LDF at a resolved address; `ticket` is its place in the word's wait list. -/
def ldfAt (x : LoadA) (a : SegA) (ticket : Option Nat) (s : State) : Perf :=
  match s.trans a x.sx false (b2n x.sx) with
  | .page w s => .later s (.page w)
  | .failed => .now s (.fault failTrap)
  | .lc => .now s (.fault (lcTrap a.seg))
  | .ok p =>
    let s := s.touchMe p.slice
    let key := p.loc / 8
    let n := ticket.getD s.order
    if s.full p.loc && s.firstAt key n true then ldfTake x p s
    else if ticket.isSome then .later s (.full key n)
    else .later s.stamp (.full key n)

/-- The address that an instruction which waits was resolved to at its issue (02 R64, R68), which stands in its shadow. -/
def State.resolved (s : State) (a : SegA) : State := s.upd fun t => { t with shadow := some { t.snap with dest := [a] } }

/-- That address. -/
def State.resolvedAt (s : State) : SegA := ((s.me.shadow.map (·.dest)).getD []).headD ⟨0, 0, 0, 0⟩

/-- Performs LDF with the registers and the address of its issue. -/
def perfLdf (x : LoadA) (ticket : Option Nat) (s : State) : Perf := ldfAt x s.resolvedAt ticket s

/-- LDF. -/
def execLdf (x : LoadA) (s : State) : Out1 := run s fun s =>
  let size := 2 ^ x.sz.toNat
  (serialise s).bind fun _ s =>
  (needRegs [x.base] s).bind fun _ s =>
  (accessGate s).bind fun _ s =>
  (syncGate s).bind fun _ s =>
  (segR x.seg (mAddr s x.base x.off size) size size (needRD + needSY + (if x.sx then needWR else 0)) x.sx s).bind
    fun a s =>
  if x.sz != 3 then illegalR 0 s
  else
    (verdictGate s).bind fun _ s =>
    (stageR a 8 s).bind fun a s =>
    (migrateGate (s.sliceNow a) s).bind fun _ s =>
    openPerf (.ldf x) x.look (mLen x.off) true true (ldfAt x a none (s.resolved a))

/-- STF performed on its word, which is empty: the word is written and becomes full; or it clashes and is not performed. -/
def State.stfPut (s : State) (p : Place) (x : Word) : State :=
  let a := p.loc
  let c := (s.wordRec a).take
  let s := s.spoil [p.key 0]
  match s.clashAfter c a p.slice true true with
  | some r => (((s.touchMe p.slice).newEpoch).synced).late (mmTrap (p.tval 0) true r) true
  | none =>
    let s := (s.joinClk c).synced
    let s := s.record a (s.accOf true true)
    let (c, s) := s.release false
    let s := ((s.putWord p 0xFF x).setFull a true).setRec a fun w =>
      { w with syn := w.syn.join c, synLive := true, take := [], eng := [] }
    (s.touchMe p.slice).foldMe [digBlock 0 p.space 255 p.digAddr x.toNat]

/-- Somebody with an earlier ticket waits for the word to become empty. -/
def State.stfWaiters (s : State) (key : Nat) : Bool :=
  s.threads.any fun t => match t.park with
    | some (.stf p _ _) => p.loc / 8 == key
    | _ => false

/-- STF: its FENCE, then the word's turn. -/
def execStf (x : StoreA) (s : State) : Out1 := run s fun s =>
  let size := 2 ^ x.sz.toNat
  (serialise s).bind fun _ s =>
  (needRegs [x.base, x.d] s).bind fun _ s =>
  (accessGate s).bind fun _ s =>
  (syncGate s).bind fun _ s =>
  (segR x.seg (mAddr s x.base x.off size) size size (needWR + needSY) true s).bind fun a s =>
  if x.sz != 3 then illegalR 0 s
  else
    (stageR a 8 s).bind fun a s =>
    (migrateGate (s.sliceNow a) s).bind fun _ s =>
    (fenceGate 5 s).bind fun _ s =>
    (transR (mLen x.off) a true false 1 s).bind fun p s =>
    if s.full p.loc || s.stfWaiters (p.loc / 8) then parkR (.stf p (s.me.gr x.d) (mLen x.off)) s
    else finish (mLen x.off) (s.stfPut p (s.me.gr x.d))

/-! ## Full/empty instructions (12 R283) -/

/-- The slice operand's offset. -/
def sliceOff (s : State) (x : SliceA) : Int := (s.me.gr x.a).toInt + x.off.toInt * 8

/-- The place of a full/empty instruction's word; a conflict is its late exception. -/
def feWord (x : SliceA) (write : Bool) (s : State) (k : Place → State → R Unit) : R Unit :=
  (serialise s).bind fun _ s =>
  (needRegs [x.a] s).bind fun _ s =>
  (accessGate s).bind fun _ s =>
  (segR x.seg (sliceOff s x) 8 8 ((if write then needWR else needRD) + needSY) write s).bind fun a s =>
  (if write then .ok () s else destOk x.d s).bind fun _ s =>
  (stageR a 8 s).bind fun a s =>
  (migrateGate (s.sliceNow a) s).bind fun _ s =>
  (transR 4 a write false (b2n write) s).bind fun p s =>
  match s.clash p.loc p.slice write true with
  | some r => finish 4 ((s.touchMe p.slice).late (mmTrap (p.tval 0) write r) true)
  | none => k p ((s.record p.loc (s.accOf write true)).touchMe p.slice)

/-- FESET. -/
def execFeset (x : SliceA) (s : State) : Out1 := run s fun s =>
  feWord x true s fun p s => finish 4 (s.setFull p.loc true)

/-- FECLR. -/
def execFeclr (x : SliceA) (s : State) : Out1 := run s fun s =>
  feWord x true s fun p s => finish 4 (s.setFull p.loc false)

/-- FEGET. -/
def execFeget (x : SliceA) (s : State) : Out1 := run s fun s =>
  feWord x false s fun p s => finish 4 (s.setG x.d (oneIf (s.full p.loc)))

/-! ## LDB and STB (12 R296) -/

/-- The checks of LDB and STB on their AB offset, and its place. -/
def ldbUnit (s : State) (e : Int) (store : Bool) : Chk :=
  if e % 256 ≠ 0 then .bad 4
  else if e < 0 || ((s.task s.me.task).absz * 4096 : Int) < e + 256 then .bad 3
  else
    match s.regionBad s.me ⟨1, 0, e.toNat, 0⟩ 256 store false with
    | some r => .bad r
    | none => .ok ⟨1, 0, e.toNat, 0⟩

/-- The resolved AB address of LDB or STB. -/
def ldbAddr (x : Alu) (store : Bool) (s : State) : R SegA :=
  (readB x.b s).bind fun b s =>
  match ldbUnit s ((s.me.gr x.a).toInt + b.toInt) store with
  | .bad r => segvR r 0 s
  | .ok a => stageR a 256 s

/-- The 256 bytes of a vector register. -/
def vbytes (x : VReg) : List Byte := bytesOfNat 256 x.toNat

/-- LDB. -/
def execLdb (x : Alu) (s : State) : Out1 := run s fun s =>
  let len := bLenS x.b
  (accessGate s).bind fun _ s =>
  (needRegs (x.a :: bRegs x.b) s).bind fun _ s =>
  (ldbAddr x false s).bind fun a s =>
  (homeGate s).bind fun _ s =>
  (specAccess a 256 false s).bind fun _ s =>
  (vgates [] [] (some x.d) true none s).bind fun _ s =>
  (transR len a false false 0 s).bind fun p s =>
  match s.load p 256 true with
  | .bad t s => .stop (lateShort len t s)
  | .val bs s => (wrV x.d (BitVec.allOnes 256) (BitVec.ofNat 2048 (natOfBytes bs)) s).bind fun _ s => finish len s

/-- STB. -/
def execStb (x : Alu) (s : State) : Out1 := run s fun s =>
  let len := bLenS x.b
  (accessGate s).bind fun _ s =>
  (needRegs (x.a :: bRegs x.b) s).bind fun _ s =>
  (ldbAddr x true s).bind fun a s =>
  (homeGate s).bind fun _ s =>
  (specAccess a 256 true s).bind fun _ s =>
  (vgates [] [x.d] none true none s).bind fun _ s =>
  (transR len a true false 1 s).bind fun p s =>
  (vtake [x.d] (lateShort len) s).bind fun l s =>
  finish len (s.stores [(p, (vbytes (vval l x.d)).map some)])

end Sys2Proof.Machine
end

