-- ==== Sys2Proof/Machine/Atomics.lean ====
section
/-!
DEFINITION. The atomics (12 R284, R285; 03 R90; 08 R210).
-/
namespace Sys2Proof.Machine

/-- What tells one atomic from another: its function on the old value and the operand, whether its old value is returned
signed, and its nondeterminism code, with whether destination g0 escapes it. -/
structure AmoOp where
  f : Nat → Nat → Nat → Nat
  signed : Bool := false
  code : Nat
  g0ok : Bool := false

/-- Size in bytes. -/
def amoSize (x : AmoA) : Nat := if x.dbl then 8 else 4

/-- The offset e. -/
def amoOff (s : State) (x : AmoA) : Int := (s.me.gr x.a).toInt + x.off.toInt

/-- A word that atomics of the task wrote enters its list, ascending by space, address and place (08 R214). -/
def insertAtom (x : Nat × Nat × Nat) : List (Nat × Nat × Nat) → List (Nat × Nat × Nat)
  | [] => [x]
  | y :: t =>
    if x = y then y :: t
    else if x.1 < y.1 || (x.1 == y.1 && (x.2.1 < y.2.1 || (x.2.1 == y.2.1 && x.2.2 < y.2.2))) then x :: y :: t
    else y :: insertAtom x t

/-- The atomic at its word, indivisibly: a clash or a poisoned word leaves it unperformed (03 R83, 12 R282).
One without .rel that rewrites the word ends the edge of an earlier release, with .acq too. [DEDUCED, log 14] -/
def amoPut (o : AmoOp) (x : AmoA) (v : Word) (p : Place) (s : State) : Perf :=
  let size := amoSize x
  let word := p.loc / 8 * 8
  let s := s.touchMe p.slice
  let r := s.wordRec word
  let c := if x.acq && r.synLive then r.syn else []
  match s.clashAfter c word p.slice true true with
  | some r => .now s (.fault (mmTrap (p.tval 0) true r))
  | none =>
    if s.poisoned word then .now s (.fault ⟨6, p.tval 0, none⟩)
    else
      let s := (if x.acq || x.rel then (s.joinClk c).synced else s).spoil [p.key 0]
      let s := s.record word (s.accOf true true)
      let s := if x.rel then
          let (c, s) := s.relFor
          s.setRec word fun w => { w with syn := w.syn.join c, synLive := true }
        else (if x.acq then s.newEpoch else s).plainWrite word
      let old := s.num p.loc size
      let s := if p.space = 0 then (s.keepOld word).sawFrom (p.key 0) s.tick else s
      let s := s.setNum p.loc size (o.f size old (v.toNat % 2 ^ (8 * size)))
      let s := s.setTask s.me.task fun k => { k with atoms := insertAtom (p.space, p.digAddr / 8 * 8, word) k.atoms }
      .now s (.regs [.g x.d (if o.signed then sx old (8 * size) else w64 old)])

/-- The atomic at a resolved address; `fenced` says that its implicit FENCE is over. -/
def amoAt (o : AmoOp) (x : AmoA) (v : Word) (a : SegA) (fenced : Bool) (s : State) : Perf :=
  if x.rel && !fenced && s.me.touched != 0 then .later s (.fence s.me.touched)
  else
    match s.trans a true false 1 with
    | .page w s => .later s (.page w)
    | .failed => .now s (.fault failTrap)
    | .lc => .now s (.fault (lcTrap a.seg))
    | .ok p => amoPut o x v p s

/-- The operand value as the shadow or the registers give it; a constant-window word was read at issue and stands as a literal. -/
def amoVal (b : BOp) (s : State) : Word :=
  match b with
  | .reg r => s.me.gr r
  | .cw n => s.dword (abBase s.me.vu + 8 * n.toNat)
  | .imm v => v.signExtend 64
  | .lit v => v

/-- Performs an atomic whose issue left it waiting, with the registers and the address of its issue. -/
def perfAmo (o : AmoOp) (x : AmoA) (s : State) : Perf := amoAt o x (amoVal x.b s) s.resolvedAt true s

/-- The issue of an atomic (12 R280, R285). -/
def amoIssue (mk : AmoA → Instr) (o : AmoOp) (x : AmoA) (s : State) : R Unit :=
  let size := amoSize x
  let sync := x.acq || x.rel
  (serialise s).bind fun _ s =>
  (needRegs (x.a :: x.cr :: bRegs x.b) s).bind fun _ s =>
  (accessGate s).bind fun _ s =>
  (if sync then syncGate s else .ok () s).bind fun _ s =>
  (readB x.b s).bind fun v s =>
  (segR x.seg (amoOff s x) size size (needRD + needWR + needSY) true s).bind fun a s =>
  if s.det s.me && !(o.g0ok && x.d == 0) then raiseR 7 (w64 o.code) s
  else
    (if sync then verdictGate s else .ok () s).bind fun _ s =>
    (if x.rel then accessesGate s else .ok () s).bind fun _ s =>
    (stageR a size s).bind fun a s =>
    (migrateGate (s.sliceNow a) s).bind fun _ s =>
    openPerf (mk { x with b := .lit v }) x.look (bLenX x.b) sync x.acq (amoAt o x v a false (s.resolved a))

/-- AMOADD. -/
def amoaddOp : AmoOp := { f := fun w o x => (o + x) % 2 ^ (8 * w), signed := false, code := 1, g0ok := true }
/-- AMOADD. -/
def execAmoadd (x : AmoA) (s : State) : Out1 := run s (amoIssue .amoadd amoaddOp x)
/-- AMOAND. -/
def amoandOp : AmoOp := { f := fun _ o x => Nat.land o x, signed := false, code := 1, g0ok := true }
/-- AMOAND. -/
def execAmoand (x : AmoA) (s : State) : Out1 := run s (amoIssue .amoand amoandOp x)
/-- AMOOR. -/
def amoorOp : AmoOp := { f := fun _ o x => Nat.lor o x, signed := false, code := 1, g0ok := true }
/-- AMOOR. -/
def execAmoor (x : AmoA) (s : State) : Out1 := run s (amoIssue .amoor amoorOp x)
/-- AMOXOR. -/
def amoxorOp : AmoOp := { f := fun _ o x => Nat.xor o x, signed := false, code := 1, g0ok := true }
/-- AMOXOR. -/
def execAmoxor (x : AmoA) (s : State) : Out1 := run s (amoIssue .amoxor amoxorOp x)
/-- AMOMIN. -/
def amominOp : AmoOp := { f := fun w o x => if sInt w o ≤ sInt w x then o else x, signed := true, code := 1, g0ok := true }
/-- AMOMIN. -/
def execAmomin (x : AmoA) (s : State) : Out1 := run s (amoIssue .amomin amominOp x)
/-- AMOMAX. -/
def amomaxOp : AmoOp := { f := fun w o x => if sInt w o ≤ sInt w x then x else o, signed := true, code := 1, g0ok := true }
/-- AMOMAX. -/
def execAmomax (x : AmoA) (s : State) : Out1 := run s (amoIssue .amomax amomaxOp x)
/-- AMOMINU. -/
def amominuOp : AmoOp := { f := fun _ o x => Nat.min o x, signed := false, code := 1, g0ok := true }
/-- AMOMINU. -/
def execAmominu (x : AmoA) (s : State) : Out1 := run s (amoIssue .amominu amominuOp x)
/-- AMOMAXU. -/
def amomaxuOp : AmoOp := { f := fun _ o x => Nat.max o x, signed := false, code := 1, g0ok := true }
/-- AMOMAXU. -/
def execAmomaxu (x : AmoA) (s : State) : Out1 := run s (amoIssue .amomaxu amomaxuOp x)
/-- AMOSWP. -/
def amoswpOp : AmoOp := { f := fun _ _ x => x, signed := false, code := 3, g0ok := false }
/-- AMOSWP. -/
def execAmoswp (x : AmoA) (s : State) : Out1 := run s (amoIssue .amoswp amoswpOp x)
/-- AMOFADD. -/
def amofaddOp : AmoOp := { f := fun _ o x => add32 o x, signed := false, code := 2, g0ok := false }
/-- AMOFADD. -/
def execAmofadd (x : AmoA) (s : State) : Out1 := run s (amoIssue .amofadd amofaddOp x)
/-- AMOCAS, whose compare value is gCR. -/
def amocasOp (cr : Word) : AmoOp :=
  { f := fun w o x => if o = cr.toNat % 2 ^ (8 * w) then x else o, code := 3 }
/-- AMOCAS. -/
def execAmocas (x : AmoA) (s : State) : Out1 := run s fun s => amoIssue .amocas (amocasOp (s.me.gr x.cr)) x s

end Sys2Proof.Machine
end

