-- ==== Sys2Proof/Machine/Quant.lean ====
section
/-!
DEFINITION. Narrow codes, frames, dither, quantisation and scales (04 R104 to R118).
-/
namespace Sys2Proof.Machine

/-! ## Exact dyadic numbers -/

/-- m × 2^e. -/
structure Dy where
  m : Int
  e : Int
deriving DecidableEq, Repr

/-- The significand at a smaller or equal exponent. -/
def Dy.at (x : Dy) (e : Int) : Int := x.m * 2 ^ (x.e - e).toNat

/-- Sum. -/
def Dy.add (x y : Dy) : Dy := let e := min x.e y.e; ⟨x.at e + y.at e, e⟩

/-- As a floating-point value. -/
def Dy.fp (x : Dy) : Fp := .fin (x.m < 0) x.m.natAbs x.e

/-- floor(log2 |x|) of a number that is not zero. -/
def Dy.log2 (x : Dy) : Int := x.e + bitLen x.m.natAbs - 1

/-- The nearest integer to m × 2^e, ties to even (04 R112). -/
def Dy.rne (x : Dy) : Int :=
  if 0 ≤ x.e then x.m * 2 ^ x.e.toNat
  else
    let r : Int := roundShift .rne false x.m.natAbs (-x.e).toNat
    if x.m < 0 then -r else r

/-! ## Formats -/

/-- The narrow formats, by the FMT code of a frame (04 R107). -/
inductive NFmt where
  | e4m3 | int8 | int4
deriving DecidableEq, Repr

/-- The format of a code; the others are invalid. -/
def nfmt? (c : Nat) : Option NFmt :=
  match c with | 1 => some .e4m3 | 2 => some .int8 | 3 => some .int4 | _ => none

/-- The NaN code (04 R105, R112). -/
def NFmt.nan : NFmt → Nat
  | .e4m3 => 0x7F | .int8 => 0x80 | .int4 => 0x8
/-- The largest number. -/
def NFmt.qmax : NFmt → Nat
  | .e4m3 => 448 | .int8 => 127 | .int4 => 7
/-- Bits of a code. -/
def NFmt.bits : NFmt → Nat
  | .int4 => 4 | _ => 8

/-- decode_e4m3 (04 R104). -/
def decE4 (c : Nat) : Option Dy :=
  let e := c / 8 % 16
  let m := c % 8
  if e = 15 && m = 7 then none
  else
    let x : Dy := if e = 0 then ⟨m, -9⟩ else ⟨8 + m, (e : Int) - 10⟩
    some (if c / 128 % 2 = 1 then ⟨-x.m, x.e⟩ else x)

/-- binade of a number (04 R112). -/
def binade (v : Dy) : Int := if v.m = 0 || v.log2 < -5 then -6 else min 8 v.log2

/-- rne_e4m3 (04 R112). -/
def rneE4 (v : Dy) : Nat :=
  let neg := if v.m < 0 then 128 else 0
  let a : Dy := ⟨v.m.natAbs, v.e⟩
  if v.m = 0 then 0
  else if 9 ≤ v.log2 then neg + 0x7E
  else
    let b := max (-6) v.log2
    let q := (Dy.rne ⟨a.m, a.e - (b - 3)⟩).toNat
    let code := (b + 6).toNat * 8 + q
    if q = 0 then 0 else neg + Nat.min code 0x7E

/-- The dither offset of index k: (2k − 127)/256. -/
def ditherOf (k : Nat) : Dy := ⟨2 * (k : Int) - 127, -8⟩

/-- A dither offset times ulp8 of a binade. -/
def ditherAt (k : Nat) (b : Int) : Dy := ⟨2 * (k : Int) - 127, b - 3 - 8⟩

/-- quant (04 R112): the code of an FP32 value under a format and a dither index. -/
def quantCode (f : NFmt) (y : Fp) (k : Nat) : Nat :=
  match y with
  | .nan => f.nan
  | .inf n =>
    match f with
    | .e4m3 => (if n then 128 else 0) + 0x7E
    | .int8 => if n then 0x81 else 0x7F
    | .int4 => if n then 0x9 else 0x7
  | .fin n m e =>
    let v : Dy := ⟨if n then -(m : Int) else m, e⟩
    match f with
    | .e4m3 =>
      let cand := rneE4 (v.add (ditherAt k (binade v)))
      let b := binade ((decE4 cand).getD ⟨0, 0⟩)
      if b = binade v then cand else rneE4 (v.add (ditherAt k b))
    | _ =>
      let q := (v.add (ditherOf k)).rne
      let q := max (-(f.qmax : Int)) (min (f.qmax : Int) q)
      (q % 2 ^ f.bits).toNat

/-- dequant (04 R112): the exact value of a code, none for a NaN code. -/
def dequant (f : NFmt) (code k : Nat) : Option Dy :=
  match f with
  | .e4m3 => (decE4 code).map fun v => v.add ⟨-(ditherAt k (binade v)).m, (ditherAt k (binade v)).e⟩
  | _ =>
    if code = f.nan then none
    else
      let c : Int := if code < 2 ^ (f.bits - 1) then code else (code : Int) - 2 ^ f.bits
      some (Dy.add ⟨c, 0⟩ ⟨-(ditherOf k).m, -8⟩)

/-! ## Frames -/

/-- A frame (04 R107): seed, origins, extents, steps and the logical dimension of each physical one, layout and format. -/
structure Frame where
  seed : Nat
  orig : List Int
  ext : List Nat
  step : List Int
  perm : List Nat
  layout : Nat
  fmt : NFmt
deriving DecidableEq, Repr

/-- A two's-complement field. -/
def sfield (x : Word) (hi lo : Nat) : Int := (BitVec.ofNat (hi + 1 - lo) (bits x hi lo)).toInt

/-- E of a physical dimension. -/
def Frame.size (f : Frame) (j : Nat) : Nat := f.ext.getD j 0 + 1

/-- The requirements of R106 and R110 on the extents. -/
def Frame.extOk (f : Frame) : Bool :=
  (f.fmt != .int4 || f.size 0 % 2 == 0) &&
  (match f.layout with
   | 0 => true
   | 1 => f.size 0 % (16 * (if f.fmt = .int4 then 8 else 4)) == 0 && f.size 1 % 16 == 0
   | _ => f.size 0 % 128 == 0 && f.size 1 % 128 == 0)

/-- Reads a frame descriptor; none where R108 refuses it. -/
def frameOf (ws : List Word) : Option Frame :=
  let d (i : Nat) : Word := ws.getD i 0
  match nfmt? (bits (d 3) 2 0) with
  | none => none
  | some fmt =>
    let f : Frame :=
      { seed := (d 0).toNat,
        orig := [sfield (d 1) 19 0, sfield (d 1) 39 20, sfield (d 1) 59 40, sfield (d 1) 63 60],
        ext := [bits (d 2) 19 0, bits (d 2) 39 20, bits (d 2) 59 40, bits (d 2) 63 60],
        step := [sfield (d 3) 39 32, sfield (d 3) 47 40, sfield (d 3) 55 48, sfield (d 3) 63 56],
        perm := [bits (d 3) 9 8, bits (d 3) 11 10, bits (d 3) 13 12, bits (d 3) 15 14],
        layout := bits (d 3) 5 4, fmt := fmt }
    if f.layout = 3 || bits (d 3) 31 16 != 0 || bits (d 3) 7 6 != 0 || bit (d 3) 3 || f.step.any (· == 0) ||
       !((List.range 4).all f.perm.contains) || !f.extOk then none
    else some f

/-- The element lies in the frame (04 R109). -/
def Frame.inside (f : Frame) (i : List Nat) : Bool := (List.range 4).all fun j => i.getD j 0 ≤ f.ext.getD j 0

/-- The logical coordinate of logical dimension `d` (04 R109). -/
def Frame.coord (f : Frame) (i : List Nat) (d : Nat) : Int :=
  match (List.range 4).find? fun j => f.perm.getD j 0 == d with
  | some j => f.orig.getD d 0 + f.step.getD d 1 * (i.getD j 0 : Nat)
  | none => 0

/-- mix (04 R112). -/
def mix (x : Nat) : Nat :=
  let x := Nat.xor x (x / 2 ^ 31)
  let x := x * 0x8F3A5C1E6D2B9A47 % 2 ^ 64
  let x := Nat.xor x (x / 2 ^ 27)
  let x := x * 0xB7E2914C3A5D6F29 % 2 ^ 64
  Nat.xor x (x / 2 ^ 33)

/-- The dither index of a seed and logical coordinates. -/
def ditherIdx (seed : Nat) (c0 c1 c2 c3 : Int) : Nat :=
  let packed := (c0 % 2 ^ 20).toNat + (c1 % 2 ^ 20).toNat * 2 ^ 20 + (c2 % 2 ^ 20).toNat * 2 ^ 40 +
    (c3 % 16).toNat * 2 ^ 60
  mix (Nat.xor packed seed) / 2 ^ 57

/-- The dither index of an element of a frame. -/
def Frame.dither (f : Frame) (i : List Nat) : Nat :=
  ditherIdx f.seed (f.coord i 0) (f.coord i 1) (f.coord i 2) (f.coord i 3)

/-- The element offset of a physical index (04 R110). -/
def Frame.offset (f : Frame) (i : List Nat) : Nat :=
  let i0 := i.getD 0 0
  let i1 := i.getD 1 0
  let e0 := f.size 0
  let e1 := f.size 1
  let h := i.getD 2 0 + f.size 2 * i.getD 3 0
  match f.layout with
  | 0 => i0 + e0 * (i1 + e1 * h)
  | 1 =>
    let g := if f.fmt = .int4 then 8 else 4
    let u := i0 / g
    g * (256 * (u / 16 + e0 / (16 * g) * (i1 / 16)) + 16 * (u % 16) + i1 % 16) + i0 % g + e0 * e1 * h
  | _ => 16384 * (i0 / 128 + e0 / 128 * (i1 / 128)) + 128 * (i1 % 128) + i0 % 128 + e0 * e1 * h

/-- The byte and the shift of an element's code in its tensor (04 R106). -/
def Frame.place (f : Frame) (i : List Nat) : Nat × Nat :=
  let o := f.offset i
  if f.fmt = .int4 then (o / 2, 4 * (o % 2)) else (o, 0)

/-- The code in a byte. -/
def NFmt.code (f : NFmt) (b : Byte) (sh : Nat) : Nat := b.toNat / 2 ^ sh % 2 ^ f.bits

/-! ## Scales (04 R113 to R116) -/

/-- A scale that gives codes a value: finite and greater than zero. -/
def scaleOk (s : Nat) : Bool :=
  match val32 s with
  | .fin n m _ => !n && m != 0
  | _ => false

/-- A quantising store of one element (04 R113, R114): x and the scale as FP32 bits. -/
def quantStore (f : NFmt) (x scale k : Nat) : Nat :=
  if !scaleOk scale then f.nan else quantCode f (val32 (rne32 ((val32 x).div (val32 scale)))) k

/-- A dequantising read of one code (04 R115). -/
def dequantRead (f : NFmt) (code scale k : Nat) : Nat :=
  match dequant f code k with
  | none => f32.qnan
  | some v => rne32 ((val32 scale).mul v.fp)

/-- qscale (04 R116) of the FP32 values of a strip or tile. -/
def qscale (f : NFmt) (xs : List Nat) : Nat :=
  let vs := xs.map val32
  if vs.any Fp.isNan then f32.qnan
  else
    match vs.foldl (fun a v => Fp.maxF a v.absF) (.fin false 0 0) with
    | .fin _ m e => if m = 0 then 0x3F800000 else rne32 ((Fp.fin false m e).div (.fin false f.qmax 0))
    | y => rne32 y

end Sys2Proof.Machine
end

