-- ==== Sys2Proof/Machine/Threads.lean ====
section
/-!
DEFINITION. Random generators, how a thread starts, levels and barriers, receive rings, time slices, and how threads and
vcores end (01 R22 to R38; 08 R214; 12 R288; 13 R337).
-/
namespace Sys2Proof.Machine

/-! ## Random generators (13 R337) -/

/-- Rotation of a 64-bit number to the left. -/
def rotl64 (x k : Nat) : Nat := x * 2 ^ k % 2 ^ 64 + x / 2 ^ (64 - k)

/-- The state as four numbers, s0 first. -/
structure Rng where
  s0 : Nat
  s1 : Nat
  s2 : Nat
  s3 : Nat
deriving DecidableEq, Repr

/-- Reads and writes the 256-bit state. -/
def Rng.of (x : BitVec 256) : Rng :=
  let n := x.toNat
  ⟨n % 2 ^ 64, n / 2 ^ 64 % 2 ^ 64, n / 2 ^ 128 % 2 ^ 64, n / 2 ^ 192⟩
def Rng.bits (r : Rng) : BitVec 256 := BitVec.ofNat 256 (r.s0 + r.s1 * 2 ^ 64 + r.s2 * 2 ^ 128 + r.s3 * 2 ^ 192)

/-- One step: the output and the next state. -/
def Rng.step (s : Rng) : Nat × Rng :=
  let r := (rotl64 ((s.s0 + s.s3) % 2 ^ 64) 23 + s.s0) % 2 ^ 64
  let t := s.s1 * 2 ^ 17 % 2 ^ 64
  let s2 := s.s2 ^^^ s.s0
  let s3 := s.s3 ^^^ s.s1
  let s1 := s.s1 ^^^ s2
  let s0 := s.s0 ^^^ s3
  (r, ⟨s0, s1, s2 ^^^ t, rotl64 s3 45⟩)

/-- Sums the states at the steps that a polynomial over GF(2) names. -/
def Rng.poly : Nat → Nat → Rng → Rng → Rng
  | 0, _, _, acc => acc
  | n + 1, p, s, acc =>
    Rng.poly n (p / 2) s.step.2 (if p % 2 = 1 then ⟨acc.s0 ^^^ s.s0, acc.s1 ^^^ s.s1, acc.s2 ^^^ s.s2, acc.s3 ^^^ s.s3⟩ else acc)

/-- Powers 2^(128 + i) of one step as polynomials modulo its characteristic polynomial. -/
def jumpPolys : List Nat :=
  [0x39abdc4529b1661ca9582618e03fc9aad5a61266f0c9392c180ec6d33cfd0aba,
   0xa23e49ee6f1a7a8da5a28cccb37dba5bccfc8ca2814de79e8cfe9bd9ab71d992,
   0xd4e9921bccb8090bca8a45310219dc675e38f4fbb6fcda721b2a94a672a48c05,
   0xee658f69deb5df26fa0587a90f71743834cd4cc8228d74acf30974a2b1dbbb71,
   0xd7aaaf48aa459c582573e3218d8bb7dad2c0d8e0c8a2fb9bb42bd4670583b289,
   0x8fd437c01abeab24d82be75b83dbc2d0cc7efdcfed1ac303f6a5ab84efb67883,
   0x7d16742eceb4d5abb0b87a330b854c8aedc8b8d02a22310bc85ee5171484f5a4,
   0x6533981804b420ea13c97c0891cab48a4157dc48443e35654298ba0e862a6007,
   0xa1ee335d14807ae0613b2ed9f0acc107edc28c89cb341660ee5f5a6f02dfe47c,
   0x799d469b2145a8a30531513e8e0ac7064b26f71c1fb1b47b5ec3050c6b43565a,
   0x6007bb31ec5a2964b6acd7be4906b73d7123f2290a1f413b34f0a6799020283e,
   0xec907801890a47ab7e42d6f54484049954fe6df4cff0db73aa0711c54877febd,
   0x964e9d188c16508ed8c4367e574ab1603ec263f5c999196e03833e601d82a673]

/-- The base state advanced by `gtid` × 2^128 steps. [DEDUCED, log 75] -/
def rngJump (base : BitVec 256) (gtid : Nat) : BitVec 256 :=
  ((jumpPolys.zip (List.range 13)).foldl (fun (s : Rng) x =>
    if gtid.testBit x.2 then Rng.poly 256 x.1 s ⟨0, 0, 0, 0⟩ else s) (Rng.of base)).bits

/-- B0 to B3. -/
def rngBase0 : BitVec 256 :=
  Rng.bits ⟨0x6A1CD3F40B975E28, 0x9E5247A3C61D08BF, 0x31F89C0ED4A27B56, 0xC7D02E69583FA1B4⟩

/-! ## Levels (01 R23, R24) -/

/-- The index of the virtual-core level. -/
def Task.vclIdx (k : Task) : Nat := ((k.levels.zip (List.range 8)).find? fun x => x.1.vcl).map (·.2) |>.getD 0

/-- T: launched threads of a vcore. -/
def Task.slots (k : Task) : Nat := (k.levels.drop (k.vclIdx + 1)).foldl (fun a l => a * l.count) 1

/-- Threads of one instance of level `n`. -/
def Task.inside (k : Task) (n : Nat) : Nat := (k.levels.drop (n + 1)).foldl (fun a l => a * l.count) 1

/-- Vcores of one instance of level `n` on this module. -/
def Task.vcInside (k : Task) (n : Nat) : Nat :=
  ((k.levels.take (k.vclIdx + 1)).drop (n + 1)).foldl (fun a l => a * l.count) 1

/-- Vcores of a gang (01 R28). -/
def Task.gangSize (k : Task) : Nat :=
  match (List.range k.levels.length).find? fun n => (k.levels.getD n ⟨false, false, 0, 0, 0⟩).gang with
  | some n => k.vcInside n
  | none => 1

/-- The number of gangs, and the gang of a vcore. -/
def Task.gangs (k : Task) : Nat := 1024 / Nat.max k.gangSize 1
def Task.gangOf (k : Task) (idx : Nat) : Nat := idx / Nat.max k.gangSize 1

/-- The vcores of a gang, ascending. -/
def Task.gangVcores (k : Task) (g : Nat) : List Nat := (List.range k.gangSize).map (· + g * k.gangSize)

/-- The task is executed serialised (08 R216). -/
def Task.inTurn (k : Task) : Bool := k.rerun || k.serial

/-- The instance of level `n` that holds launched thread number `i`; a peer-group level is one instance on this module. -/
def Task.instOf (k : Task) (n i : Nat) : Nat :=
  match k.levels[n]? with
  | some l => if l.domain = 5 then 0 else i / k.inside n
  | none => 0

/-- The launched threads of an instance on this module. -/
def Task.members (k : Task) (n inst : Nat) : List Nat :=
  match k.levels[n]? with
  | some l => if l.domain = 5 then List.range (1024 * k.slots) else (List.range (k.inside n)).map (· + inst * k.inside n)
  | none => []

/-- The number of a launched thread: vcore × T + slot. -/
def State.launchNo (s : State) (t : Thread) : Nat :=
  let k := s.task t.task
  t.vu % 1024 * k.slots + s.slotOf t

/-! ## Threads start (01 R22) -/

/-- The segment set of a slot. -/
def Task.segsFor (k : Task) (slot : Nat) : Vector Seg 8 :=
  let l := k.segs.getD (if k.perslot then slot else 0) []
  Vector.ofFn fun i => l.getD i.val {}

/-- A thread in the state of its start, before its first registers are given; the digest of its slot goes on (08 R213). -/
def State.fresh (s : State) (tid vu slot pslot : Nat) : Thread :=
  let k := s.task tid
  let v := s.vcore vu
  { uid := s.nextUid, task := tid, vu := vu, slot := slot, core := v.core, pslot := pslot, home := pslot,
    sg := k.segsFor slot, pc := k.entry, tvec := k.trapv, rng := rngJump rngBase0 (vu % 1024 * 8 + slot),
    rngBase := rngBase0, clock := k.clock, since := s.tick,
    dig := ((v.digs.find? fun x => x.1 == slot).map (·.2.1)).getD 0,
    folded := ((v.digs.find? fun x => x.1 == slot).map (·.2.2)).getD 0 }

/-- A launched thread. -/
def State.startThread (s : State) (tid vu slot pslot : Nat) : State :=
  let t := ((s.fresh tid vu slot pslot).wg 1 (w64 (vu % 1024 * 8 + slot))).wg 2 (s.task tid).arg
  { s with threads := s.threads ++ [t], nextUid := s.nextUid + 1 }

/-- A spawned child: PC and g1 to g6 from the message, g7 the sender. -/
def State.startChild (s : State) (tid vu slot pslot : Nat) (m : Msg) : State :=
  let t := s.fresh tid vu slot pslot
  let t := (List.range 6).foldl (fun (t : Thread) i => t.wg (BitVec.ofNat 5 (i + 1)) (m.words.getD (i + 2) 0)) t
  let t := (t.wg 7 (w64 (bits (m.words.getD 0 0) 12 0)))
  { s with threads := s.threads ++ [{ t with child := true, pc := m.words.getD 1 0, clock := t.clock.join m.clock }],
           nextUid := s.nextUid + 1 }

/-! ## Receive rings (01 R33 to R38) -/

/-- Entries of the ring. -/
def Task.ringE (k : Task) : Nat := 16 * 2 ^ k.ringlg

/-- Occupied entries. -/
def Vcore.ringUsed (v : Vcore) : Nat := (v.ringhd - v.ringtl).toNat

/-- Writes an entry at the head; `bnc` is the slot whose message a bounce brings back. -/
def State.ringPut (s : State) (vu : Nat) (ws : List Word) (clk : Clock) (bnc : Option Nat) : State :=
  let v := s.vcore vu
  let k := s.task v.task
  let a := abBase vu + k.ringoff + 64 * (v.ringhd.toNat % k.ringE)
  let s := (List.range 8).foldl (fun s i => s.setNum (a + 8 * i) 8 (ws.getD i 0).toNat) s
  s.setVcore vu fun v => { v with ringhd := v.ringhd + 1, ringClk := v.ringClk ++ [clk], ringBnc := v.ringBnc ++ [bnc] }

/-- Takes the entry at the tail: its eight doublewords and its clock. -/
def State.ringTake (s : State) (vu : Nat) : List Word × Clock × State :=
  let v := s.vcore vu
  let k := s.task v.task
  let a := abBase vu + k.ringoff + 64 * (v.ringtl.toNat % k.ringE)
  (s.dwords a 8, v.ringClk.headD [],
   s.setVcore vu fun v => { v with ringtl := v.ringtl + 1, ringClk := v.ringClk.tail, ringBnc := v.ringBnc.tail })

/-- A header (01 R33). -/
def msgHeader (words reason kind sender : Nat) : Word :=
  w64 (words * 2 ^ 20 + reason * 2 ^ 16 + kind * 2 ^ 14 + sender)

/-- The slot that sent a message. -/
def Msg.slot (m : Msg) : Nat := bits (m.words.getD 0 0) 2 0

/-- A bounce to the sending slot stands in its vcore's ring: it has one outstanding (01 R35). [DESIGN CHOICE, log 84] -/
def State.bounced (s : State) (m : Msg) : Bool := (s.vcore m.fromVu).ringBnc.contains (some m.slot)

/-- A bounce of a message goes to its sender's ring: KIND and REASON set, the rest as it was. -/
def State.bounce (s : State) (m : Msg) (reason : Nat) : State :=
  let h := m.words.getD 0 0
  let h' := msgHeader (bits h 23 20) reason (bits h 15 14 + 2) (bits h 12 0)
  match s.vcore? m.fromVu with
  | some _ => s.ringPut m.fromVu (h' :: m.words.drop 1) m.clock (some m.slot)
  | none => s

/-! ## Time slices (01 R26, R27; 21 R447) -/

/-- The mode's code. -/
def Mode.code : Mode → Nat
  | .sole => 0
  | .partitioned => 1
  | .sliced => 2

/-- Writes the remap entry of a placed vcore on its die, and clears it on the other. -/
def State.remap (s : State) (vu : Nat) : State :=
  let v := s.vcore vu
  let k := s.task v.task
  let die := v.core / 1024 % 2
  let slots := v.pslots.foldl (fun a i => a + 2 ^ (i % 8)) 0
  let dw0 := 2 ^ 63 + v.mode.code * 2 ^ 61 + b2n v.resident * 2 ^ 60 + v.core / 16 % 64 * 2 ^ 54 + v.core % 16 * 2 ^ 50 +
    slots * 2 ^ 42 + k.tag.toNat
  let dw1 := v.abb * 2 ^ 58 + v.wbb * 2 ^ 54 + v.acb * 2 ^ 53 + v.ptb * 2 ^ 52
  let at0 (d : Nat) := (s.die d).remapBase + 2 ^ 14 * k.pos + 16 * v.idx
  let s := if v.placed then (s.setNum (at0 die) 8 dw0).setNum (at0 die + 8) 8 dw1 else s.setNum (at0 die) 8 0
  s.setNum (at0 (1 - die)) 8 0

/-! ## What a core hosts (01 R26, R32) -/

/-- The vcores that a core hosts: placed there and not ended. -/
def State.onCore (s : State) (core : Nat) : List Vcore := s.vcores.filter fun v => v.placed && !v.ended && v.core == core

/-- Writes identity word `n` of a vcore. -/
def State.setIdent (s : State) (vu n x : Nat) : State := s.setNum (abBase vu + 8 * n) 8 x

/-- PHYSPOS, zero in a deterministic task. -/
def State.physPos (s : State) (k : Task) (v : Vcore) : Nat :=
  if k.det then 0
  else 1 + v.core / 1024 % 2 * 2 + v.core / 16 % 64 * 4 + v.core % 16 * 2 ^ 8 + v.mode.code * 2 ^ 12 +
    (s.onCore v.core).length % 256 * 2 ^ 16

/-- Vcores have come to cores or left them: PHYSPOS of those there tells how many are hosted now. -/
def State.recount (s : State) (cores : List Nat) : State :=
  (s.vcores.filter fun v => v.placed && !v.ended && cores.contains v.core).foldl
    (fun s v => s.setIdent v.vu 253 (s.physPos (s.task v.task) v)) s

/-! ## Save areas (01 R27; 20 R417) -/

/-- The parts of a save area that are not AB, by offset and size: a typed buffer that the launch record does not declare is not
written. -/
def Task.savedParts (k : Task) : List (Nat × Nat) :=
  [(0, 0x1000), (0x1000, 0x20000), (0x21000, 0x30000)] ++ (if k.nwb = 0 then [] else [(0x51000, 0x40000)]) ++
  (if k.nacc = 0 then [] else [(0xC1000, 0x10000 * k.nacc)]) ++ (if k.npt = 0 then [] else [(0xE1000, 0x8000 * k.npt)]) ++
  [(0xF1000, 0x40000)]

/-- The bytes of a vcore's AB from an offset on, 4 KiB of them, at a place of memory. -/
def State.abBytes (s : State) (vu off a : Nat) : List Host.Cell :=
  let b := abBase vu + off
  (s.mem.filter fun x => decide (b ≤ x.1) && decide (x.1 < b + 4096)).map fun x => (a + (x.1 - b), x.2)

/-- The 4 KiB blocks that saving a vcore writes, by offset in its save area, each with its bytes at a place. -/
def State.savedBlocks (s : State) (k : Task) (v : Vcore) : List (Nat × (Nat → List Host.Cell)) :=
  (k.savedParts.flatMap fun p => (List.range (p.2 / 4096)).map fun i =>
    let off := p.1 + 4096 * i
    (off, fun a => (List.range 4096).map fun j => (a + j, Config.savedByte s.tick (off + j)))) ++
  (List.range k.absz).map fun i => (0x91000 + 4096 * i, fun a => s.abBytes v.vu (4096 * i) a)

/-- Writes a vcore's save area, at SAVE + v × 2 MiB; a page that is not mapped is left out. The model keeps what it restores beside
memory. [DESIGN CHOICE, log 64] -/
def State.saveVcore (s : State) (vu : Nat) : State :=
  let v := s.vcore vu
  let k := s.task v.task
  (s.savedBlocks k v).foldl (fun (z : State) y =>
    match s.xlate (v.core / 1024 % 2) k.fn (k.save + v.idx * 2 ^ 21 + y.1) true with
    | .fault _ => z
    | .ok p _ =>
      let a := p.loc
      let out (w : Nat) : Bool := 8 * w < a || a + 4096 ≤ 8 * w
      { z with mem := putRange z.mem a 4096 (y.2 a), empty := z.empty.filter out, poison := z.poison.filter out }) s

/-! ## Barriers and switch points (12 R288; 01 R26 to R28) -/

/-- The barrier of a level instance. -/
def Task.barOf (k : Task) (n inst : Nat) : BarSt :=
  (k.bars.find? fun b => b.level == n && b.inst == inst).getD { level := n, inst := inst, arrived := [] }

/-- Puts it back. -/
def Task.setBar (k : Task) (b : BarSt) : Task :=
  { k with bars := b :: k.bars.filter fun x => !(x.level == b.level && x.inst == b.inst) }

/-- A thread stands at a BAR that has not completed. -/
def State.atBarrier (s : State) (t : Thread) : Bool :=
  match t.park with
  | some (.bar l i gen) => gen == ((s.task t.task).barOf l i).gen
  | _ => false

/-- A launched thread: no child, no work item, no lane. -/
def Thread.launched (t : Thread) : Bool := t.fw.isNone && !t.child && t.item.isNone && t.lane.isNone

/-- The vcore stands at a switch point: its launched threads that have not halted have all arrived at BARs (01 R27). -/
def State.atSwitch (s : State) (v : Vcore) : Bool :=
  let l := s.threads.filter fun t => t.vu == v.vu && t.launched
  l != [] && l.all s.atBarrier

/-- The vcores of a vcore's gang that have not ended: they come and go together (01 R28). -/
def State.mates (s : State) (v : Vcore) : List Vcore :=
  let k := s.task v.task
  s.vcores.filter fun w => w.task == v.task && w.placed && !w.ended && k.gangOf w.idx == k.gangOf v.idx

/-- The time-sliced vcores of a core that have not ended; those of a serialised task have turns of their own (08 R216). -/
def State.hosted (s : State) (core : Nat) : List Vcore :=
  s.vcores.filter fun v => v.placed && !v.ended && v.core == core && v.mode == .sliced && !(s.task v.task).inTurn

/-- Puts a vcore in ascending index. -/
def insertVc (v : Vcore) : List Vcore → List Vcore
  | [] => [v]
  | x :: l => if v.idx < x.idx then v :: x :: l else x :: insertVc v l

/-- The hosted vcores of a core in the order of their turns after index `i`: ascending, and again from the lowest. [DESIGN CHOICE, log 77] -/
def State.turnsAfter (s : State) (core i : Nat) : List Vcore :=
  let l := (s.hosted core).foldr insertVc []
  (l.filter fun v => i < v.idx) ++ l.filter fun v => v.idx ≤ i

/-- The resident vcores in the way of a gang. -/
def State.inWay (s : State) (v : Vcore) : List Vcore :=
  let cores := (s.mates v).map (·.core)
  (cores.eraseDups.flatMap s.hosted).filter fun w => w.resident && !(s.mates v).any fun x => x.vu == w.vu

/-- A gang's turn has come: it is not resident, not every vcore of it stands at a BAR, and every gang in its way stands at a
switch point, or is the one that `leaving` belongs to. -/
def State.mayCome (s : State) (leaving : Option Vcore) (v : Vcore) : Bool :=
  let goes (w : Vcore) : Bool := (s.mates w).all fun x => s.atSwitch x || (leaving.map (·.vu)) == some x.vu
  !v.resident && (s.mates v).any (fun x => !s.atSwitch x) && (s.inWay v).all goes

/-- A gang becomes resident, and those in its way are saved and leave their cores (01 R27). -/
def State.comeIn (s : State) (v : Vcore) : State :=
  let out := (s.inWay v).flatMap s.mates
  let inn := s.mates v
  let s := out.foldl (fun s w => ((s.saveVcore w.vu).setVcore w.vu fun x => { x with resident := false }).remap w.vu) s
  inn.foldl (fun s w => (s.setVcore w.vu fun x => { x with resident := true }).remap w.vu) s

/-- The next vcore in turn on a core comes, if one may. -/
def State.nextOn (s : State) (leaving : Option Vcore) (core i : Nat) : State :=
  match (s.turnsAfter core i).find? (s.mayCome leaving) with
  | some v => s.comeIn v
  | none => s

/-- Gangs whose turn has come in the meantime come: where a core has no resident vcore, or only such as stand at BARs. -/
def State.refill (s : State) : State :=
  (s.vcores.filter fun v => v.placed && !v.ended && v.mode == .sliced && !v.resident && !(s.task v.task).inTurn).foldl
    (fun s v => if s.mayCome none ((s.vcore? v.vu).getD v) then s.comeIn v else s) s

/-- A switch point: a resident time-sliced vcore leaves its core to the next one, with its gang where all of it stands at a switch
point (01 R27, R28). [DESIGN CHOICE, log 85] -/
def State.switchPoint (s : State) (vu : Nat) : State :=
  let v := s.vcore vu
  if v.mode != .sliced || !v.resident || (s.task v.task).inTurn then s
  else if (s.mates v).all fun x => x.vu == vu || s.atSwitch x then (s.nextOn (some v) v.core v.idx).refill
  else s

/-- A vcore's arrival at a BAR is complete: its members of the instance that have not halted have all arrived. -/
def State.arrivedAll (s : State) (vu level inst : Nat) : Bool :=
  let k := s.task (s.vcore vu).task
  (s.threads.filter fun t => t.vu == vu && t.launched).all fun t =>
    k.instOf level (s.launchNo t) != inst || (match t.park with | some (.bar l i _) => l == level && i == inst | _ => false)

/-- A launched thread has halted. -/
def State.haltedNo (s : State) (k : Task) (i : Nat) : Bool :=
  match s.vcore? (k.tid * 1024 + i / Nat.max k.slots 1) with
  | some v => v.ended || v.halted.any fun x => x.1 == i % Nat.max k.slots 1
  | none => false

/-- What a launched thread released when it halted. -/
def State.haltClk (s : State) (k : Task) (i : Nat) : Clock :=
  match s.vcore? (k.tid * 1024 + i / Nat.max k.slots 1) with
  | some v => ((v.halted.find? fun x => x.1 == i % Nat.max k.slots 1).map (·.2)).getD []
  | none => []

/-- COUNT of the peer-group level, or 0. -/
def Task.peers (k : Task) : Nat := match k.levels.head? with | some l => if l.domain = 5 then l.count else 0 | none => 0

/-- Level `n` is a peer-group level. -/
def Task.overModules (k : Task) (n : Nat) : Bool := (k.levels[n]?).any fun l => l.domain = 5

/-- At a peer-group level, the members on every other module have arrived once more than the barrier has completed. -/
def Task.peersHere (k : Task) (n : Nat) (b : BarSt) : Bool :=
  !k.overModules n || (List.range k.peers).all fun p => p == k.peerix || b.peers.any fun x => x.1 == p && b.gen < x.2

/-- The number under which the device knows a thread of a peer module. [DESIGN CHOICE, log 94] -/
def peerNo (peer gtid : Nat) : Nat := 2 ^ 64 + peer * 2 ^ 13 + gtid

/-- What is known of a peer module's thread is known of the threads of its module: a barrier over modules joins clocks both ways. -/
def State.joinPeers (s : State) (k : Task) (c : Clock) : State :=
  { s with peers := s.peers.map fun x =>
      if (List.range k.peers).any fun p => p != k.peerix && peerNo p 0 ≤ x.1 && x.1 < peerNo (p + 1) 0 then (x.1, x.2.join c) else x }

/-- Completes a barrier when every member has arrived or halted: the halted ones count as having arrived when they halted. At a
peer-group level this module's arrival is reported and the other modules' are waited for (12 R288). [DEDUCED, log 20] -/
def State.barCheck (s : State) (tid n inst : Nat) : State :=
  let k := s.task tid
  let b := k.barOf n inst
  if b.arrived = [] then s
  else if (k.members n inst).all fun i => b.arrived.contains i || s.haltedNo k i then
    let b := { b with told := if k.overModules n then b.gen + 1 else b.told }
    let s := if k.overModules n && (k.barOf n inst).told ≤ b.gen then { s with out := .arrived tid n :: s.out } else s
    if k.peersHere n b then
      let c := ((k.members n inst).filter fun i => !b.arrived.contains i).foldl (fun c i => c.join (s.haltClk k i)) b.clock
      let s := if k.overModules n then s.joinPeers k c else s
      (s.setTask tid fun k => k.setBar { b with arrived := [], gen := b.gen + 1, clock := [], last := c }).refill
    else s.setTask tid fun k => k.setBar b
  else s

/-- A member arrives with its clock. -/
def State.barArrive (s : State) (tid n inst i : Nat) (c : Clock) : State :=
  let b := (s.task tid).barOf n inst
  (s.setTask tid fun k => k.setBar { b with arrived := i :: b.arrived, clock := b.clock.join c }).barCheck tid n inst

/-- Checks every barrier of a task, after a member has halted. -/
def State.barAll (s : State) (tid : Nat) : State :=
  (s.task tid).bars.foldl (fun s b => s.barCheck tid b.level b.inst) s

/-! ## Threads end (11 R267; 08 R214) -/

/-- The close block of a vcore. -/
def closeBlock (idx slots : Nat) : Dig := BitVec.ofNat 128 (3 * 2 ^ 126 + slots * 2 ^ 16 + idx)

/-- The digest of a vcore. -/
def Vcore.digest (v : Vcore) (slots : Nat) : Dig :=
  let h (i : Nat) : Dig := ((v.digs.find? fun x => x.1 == i).map (·.2.1)).getD 0
  foldBlk ((List.range slots).foldl (fun a i => foldBlk a (h i)) 0) (closeBlock v.idx slots)

/-- The vcore ends with its last thread. -/
def State.vcoreEnd (s : State) (vu : Nat) : State :=
  if s.threads.any fun t => t.vu == vu && t.fw.isNone then s
  else
    let v := s.vcore vu
    let slots := (s.task v.task).slots
    let s := (s.setVcore vu fun v => { v with ended := true, resident := false, vdig := v.digest slots, flumes := [] }).recount [v.core]
    if v.mode != .sliced || (s.task v.task).inTurn then s else (s.nextOn none v.core v.idx).refill

/-- The current thread leaves its slot; barriers count it as arrived from now on. -/
def State.endThread (s : State) : State :=
  let t := s.me
  let c := s.agentT.relClock t false
  let b := s.agentT.relClock t true
  let s := { s with threads := s.threads.filter fun x => x.uid != t.uid, cur := none }
  let s := s.setTask t.task fun k => { k with endClk := k.endClk.join c, uids := t.uid :: k.uids }
  let s := s.setVcore t.vu fun v =>
    { v with digs := (t.slot, t.dig, t.folded) :: v.digs.filter fun x => x.1 != t.slot,
             halted := if t.child || t.item.isSome then v.halted else (t.slot, b) :: v.halted }
  (s.vcoreEnd t.vu).barAll t.task

/-! ## Free slots -/

/-- The logical slots of a vcore that no thread and no lane holds. A spawned child takes one of T to 7 (01 R25). -/
def State.freeLogical (s : State) (vu : Nat) : List Nat :=
  (List.range 8).filter fun i => !(s.threads.any fun t => t.vu == vu && t.slot == i)

/-- Those of them that a spawned child may take. -/
def State.childLogical (s : State) (vu : Nat) : List Nat :=
  (s.freeLogical vu).filter fun i => (s.task (s.vcore vu).task).slots ≤ i

/-- Another vcore of a core runs there at the same time as a vcore. -/
def State.besides (s : State) (v w : Vcore) : Bool :=
  w.vu != v.vu && w.placed && !w.ended && w.core == v.core &&
  (w.mode != .sliced || (w.task == v.task && (s.task v.task).gangOf w.idx == (s.task v.task).gangOf v.idx))

/-- The physical slots of a vcore's core that it may use: its own, and those that belong to no vcore beside it. -/
def State.freePhysical (s : State) (vu : Nat) : List Nat :=
  let v := s.vcore vu
  (s.freeSlots v.core).filter fun i => v.pslots.contains i || !(s.vcores.any fun w => s.besides v w && w.pslots.contains i)

end Sys2Proof.Machine
end

