-- ==== Sys2Proof/Machine/Sync.lean ====
section
/-!
DEFINITION. FENCE, BAR, SBAR, flumes, runnels, messages, spawns and the segment instructions (12 R286 to R295), with the
arrivals that answer them.
-/
namespace Sys2Proof.Machine

/-! ## FENCE -/

/-- The number of a scope. -/
def scopeNum : Scope → Nat
  | .thread => 0
  | .core => 1
  | .cluster => 2
  | .die => 3
  | .package => 4
  | .system => 5

/-- FENCE: parks for the echoes, and ends the region (12 R287, 03 R88). -/
def execFence (sc : Scope) (s : State) : Out1 := run s fun s =>
  (serialise s).bind fun _ s =>
  (syncGate s).bind fun _ s =>
  (fenceGate (scopeNum sc) s).bind fun _ s => finish 4 s.newEpoch.synced

/-! ## BAR and SBAR -/

/-- The scope of a level. -/
def Task.scopeOf (k : Task) (n : Nat) : Nat := ((k.levels[n]?).map (·.scope)).getD 0

/-- BAR: arrives after its FENCE, and parks until the last member has (12 R288). The switch point of a vcore with several threads
is the arrival of the last of them that the instance waits for (01 R27). [DESIGN CHOICE, log 85] -/
def execBar (n : BitVec 3) (s : State) : Out1 := run s fun s =>
  (serialise s).bind fun _ s =>
  (syncGate s).bind fun _ s =>
  let k := s.task s.me.task
  if k.levels.length ≤ n.toNat || s.me.child || s.me.item.isSome then illegalR (w64 n.toNat) s
  else
    (fenceGate (k.scopeOf n.toNat) s).bind fun _ s =>
    let i := s.launchNo s.me
    let inst := k.instOf n.toNat i
    let gen := (k.barOf n.toNat inst).gen
    let (c, s) := s.release true
    let vu := s.me.vu
    let s := (s.parkMe (.bar n.toNat inst gen)).barArrive s.me.task n.toNat inst i c
    .stop (if s.arrivedAll vu n.toNat inst then s.switchPoint vu else s)

/-- Joins a clock into the k-th element of a list of clocks. -/
def joinAt : List Clock → Nat → Clock → List Clock
  | [], 0, c => [c]
  | [], k + 1, c => [] :: joinAt [] k c
  | x :: t, 0, c => x.join c :: t
  | x :: t, k + 1, c => x :: joinAt t k c

/-- SBAR: one more stage of the thread (12 R289, 02 R65 to R67). -/
def execSbar (n : BitVec 3) (s : State) : Out1 := run s fun s =>
  (serialise s).bind fun _ s =>
  (syncGate s).bind fun _ s =>
  (homeGate s).bind fun _ s =>
  (verdictGate s).bind fun _ s =>
  let slot := s.slotOf s.me
  match (s.vcore s.me.vu).flumes.find? fun f => f.f == n.toNat with
  | none => illegalR (w64 n.toNat) s
  | some f =>
    if !f.member slot then illegalR (w64 n.toNat) s
    else
      let (c, s) := s.synced.release true
      let k := f.count[slot % 8]
      let f' := { f with count := f.count.set (slot % 8) (k + 1),
                         pub := if f.pmask.toNat.testBit slot then joinAt f.pub k c else f.pub,
                         rel := if f.cmask.toNat.testBit slot then joinAt f.rel k c else f.rel }
      let s := s.setVcore s.me.vu fun v => { v with flumes := v.flumes.map fun x => if x.f == f.f then f' else x }
      let s := s.updT s.me.agent fun t => { t with spt := t.spt.set n.toNat (t.spt[n.toNat]'(n.isLt) + 1) (n.isLt) }
      let vu := s.me.vu
      (finish 4 s).bind fun _ s => .ok () (s.switchPoint vu)

/-! ## FLUME -/

/-- The flume that a descriptor names (02 R63). -/
def flumeOf (f : Nat) (d : Word) : Flume :=
  { f := f, cmask := BitVec.ofNat 8 (bits d 51 44), pmask := BitVec.ofNat 8 (bits d 43 36), dist := bits d 35 32 + 1,
    nstg := bits d 31 28 + 1, stg := bits d 27 18 * 256, base := bits d 17 0 }

/-- A flume may be bound (02 R64). -/
def State.flumeOk (s : State) (vu f : Nat) (d : Word) : Bool :=
  let v := s.vcore vu
  let k := s.task v.task
  let x := flumeOf f d
  bits d 63 52 == 0 && bits d 31 28 != 0 && bits d 27 18 != 0 && x.base % 256 == 0 && x.dist ≤ x.nstg &&
  x.pmask != 0 && x.cmask != 0 && x.pmask &&& x.cmask == 0 &&
  2048 ≤ x.base && x.base + x.size ≤ k.absz * 4096 &&
  (x.base + x.size ≤ k.ringoff || k.ringoff + 64 * k.ringE ≤ x.base) &&
  (v.flumes.all fun y => x.base + x.size ≤ y.base || y.base + y.size ≤ x.base) &&
  f < k.flumes && !(v.flumes.any fun y => y.f == f)

/-- Something that was resolved against a flume is outstanding (02 R64): an engine command, a matrix instruction or fill, an LDF
or atomic that waits, an STF of a full word. -/
def State.flumeBusy (s : State) (vu f : Nat) : Bool :=
  (s.cmds.any fun c => c.vu == vu && c.st != .finished && c.flumes.contains f) ||
  (match (s.vcore vu).flumes.find? fun y => y.f == f with
   | none => false
   | some y =>
     let hit (l : List SegA) : Bool := l.any fun a => a.space == 1 && y.base ≤ a.addr && a.addr < y.base + y.size
     (s.matq.any fun m => m.vu == vu && !m.performed && hit (m.a ++ m.b)) ||
     (s.fills.any fun m => m.vu == vu && hit (m.m.a ++ m.m.b)) ||
     s.threads.any fun t => t.vu == vu &&
       ((t.windows.any fun w => match w.res with | .wait (.defer _ _ sh) => hit sh.dest | _ => false) ||
        (match t.park with | some (.stf p _ _) => hit [⟨p.space, 0, p.addr, 0⟩] | _ => false)))

/-- FLUME binds or releases (12 R290); the release of a flume that is not bound does nothing. [DESIGN CHOICE, log 86] -/
def execFlume (f : BitVec 3) (a : R5) (s : State) : Out1 := run s fun s =>
  (serialise s).bind fun _ s =>
  (needRegs [a] s).bind fun _ s =>
  (homeGate s).bind fun _ s =>
  let d := s.me.gr a
  let vu := s.me.vu
  if d = 0 then
    if s.flumeBusy vu f.toNat then parkR (.flume f.toNat none) s
    else finish 4 (s.setVcore vu fun v => { v with flumes := v.flumes.filter fun y => y.f != f.toNat })
  else if !s.flumeOk vu f.toNat d then illegalR (w64 f.toNat) s
  else
    let x := flumeOf f.toNat d
    let s := s.setVcore vu fun v => { v with flumes := v.flumes ++ [x] }
    finish 4 { s with threads := s.threads.map fun t =>
      if t.vu == vu && x.member t.slot then { t with spt := t.spt.set f.toNat 0 (f.isLt) } else t }

/-! ## BIND and UNBIND -/

/-- The runnel that a stream descriptor gives (02 R70). -/
def runnelOf (v : Nat) (ws : List Word) : Runnel :=
  let d0 := ws.getD 0 0
  let d1 := ws.getD 1 0
  let stride (i : Nat) : Int := (BitVec.ofNat 32 (bits (ws.getD (2 + i / 2) 0) (32 * (i % 2) + 31) (32 * (i % 2)))).toInt
  { v := v, fresh := bit d0 57, write := bit d0 56, ab := bit d0 55, seg := bits d0 54 52, base := bits d0 51 0,
    counts := (List.range 4).map fun i => bits d1 (16 * i + 15) (16 * i),
    strides := (List.range 4).map stride }

/-- A stream descriptor that R70 takes. -/
def streamOk (t : Thread) (d0 : Word) (r : Runnel) : Bool :=
  bits d0 63 58 == 0 && !(r.ab && r.seg != 0) && r.counts.all (· != 0) &&
  (r.ab || bit (t.sg[r.seg % 8]).hi 59)

/-- Runnels bound on a core. -/
def State.runnelsOn (s : State) (core : Nat) : Nat :=
  (s.threads.filter fun t => t.core == core).foldl (fun n t => n + t.runnels.length) 0

/-- BIND (12 R291). The stream's segment register is taken as it stands at each element, not as it stood at BIND. [DESIGN CHOICE, log 87] -/
def execBind (d a : R5) (seg : BitVec 3) (s : State) : Out1 := run s fun s =>
  (serialise s).bind fun _ s =>
  (needRegs [a] s).bind fun _ s =>
  (accessGate s).bind fun _ s =>
  (segR seg (s.me.gr a).toInt 32 32 needRD false s).bind fun x s =>
  (stageR x 32 s).bind fun x s =>
  (homeGate s).bind fun _ s =>
  if d.toNat < 24 || (s.me.runnel d.toNat).isSome then illegalR 0 s
  else
    (transR 4 x false true 0 s).bind fun p s =>
    let (ws, bad, s) := s.recBoth p 4
    let r := runnelOf d.toNat ws
    if !streamOk s.me (ws.getD 0 0) r || 16 ≤ s.runnelsOn s.me.core then illegalR 0 s
    else match bad with
      | some t => .stop (lateShort 4 t s)
      | none => finish 4 (s.upd fun t => { (t.wv d 0) with runnels := t.runnels ++ [r] })

/-- UNBIND waits until every pushed element has been stored; the register then reads zero. -/
def execUnbind (d : R5) (s : State) : Out1 := run s fun s =>
  (serialise s).bind fun _ s =>
  (homeGate s).bind fun _ s =>
  match s.me.runnel d.toNat with
  | none => illegalR 0 s
  | some y =>
    if y.pushed != [] then parkR (.runnel d.toNat true) s
    else finish 4 (s.upd fun t => { (t.wv d 0) with runnels := t.runnels.filter fun x => x.v != d.toNat })

/-! ## Messages -/

/-- Sends a message of the current thread. -/
def State.sendMsg (s : State) (m : Msg) : State :=
  let u := s.me.agent
  (s.updT u fun t => { t with msg := some m }) |> fun s => { s with msgs := s.msgs ++ [(u, m)] }

/-- A word of a vector register. -/
def vword (x : VReg) (i : Nat) : Word := w64 (x.toNat / 2 ^ (64 * i) % 2 ^ 64)

/-- A speculative lane holds an instruction until it is accepted, and goes on (07 R200); `desc` holds the words that it has
read at its issue. -/
def holdHere (i : Instr) (len : Nat) (desc : List Word) (s : State) : R Unit :=
  .ok () ((s.upd fun t =>
    { t with lane := t.lane.map fun l => { l with held := l.held ++ [⟨i, t.pc, t.seq, { t.snap with desc := desc }⟩] } }).retire
    len)

/-- A guess routine ends at an engine command, a message or a spawn (07 R192). -/
def guessEnds (s : State) : R Unit := if s.me.guessing then .stop s.hold else .ok () s

/-- What MSEND and SPAWN have in common: their checks, their FENCE, and the message sent (12 R293). -/
def sendOp (i : Instr) (d a : R5) (k : VReg → Clock → State → State) (s : State) : R Unit :=
  (guessEnds s).bind fun _ s =>
  (needRegs [a] s).bind fun _ s =>
  (accessGate s).bind fun _ s =>
  (syncGate s).bind fun _ s =>
  if 1024 ≤ (s.me.gr a).toNat then illegalR (s.me.gr a) s
  else if s.me.spec then holdHere i 4 [] s
  else if s.agentT.msg.isSome then parkR .message s
  else
    (fenceGate 5 s).bind fun _ s =>
    (vopnds [] [d] none true none (lateShort 4) s).bind fun l s =>
    let (c, s) := s.synced.release false
    finish 4 (k (vval l d) c s)

/-- The target vcore's number, of the sender's task. -/
def State.targetVu (s : State) (x : Word) : Nat := s.me.task * 1024 + x.toNat

/-- MSEND. -/
def execMsend (d a : R5) (n : BitVec 3) (s : State) : Out1 := run s <| sendOp (.msend d a n) d a fun v c s =>
  s.sendMsg
    { fromVu := s.me.vu, target := s.targetVu (s.me.gr a), spawn := false, clock := c,
      words := msgHeader n.toNat 0 0 s.agentT.gtid ::
        (List.range 7).map fun k => if k < n.toNat then vword v k else 0 }

/-- SPAWN; in a deterministic task it bounces at once with INLINE (01 R36), or where the slot has a bounce outstanding as soon as
that has been received. -/
def execSpawn (d a : R5) (s : State) : Out1 := run s <| sendOp (.spawn d a) d a fun v c s =>
  let m : Msg :=
    { fromVu := s.me.vu, target := s.targetVu (s.me.gr a), spawn := true, clock := c,
      words := msgHeader 7 0 1 s.agentT.gtid :: (List.range 7).map fun k => vword v k }
  if s.det s.me && !s.bounced m then s.bounce m 4 else s.sendMsg m

/-- A receive with an earlier ticket waits at the vcore's ring. -/
def State.ringFirst (s : State) (vu ticket : Nat) : Bool :=
  s.threads.all fun t => t.vu != vu || t.windows.all fun w => match w.res with
    | .wait (.defer (.ring n) _ _) => !(n < ticket)
    | _ => true

/-- Performs a receive at the arbiter (01 R38): hands it the entry at the tail, in the order of the receives. -/
def perfRecv (d a : R5) (poll : Bool) (ticket : Option Nat) (s : State) : Perf :=
  let v := s.vcore s.me.vu
  let n := ticket.getD s.order
  if v.ringUsed != 0 && s.ringFirst s.me.vu n then
    let (ws, c, s) := s.ringTake s.me.vu
    let x := ws.foldr (fun w a => a * 2 ^ 64 + w.toNat) 0
    .now ((s.joinClk c).newEpoch.synced) (.regs [.g d (ws.getD 0 0), .v a (BitVec.allOnes 256) (BitVec.ofNat 2048 x)])
  else if poll then .now s.synced (.regs [.g d (BitVec.allOnes 64)])
  else if ticket.isSome then .later s (.ring n)
  else .later s.stamp (.ring n)

/-- The issue of a receive. -/
def recvOp (i : Instr) (look : BitVec 4) (d a : R5) (poll : Bool) (s : State) : R Unit :=
  (serialise s).bind fun _ s =>
  (syncGate s).bind fun _ s =>
  (verdictGate s).bind fun _ s =>
  (homeGate s).bind fun _ s => openPerf i look 4 true true (perfRecv d a poll none s)

/-- MRECV. -/
def execMrecv (look : BitVec 4) (d a : R5) (s : State) : Out1 := run s <| recvOp (.mrecv look d a) look d a false
/-- MRECV with POLL. -/
def execMrecvPoll (look : BitVec 4) (d a : R5) (s : State) : Out1 :=
  run s <| recvOp (.mrecvPoll look d a) look d a true

/-- Every thread of a vcore is halting (01 R35). -/
def State.allHalting (s : State) (vu : Nat) : Bool := (s.threads.filter fun t => t.vu == vu).all (·.halting)

/-- The reason that refuses a message at its target, before the ring or the slots are looked at. -/
def State.refuses (s : State) (vu : Nat) : Option Nat :=
  match s.vcore? vu with
  | none => some 3
  | some v => if !v.placed || v.ended then some 3 else if s.allHalting vu then some 5 else none

/-- The message of the named thread has reached the target: it is taken off the way. -/
def State.landed (s : State) (u : Nat) : State :=
  { s.updT u fun t => { t with msg := none } with msgs := s.msgs.filter fun x => x.1 != u }

/-- The reason for which a message bounces; none where the ring takes it (01 R35). -/
def State.msgReason (s : State) (m : Msg) : Option Nat :=
  (s.refuses m.target).or
    (if (s.vcore m.target).ringUsed + 8 < (s.task (s.vcore m.target).task).ringE then none else some 2)

/-- The reason for which a spawn bounces; none where a child starts (01 R36). -/
def State.spawnReason (s : State) (m : Msg) : Option Nat :=
  if (s.task (s.vcore m.fromVu).task).det then some 4 else
  (s.refuses m.target).or (if s.childLogical m.target = [] || s.freePhysical m.target = [] then some 1 else none)

/-- MESSAGE_ARRIVAL: accepted into the ring, or bounced; a bounce waits while the sending slot has one outstanding (01 R35). -/
def execMessageArrival (s : State) : Out1 :=
  match s.msgs.find? fun x => x.1 == s.op.thr && !x.2.spawn with
  | none => .fault .notEnabled
  | some (u, m) =>
    match s.msgReason m with
    | some r => if s.bounced m then .fault .notEnabled else .next ((s.landed u).bounce m r)
    | none => .next ((s.landed u).ringPut m.target m.words m.clock none)

/-- SPAWN_ARRIVAL: a child starts in the lowest free slot, or the spawn bounces (01 R36). -/
def execSpawnArrival (s : State) : Out1 :=
  match s.msgs.find? fun x => x.1 == s.op.thr && x.2.spawn with
  | none => .fault .notEnabled
  | some (u, m) =>
    match s.spawnReason m, s.childLogical m.target, s.freePhysical m.target with
    | none, l :: _, p :: _ => .next ((s.landed u).startChild (s.vcore m.target).task m.target l p m)
    | some r, _, _ => if s.bounced m then .fault .notEnabled else .next ((s.landed u).bounce m r)
    | none, _, _ => .fault .notEnabled

/-! ## SEGLD and SEGRD (12 R295) -/

/-- The bits of a segment descriptor that the register holds: reserved fields read zero (00 R4, 02 R43). A descriptor with V = 1
keeps them for the check that refuses it (02 R44). -/
def Seg.kept (d : Seg) (v : Bool) : Seg :=
  if v then d else ⟨d.lo &&& ~~~(3#64 <<< 52), d.hi &&& ~~~(127#64 <<< 52)⟩

/-- SEGLD. -/
def execSegld (d : BitVec 3) (a : R5) (seg : BitVec 3) (s : State) : Out1 := run s fun s =>
  (needRegs [a] s).bind fun _ s =>
  (accessGate s).bind fun _ s =>
  (segR seg (s.me.gr a).toInt 16 16 needRD false s).bind fun x s =>
  (stageR x 16 s).bind fun x s =>
  (specAccess x 16 false s).bind fun _ s =>
  (transR 4 x false false 0 s).bind fun p s =>
  match s.load p 16 true with
  | .bad t s => .stop (lateShort 4 t s)
  | .val bs s =>
    let e : Seg := Seg.kept ⟨w64 (natOfBytes (bs.take 8)), w64 (natOfBytes (bs.drop 8))⟩ (natOfBytes (bs.take 8) / 2 ^ 63 == 1)
    if !e.wf (s.task s.me.task).absz then illegalR 0 s
    else finish 4 (s.upd fun t => { t with sg := t.sg.set d.toNat e (d.isLt), sgw := t.sgw ||| (1#8 <<< d.toNat) })

/-- SEGRD. -/
def execSegrd (d : R5) (a : BitVec 3) (hi : Bool) (s : State) : Out1 := run s fun s =>
  (wrG d (if hi then (s.me.seg a).hi else (s.me.seg a).lo) s).bind fun _ s => finish 4 s

/-! ## Runnels' transfer unit (02 R72, R73) -/

/-- The next element that the unit may fetch for a read runnel. -/
def State.fillable (s : State) (t : Thread) (y : Runnel) : Bool :=
  !y.write && y.ahead.length < 8 && y.taken + y.ahead.length < y.len &&
  (match y.wait with | some w => w.woken && !w.failed | none => true) &&
  (match s.elemAt t y (y.taken + y.ahead.length) with | .ok _ => true | .bad _ => false)

/-- RUNNEL_FILL: fetches the next element, or waits for its page. -/
def execRunnelFill (s : State) : Out1 :=
  match s.thread? s.op.thr with
  | none => .fault .notEnabled
  | some t =>
    match t.runnel s.op.wid with
    | none => .fault .notEnabled
    | some y =>
      if !s.fillable t y then .fault .notEnabled
      else
        let n := y.taken + y.ahead.length
        match s.elemAt t y n with
        | .bad _ => .fault .notEnabled
        | .ok a =>
          match s.elemPlaces t y a with
          | .inr ps =>
            let x : Ahead := ⟨s.elemValue ps, s.elemPoison ps, s.tick⟩
            .next (s.updT t.uid fun t => t.setRunnel y.v fun y => { y with ahead := y.ahead ++ [x], wait := none })
          | .inl (e, c) =>
            let (s, w) := s.fault t.die 4 (s.fnOf t) (e / 2 ^ 16) c t.gtid
            .next (s.updT t.uid fun t => t.setRunnel y.v fun y => { y with wait := some w })

/-- The conflict of a word of a pushed element: it is an access by the instruction that pushed it (02 R73). -/
def State.pushClash (s : State) (e : Pushed) (q : Place) : Option Acc :=
  s.conflict s.me.agent e.clock q.loc q.slice true false

/-- The words of chunk `k` of a pushed element stored at a place, but for those that conflict. -/
def State.drainChunk (s : State) (p : Place) (e : Pushed) (k : Nat) : State :=
  (List.range 8).foldl (fun s i =>
    let q := p.word (8 * i)
    match s.pushClash e q with
    | some _ => s
    | none =>
      let s := ((s.putWord q 0xFF (vword e.x (8 * k + i))).plainWrite q.loc).record q.loc { s.accOf true false with epoch := e.epoch }
      if q.space = 0 then s.sawFrom (q.key 0) s.tick else s) s

/-- The first conflict of a pushed element. -/
def State.pushTrap (s : State) (e : Pushed) (ps : List Place) : Option Trap :=
  ps.findSome? fun p => (List.range 8).findSome? fun i =>
    (s.pushClash e (p.word (8 * i))).map (mmTrap (p.tval (8 * i)) true)

/-- RUNNEL_DRAIN: stores the oldest pushed element as a vector store of the instruction that pushed it. -/
def execRunnelDrain (s : State) : Out1 :=
  match s.thread? s.op.thr with
  | none => .fault .notEnabled
  | some t =>
    match t.runnel s.op.wid with
    | none => .fault .notEnabled
    | some y =>
      match y.pushed with
      | [] => .fault .notEnabled
      | e :: rest =>
        if (match y.wait with | some w => !w.woken | none => false) then .fault .notEnabled
        else
          let pop (s : State) : State :=
            s.updT t.uid fun t => t.setRunnel y.v fun y => { y with pushed := rest, done := y.done + 1, wait := none }
          let late (s : State) (x : Trap) : State :=
            s.updT t.uid fun t => { t with verdicts := t.verdicts ++ [⟨⟨e.seq + 1, e.pc, x⟩, true⟩] }
          match s.elemAt t y y.done with
          | .bad r => .next (late (pop s) ⟨4, segTval r y.segNo, none⟩)
          | .ok a =>
            if (y.wait.map (·.failed)).getD false then .next (late (pop s) failTrap)
            else
              match s.elemPlaces t y a with
              | .inr ps =>
                if ps.any (·.lc.isSome) then .next (late (pop s) (lcTrap y.segNo))
                else
                  let s0 := { s with cur := some t.uid }
                  let clash := s0.pushTrap e ps
                  let r := ((ps.zip (List.range 4)).foldl (fun s (q, k) => (s.drainChunk q e k).touchMe q.slice) s0)
                  let r : State := { r with cur := s.cur }
                  .next (match clash with | some c => late (pop r) c | none => pop r)
              | .inl (a, c) =>
                let (s, w) := s.fault t.die 4 (s.fnOf t) (a / 2 ^ 16) c t.gtid
                .next (s.updT t.uid fun t => t.setRunnel y.v fun y => { y with wait := some w })

end Sys2Proof.Machine
end

