-- ==== Sys2Proof/Machine/Culvert.lean ====
section
/-!
DEFINITION. The culvert engine: CPY, CPYR, RQCPY and CHAIN with their records, the scout, and DGST, PIN, UNPIN and CISTRN (12 R297 to
R306, R310 to R313; 02 R68; 08 R209).
-/
namespace Sys2Proof.Machine

/-! ## Checks that end a record -/

/-- The outcome of a check: a value, a completion code with its detail, or a flume stage that is not open yet. -/
inductive Ck (α : Type) where
  | good (a : α)
  | bad (code detail : Nat)
  | closed (f st : Nat)

/-- One check after another. -/
def Ck.bind {α β : Type} (x : Ck α) (f : α → Ck β) : Ck β :=
  match x with
  | .good a => f a
  | .bad c d => .bad c d
  | .closed n st => .closed n st

/-- Checks of a list, in order. -/
def ckAll {α β : Type} (f : α → Ck β) : List α → Ck (List β)
  | [] => .good []
  | a :: t => (f a).bind fun b => (ckAll f t).bind fun l => .good (b :: l)

/-- Completion codes of R297. -/
def ccSegment : Nat := 1
def ccRecord : Nat := 2
def ccFrame : Nat := 3
def ccBusy : Nat := 4
def ccPeer : Nat := 5
def ccNondet : Nat := 6
def ccEnding : Nat := 7

/-! ## Addresses of engine elements -/

/-- The numbers of all flumes of a vcore. -/
def allFlumes : List Nat := List.range 8

/-- The command is a chain. -/
def Cmd.chained (c : Cmd) : Bool := match c.kind with | .chain _ => true | .cchain => true | _ => false

/-- The check of one element of a command: its segment, its region, and its flume stage, which for the CPY family was
settled at issue (`slot` is none afterwards). -/
def State.engAddr (s : State) (c : Cmd) (slot : Option Nat) (seg : Nat) (e : Int) (size align need : Nat) (store : Bool) :
    Ck SegA :=
  match segCheck (c.segs[seg % 8]) (seg % 8) e size align need with
  | .bad r => .bad ccSegment r
  | .ok a =>
    match a.space with
    | 1 =>
      match s.vcore? c.vu with
      | none => .bad ccSegment 8
      | some v =>
        if store && 1984 < a.addr + size && a.addr < 2048 then .bad ccSegment 5
        else
          let fs := v.flumesAt a.addr size
          if c.chained then (if fs = [] then .good a else .bad ccSegment 6)
          else
            match (fs.filter fun f => c.flumes.contains f.f).head? with
            | none => .good a
            | some f =>
              if (match slot with | some n => !f.member n | none => false) then .bad ccSegment 6
              else if a.addr < f.base || f.base + f.size < a.addr + size then .bad ccSegment 9
              else
                match v.stageAt c.spt a.addr size with
                | none => .good a
                | some (g, st, off) =>
                  if (match slot with | some n => !g.opened n st | none => false) then .closed g.f st
                  else .good { a with addr := off }
    | 2 => if s.waysOf a.slice * 2 ^ 17 < a.addr + size then .bad ccSegment 3 else .good a
    | _ => if s.reserved (s.task c.task).fn a.addr size then .bad ccSegment 2 else .good a

/-- The flume of a resolved or unresolved address, for the outstanding count (02 R64). -/
def State.flumesOf (s : State) (vu : Nat) (l : List SegA) : List Nat :=
  ((l.filter fun a => a.space == 1).flatMap fun a => ((s.vcore vu).flumesAt a.addr 1).map (·.f)).eraseDups

/-- The outcome of translating for an engine. -/
inductive ETr where
  | ok (l : List Place)
  | page (s : State) (w : PageWait)
  | lc

/-- The GTID in a fault entry that an engine command takes (21 R431). [DEDUCED, log 74] -/
def State.cmdGtid (s : State) (c : Cmd) : Nat := ((s.thread? c.thr).map Thread.gtid).getD 0

/-- Translates one checked address of a command (21 R427, R430, R446). -/
def State.engPlace (s : State) (c : Cmd) (req : Nat) (a : SegA) (wr : Bool) : ETr :=
  match a.space with
  | 1 => .ok [{ space := 1, addr := a.addr, loc := abBase c.vu + a.addr, slice := none }]
  | 2 => .ok [{ space := 2, addr := a.addr, loc := cistBase a.slice + a.addr, slice := some a.slice }]
  | _ =>
    let die := c.core / 1024 % 2
    let fn := (s.task c.task).fn
    match s.xlate die fn a.addr wr with
    | .ok p _ => if wr && p.lc.isSome then .lc else .ok [p]
    | .fault cause =>
      let (s, w) := s.fault die req fn (a.addr / 2 ^ 16) cause (s.cmdGtid c)
      .page s w

/-- Translates many, each for a read or a write; the first that faults pauses the record. -/
def State.engPlaces (s : State) (c : Cmd) (req : Nat) : List (SegA × Bool) → ETr
  | [] => .ok []
  | (a, wr) :: t =>
    match s.engPlace c req a wr with
    | .ok l =>
      match s.engPlaces c req t with
      | .ok m => .ok (l ++ m)
      | x => x
    | x => x

/-! ## Words that a record writes -/

/-- A word to write: its place, the bits written, their value, and whether it becomes poisoned. -/
structure EW where
  p : Place
  bm : Nat
  x : Nat
  poison : Bool
deriving DecidableEq, Repr

/-- The bits of a value that a mask leaves. -/
def clearBits (x bm : Nat) : Nat := x - Nat.land x bm

/-- Puts an earlier write of a record before the later ones: one write for each word, in ascending address. -/
def putEW (w : EW) : List EW → List EW
  | [] => [w]
  | y :: t =>
    if w.p.space < y.p.space || (w.p.space == y.p.space && w.p.digAddr < y.p.digAddr) then w :: y :: t
    else if w.p.space == y.p.space && w.p.digAddr == y.p.digAddr then
      { y with bm := Nat.lor y.bm w.bm, x := Nat.lor y.x (clearBits w.x y.bm), poison := y.poison || w.poison } :: t
    else y :: putEW w t

/-- The write of an element of up to eight bytes at a place: bits `sh` to `sh + n - 1` of its first byte on. -/
def elemEW (p : Place) (sh n : Nat) (x : Nat) (poison : Bool) : EW :=
  let o := 8 * (p.addr % 8) + sh
  ⟨p.word 0, (2 ^ n - 1) * 2 ^ o, x % 2 ^ n * 2 ^ o, poison⟩

/-- The bytes that a bit mask touches. -/
def maskOfBits (bm : Nat) : BitVec 8 :=
  BitVec.ofNat 8 ((List.range 8).foldl (fun a i => if bm / 2 ^ (8 * i) % 256 = 0 then a else a + 2 ^ i) 0)

/-- Performs the writes of words. -/
def State.putEWs (s : State) (clk : Clock) (l : List EW) : State × List CmdW :=
  l.foldl (fun (a : State × List CmdW) w =>
    let x := w64 (Nat.lor (clearBits (a.1.dword w.p.loc).toNat w.bm) w.x)
    let m := maskOfBits w.bm
    (a.1.engWord w.p m x w.poison clk, a.2 ++ [⟨w.p.space, w.p.digAddr, m, x⟩])) (s, [])

/-- A written word rejects the lanes of the command's loop that have read it (07 R196). -/
def State.spoilCmd (s : State) (c : Cmd) (l : List EW) : State :=
  let keys := l.map fun w => w.p.loc / 8
  let hit := s.threads.filter fun t => match t.lane with
    | some x => x.loopOf == c.thr && !x.accepted && x.buf.any fun w => !w.write && keys.contains (w.p.key 0)
    | none => false
  match (hit.map Thread.laneIndex).foldl (fun (a : Option Nat) i => some (Nat.min i (a.getD i))) none with
  | some i => s.rejectAbove c.thr (i - 1)
  | none => s

/-! ## Transfer records (12 R298 to R300) -/

/-- Signed 32-bit fields of a doubleword. -/
def loS (x : Word) : Int := sfield x 31 0
def hiS (x : Word) : Int := sfield x 63 32

/-- Fields of a transfer record. -/
def trOp (r : List Word) : Nat := bits (r.getD 0 0) 62 60
def trRop (r : List Word) : Nat := bits (r.getD 0 0) 59 56
def trOrd (r : List Word) : Bool := bit (r.getD 0 0) 55
def trEsz (r : List Word) : Nat := bits (r.getD 0 0) 54 53
def trScout (r : List Word) : Nat := bits (r.getD 0 0) 32 29
def trSseg (r : List Word) : Nat := bits (r.getD 0 0) 28 26
def trDseg (r : List Word) : Nat := bits (r.getD 0 0) 25 23
def trOff (r : List Word) (i : Nat) : Nat := bits (r.getD i 0) 51 0
def trCount (r : List Word) (k : Nat) : Nat := bits (r.getD 3 0) (16 * k + 15) (16 * k)

/-- The doubleword that holds an invalid field (12 R299). [DEDUCED, log 23] -/
def trBad (r : List Word) : Option Nat :=
  let d := fun i => r.getD i 0
  let op := trOp r
  let rop := trRop r
  let esz := trEsz r
  let ringBad (circ lg : Nat) : Bool := (circ != 0 && !(6 ≤ lg && lg ≤ 40)) || (circ == 0 && lg != 0)
  let sc := bits (d 0) 52 49
  let dc := bits (d 0) 48 45
  let sl := bits (d 0) 44 39
  let dl := bits (d 0) 38 33
  if 2 < op || bits (d 0) 22 0 != 0 || (op == 0 && rop != 0) || (op == 1 && 8 < rop) || (op == 2 && 1 < rop) ||
     (op == 1 && (if rop = 8 then esz != 2 else esz < 2)) || (trOrd r && !(op == 1 && rop == 8)) ||
     (if op = 2 then esz != 0 || sc != 0 || dc != 0 || sl != 0 || dl != 0 else ringBad sc sl || ringBad dc dl) then some 0
  else if bits (d 1) 63 52 != 0 then some 1
  else if bits (d 2) 63 52 != 0 then some 2
  else if op = 2 then
    ([3, 4, 5, 6].find? fun i => bits (d i) 63 52 != 0).or (if bits (d 7) 62 52 != 0 then some 7 else none)
  else if (List.range 4).any fun k => trCount r k == 0 then some 3
  else if bits (d 7) 62 52 != 0 then some 7
  else none

/-- side (12 R300). -/
def trSide (b : Nat) (str : List Int) (circ rlg : Nat) (i : List Nat) : Int :=
  let go := ((i.zip str).zip (List.range 4)).foldl (fun (a : Int × Int) x =>
    let t : Int := (x.1.1 : Nat) * x.1.2
    if circ.testBit x.2 then (a.1, a.2 + t) else (a.1 + t, a.2)) ((b : Int), (0 : Int))
  if circ = 0 then go.1
  else
    let m : Int := ((b % 2 ^ rlg : Nat) : Int)
    go.1 - m + (m + go.2) % (2 ^ rlg : Nat)

/-- Source and destination offsets of an element. -/
def trSrc (r : List Word) (i : List Nat) : Int :=
  trSide (trOff r 1) [(2 ^ trEsz r : Nat), loS (r.getD 4 0), hiS (r.getD 4 0), loS (r.getD 5 0)]
    (bits (r.getD 0 0) 52 49) (bits (r.getD 0 0) 44 39) i
def trDst (r : List Word) (i : List Nat) : Int :=
  trSide (trOff r 2) [(2 ^ trEsz r : Nat), hiS (r.getD 5 0), loS (r.getD 6 0), hiS (r.getD 6 0)]
    (bits (r.getD 0 0) 48 45) (bits (r.getD 0 0) 38 33) i

/-- The indices of a box, the first innermost. -/
def boxIdx (e : List Nat) : List (List Nat) :=
  let n := e.foldl (· * ·) 1
  (List.range n).map fun k => (e.foldl (fun (a : List Nat × Nat) c => (a.1 ++ [a.2 % Nat.max c 1], a.2 / Nat.max c 1))
    (([] : List Nat), k)).1

/-- An element of a record: sources and destination. -/
structure TrElem where
  src : List SegA
  dst : SegA
deriving DecidableEq, Repr

/-- The sector of an element's destination (12 R301). -/
def TrElem.sector (x : TrElem) : Nat × Nat × Nat := (x.dst.space, x.dst.slice, x.dst.addr / 64)

/-- Splits elements into chunks. -/
def chunksOf : List TrElem → List (List TrElem)
  | [] => []
  | x :: t =>
    match chunksOf t with
    | (y :: l) :: r => if x.sector = y.sector then (x :: y :: l) :: r else [x] :: (y :: l) :: r
    | r => [x] :: r

/-- The elements of COPY and REDUCE with their addresses checked. -/
def State.trElems (s : State) (c : Cmd) (slot : Option Nat) (r : List Word) : Ck (List TrElem) :=
  let n := 2 ^ trEsz r
  let cnt := (List.range 4).map (trCount r)
  let js := if trOrd r then List.range (trCount r 3) else [0]
  let need := needWR + needEN + (if trOp r = 1 then needRD else 0)
  (ckAll (fun i =>
    (ckAll (fun j => s.engAddr c slot (trSseg r) (trSrc r (if trOrd r then i.set 3 j else i)) n n (needRD + needEN) false)
      js).bind fun src =>
    (s.engAddr c slot (trDseg r) (trDst r i) n n need true).bind fun dst => .good (⟨src, dst⟩ : TrElem))
    (boxIdx (if trOrd r then cnt.set 3 1 else cnt))).bind fun l =>
  if trOp r = 1 && 65536 < (chunksOf l).length then .bad ccRecord 3 else .good l

/-- f of a REDUCE (12 R285), at a width in bytes. -/
def ropF (rop w o x : Nat) : Nat :=
  match rop with
  | 0 => amoaddOp.f w o x
  | 1 => amoandOp.f w o x
  | 2 => amoorOp.f w o x
  | 3 => amoxorOp.f w o x
  | 4 => amominOp.f w o x
  | 5 => amomaxOp.f w o x
  | 6 => amominuOp.f w o x
  | 7 => amomaxuOp.f w o x
  | _ => amofaddOp.f w o x

/-- ordsum (08 R209). -/
def ordSum : List Nat → Nat
  | [] => 0
  | x :: t => t.foldl add32 x

/-- An element with its places. -/
structure TrPl where
  src : List Place
  dst : Place
  sector : Nat × Nat × Nat
deriving DecidableEq, Repr

/-- Gives elements their places back, in the order in which they were translated. -/
def trPlaces : List TrElem → List Place → List TrPl
  | [], _ => []
  | x :: t, l =>
    let k := x.src.length
    match (l.drop k).head? with
    | some d => ⟨l.take k, d, x.sector⟩ :: trPlaces t (l.drop (k + 1))
    | none => []

/-- A place is poisoned in the bytes of an element. -/
def State.badAt (s : State) (p : Place) (n : Nat) : Bool := (s.poisonP p n).isSome

/-- COPY: every element is read, then every word is written. -/
def State.trCopy (s : State) (clk : Clock) (n : Nat) (l : List TrPl) : State × List CmdW :=
  s.putEWs clk (l.foldr (fun x a => match x.src with
    | p :: _ => putEW (elemEW x.dst 0 (8 * n) (s.numP p n) (s.badAt p n)) a
    | [] => a) [])

/-- One chunk of a REDUCE: element after element, and poison for every word of the chunk. -/
def State.trChunk (s : State) (clk : Clock) (rop n : Nat) (ord : Bool) (l : List TrPl) : State × List EW :=
  let go := l.foldl (fun (a : State × List EW × Bool) x =>
    let s := a.1
    let vals := x.src.map fun p => s.numP p n
    let bad := x.src.any (fun p => s.badAt p n) || (!ord && s.badAt x.dst n)
    let v := if ord then ordSum vals else ropF rop n (s.numP x.dst n) (vals.headD 0)
    let w := elemEW x.dst 0 (8 * n) v false
    ((s.putEWs clk [w]).1, a.2.1 ++ [w], a.2.2 || bad)) (s, [], false)
  if go.2.2 then (go.2.1.foldl (fun s w => s.setPoison w.p.loc true) go.1, go.2.1) else (go.1, go.2.1)

/-- Splits places into the chunks of their elements. -/
def chunkPl : List TrPl → List (List TrPl)
  | [] => []
  | x :: t =>
    match chunkPl t with
    | (y :: l) :: r => if x.sector = y.sector then (x :: y :: l) :: r else [x] :: (y :: l) :: r
    | r => [x] :: r

/-- REDUCE, chunk by chunk. -/
def State.trReduce (s : State) (clk : Clock) (rop n : Nat) (ord : Bool) (l : List TrPl) : State × List CmdW :=
  let go := (chunkPl l).foldl (fun (a : State × List EW) ch =>
    let (s, w) := a.1.trChunk clk rop n ord ch
    (s, a.2 ++ w)) (s, [])
  (go.1, (go.2.foldr putEW []).map fun w =>
    ⟨w.p.space, w.p.digAddr, maskOfBits w.bm, go.1.dword w.p.loc⟩)

/-! ## REQUANT (12 R301, 04 R118) -/

/-- An element of a strip: source and destination byte, shift of the code, dither index. -/
structure RqElem where
  src : SegA
  sh : Nat
  ks : Nat
  dst : SegA
  dsh : Nat
  kd : Nat
deriving DecidableEq, Repr

/-- A strip of 128 elements with its scales. -/
structure RqStrip where
  ss : SegA
  ds : SegA
  el : List RqElem
deriving DecidableEq, Repr

/-- The frames of a record, checked. -/
def rqFrames (sf df : List Word) : Ck (Frame × Frame) :=
  match frameOf sf, frameOf df with
  | none, _ => .bad ccFrame 0
  | some _, none => .bad ccFrame 1
  | some a, some b =>
    if a.size 0 % 128 ≠ 0 then .bad ccFrame 0
    else if a.ext ≠ b.ext then .bad ccFrame 1
    else .good (a, b)

/-- The addresses of the two frames. -/
def State.rqFrameAddr (s : State) (c : Cmd) (slot : Option Nat) (r : List Word) : Ck (SegA × SegA) :=
  (s.engAddr c slot (trSseg r) (trOff r 4) 32 32 (needRD + needEN) false).bind fun a =>
  (s.engAddr c slot (trDseg r) (trOff r 5) 32 32 (needRD + needEN) false).bind fun b => .good (a, b)

/-- The strips of a REQUANT with their addresses checked. -/
def State.rqStrips (s : State) (c : Cmd) (slot : Option Nat) (r : List Word) (sf df : Frame) : Ck (List RqStrip) :=
  let e := (List.range 4).map sf.size
  let derive := bit (r.getD 0 0) 56
  ckAll (fun q =>
    let idx (k : Nat) : List Nat := q.set 0 (128 * q.getD 0 0 + k)
    let n := q.getD 0 0 + e.getD 0 0 / 128 * (q.getD 1 0 + e.getD 1 0 * (q.getD 2 0 + e.getD 2 0 * q.getD 3 0))
    (ckAll (fun k =>
      let i := idx k
      let (so, sh) := sf.place i
      let (d, dsh) := df.place i
      (s.engAddr c slot (trSseg r) ((trOff r 1 + so : Nat) : Int) 1 1 (needRD + needEN) false).bind fun a =>
      (s.engAddr c slot (trDseg r) ((trOff r 2 + d : Nat) : Int) 1 1 (needWR + needEN) true).bind fun b =>
      .good (⟨a, sh, sf.dither i, b, dsh, df.dither i⟩ : RqElem)) (List.range 128)).bind fun el =>
    (s.engAddr c slot (trSseg r) ((trOff r 6 + 4 * n : Nat) : Int) 4 4 (needRD + needEN) false).bind fun ss =>
    (s.engAddr c slot (trDseg r) ((trOff r 3 + 4 * n : Nat) : Int) 4 4
      ((if derive then needWR else needRD) + needEN) derive).bind fun ds => .good (⟨ss, ds, el⟩ : RqStrip))
    (boxIdx (e.set 0 (e.getD 0 0 / 128)))

/-- The addresses of a strip in the order of translation. -/
def RqStrip.addrs (x : RqStrip) (derive : Bool) : List (SegA × Bool) :=
  x.el.map (fun y => (y.src, false)) ++ x.el.map (fun y => (y.dst, true)) ++ [(x.ss, false), (x.ds, derive)]

/-- The words that a strip writes, from the memory before the record. [DEDUCED, log 26] -/
def State.rqStrip (s : State) (sf df : NFmt) (derive : Bool) (x : RqStrip) (pl : List Place) : List EW :=
  let n := x.el.length
  let srcs := pl.take n
  let dsts := (pl.drop n).take n
  match pl.drop (2 * n) with
  | [ssP, dsP] =>
    let ss := s.numP ssP 4
    let ssBad := s.badAt ssP 4
    let vals := (x.el.zip srcs).map fun y =>
      (dequantRead sf (sf.code (s.byte (y.2.at 0)) y.1.sh) ss y.1.ks, ssBad || s.badAt y.2 1)
    let anyBad := vals.any (·.2)
    let sd := if derive then qscale df (vals.map (·.1)) else s.numP dsP 4
    let sdBad := if derive then anyBad else s.badAt dsP 4
    let ws := ((x.el.zip dsts).zip vals).map fun y =>
      elemEW y.1.2 y.1.1.dsh df.bits (quantStore df y.2.1 sd y.1.1.kd) (y.2.2 || sdBad)
    if derive then ws ++ [elemEW dsP 0 32 sd sdBad] else ws
  | _ => []

/-- The words of all strips. -/
def State.rqAll (s : State) (sf df : NFmt) (derive : Bool) : List RqStrip → List Place → List EW
  | [], _ => []
  | x :: t, pl =>
    let k := 2 * x.el.length + 2
    s.rqStrip sf df derive x (pl.take k) ++ s.rqAll sf df derive t (pl.drop k)

/-! ## Performing a record -/

/-- What performing a record answers. -/
inductive RecOut where
  | done (s : State) (w : List CmdW)
  | bad (code detail : Nat)
  | page (s : State) (w : PageWait)

/-- Performs a transfer record whose fields are good; `frames` are the words of its frames where they were read at issue. [DESIGN CHOICE, log 24] -/
def State.trPerform (s : State) (c : Cmd) (r : List Word) (frames : Option (List Word × List Word)) : RecOut :=
  let fin (x : State × List CmdW) (l : List EW) : RecOut := .done (x.1.spoilCmd c l) x.2
  let wsOf (w : List CmdW) (pl : List Place) : List EW :=
    pl.map fun p => ⟨p.word 0, 0, w.length, false⟩
  if trOp r = 2 then
    let go (s : State) (sw dw : List Word) : RecOut :=
      match rqFrames sw dw with
      | .bad a b => .bad a b
      | .closed _ _ => .bad ccSegment 6
      | .good (sf, df) =>
        match s.rqStrips c none r sf df with
        | .bad a b => .bad a b
        | .closed _ _ => .bad ccSegment 6
        | .good l =>
          let derive := bit (r.getD 0 0) 56
          match s.engPlaces c 2 (l.flatMap fun x => x.addrs derive) with
          | .page s w => .page s w
          | .lc => .bad ccSegment 8
          | .ok pl =>
            let ws := (s.rqAll sf.fmt df.fmt derive l pl).foldr putEW []
            fin (s.putEWs c.clock ws) ws
    match frames with
    | some (a, b) => go s a b
    | none =>
      match s.rqFrameAddr c none r with
      | .bad a b => .bad a b
      | .closed _ _ => .bad ccSegment 6
      | .good (a, b) =>
        match s.engPlaces c 2 [(a, false), (b, false)] with
        | .page s w => .page s w
        | .lc => .bad ccSegment 8
        | .ok pl =>
          let ws (i : Nat) : List Word := match pl[i]? with
            | some p => (List.range 4).map fun k => w64 (natOfBytes (((s.readP p 32).drop (8 * k)).take 8))
            | none => []
          go s (ws 0) (ws 1)
  else
    match s.trElems c none r with
    | .bad a b => .bad a b
    | .closed _ _ => .bad ccSegment 6
    | .good l =>
      match s.engPlaces c 2 (l.flatMap fun x => x.src.map (·, false) ++ [(x.dst, true)]) with
      | .page s w => .page s w
      | .lc => .bad ccSegment 8
      | .ok pl =>
        let els := trPlaces l pl
        let n := 2 ^ trEsz r
        let res := if trOp r = 0 then s.trCopy c.clock n els else s.trReduce c.clock (trRop r) n (trOrd r) els
        fin res (wsOf res.2 (els.map (·.dst)))

/-! ## Issue of CPY, CPYR, RQCPY and CHAIN -/

/-- Record commands that a cluster's queue holds. -/
def State.queued (s : State) (cluster : Nat) : Nat :=
  (s.cmds.filter fun c => c.core / 16 == cluster && c.kind == .record && c.st != .sent && c.st != .finished).length

/-- The words that an instruction reads at its issue: of a held instruction the ones that it read then (07 R200). -/
def State.recIn (s : State) (p : Place) (n : Nat) : Rec :=
  match s.me.shadow.map (·.desc) with
  | some (w :: ws) => .words ((w :: ws).take n) s
  | _ => s.recAt p n

/-- A command goes on to its engine, or is held by a speculative lane (07 R200). -/
def orHold (i : Instr) (len : Nat) (desc : List Word) (k : State → R Unit) (s : State) : R Unit :=
  if s.me.spec then holdHere i len desc s else (fenceGate 5 s).bind fun _ s => k s

/-- A flume stage that is not open; a speculative lane waits for its acceptance first (07 R201). -/
def closedR {α : Type} (f st : Nat) (s : State) : R α := (serialise s).bind fun _ s => parkR (.flume f (some st)) s

/-- The record of a command's issue (12 R303): checked, read as a snapshot load. -/
def recIssue (x : XCmd) (len n align : Nat) (s : State) : R (SegA × Place) :=
  (guessEnds s).bind fun _ s =>
  (needRegs (x.a :: bRegs x.b) s).bind fun _ s =>
  (accessGate s).bind fun _ s =>
  (syncGate s).bind fun _ s =>
  (readB x.b s).bind fun b s =>
  (segR x.seg ((s.me.gr x.a).toInt + b.toInt) n align needRD false s).bind fun a s =>
  (stageR a n s).bind fun a s =>
  (specAccess a n false s).bind fun _ s =>
  (transR len a false true 0 s).bind fun p s => .ok (a, p) s

/-- A command of the current thread before it is numbered. -/
def State.draft (s : State) (kind : CmdKind) : Cmd :=
  { id := s.nextCmd, thr := s.me.agent, task := s.me.task, vu := s.me.vu, core := s.me.core, kind := kind,
    segs := Vector.ofFn fun i => s.me.seg (BitVec.ofNat 3 i.val), spt := s.agentT.spt, det := s.det s.me, flumes := allFlumes }

/-- The command enters its engine: it carries the thread's clock, and the window of its status register opens. -/
def enterCmd (x : XCmd) (len : Nat) (c : Cmd) (s : State) : R Unit :=
  let (clk, s) := s.release false
  let c := { c with clock := clk, order := s.order }
  let s := { s.stamp with cmds := s.cmds ++ [c], nextCmd := s.nextCmd + 1 }
  openRegs x.look len [.status x.d c.id] s

/-- The path of a segment's space (02 R62). -/
def segPath (d : Seg) : Path := if bits d.lo 62 61 = 1 then .ab else .mem

/-- An engine names AB: the thread first goes home (02 R53). -/
def namesAb (c : Cmd) (ns : List Nat) : Bool :=
  ns.any fun n => bit (c.segs[n % 8]).lo 63 && bits (c.segs[n % 8]).lo 62 61 == 1

/-- The addresses that a record's issue resolves: flume stages open, identity words refused (02 R68, 01 R31). [DEDUCED, log 22] -/
def State.trIssue (s : State) (c : Cmd) (r : List Word) (frames : Option (List Word × List Word)) : Ck (List SegA) :=
  let slot := some (s.slotOf s.me)
  if trOp r = 2 then
    match frames with
    | none => .good []
    | some (a, b) => (rqFrames a b).bind fun f => (s.rqStrips c slot r f.1 f.2).bind fun l =>
        .good (l.flatMap fun x => (x.addrs false).map (·.1))
  else (s.trElems c slot r).bind fun l => .good (l.flatMap fun x => x.dst :: x.src)

/-- The frames that RQCPY reads at its issue, through the thread's translation (04 R108, 01 R476). -/
def framesIssue (x : XCmd) (len : Nat) (c : Cmd) (r : List Word) (s : State) : R (Option (List Word × List Word)) :=
  if trOp r ≠ 2 then .ok none s
  else
    match s.rqFrameAddr c (some (s.slotOf s.me)) r with
    | .bad _ _ => .ok none s
    | .closed f st => closedR f st s
    | .good (a, b) =>
      match s.me.shadow.map fun h => h.desc.drop 8 with
      | some (w :: ws) => .ok (some ((w :: ws).take 4, (w :: ws).drop 4)) s
      | _ =>
        (specAccess a 32 false s).bind fun _ s =>
        (specAccess b 32 false s).bind fun _ s =>
        (transR len a false true 2 s).bind fun p s =>
        (transR len b false true 2 s).bind fun q s =>
        match s.recAt p 4 with
        | .bad t s => (openFault x.look len t s).bind fun _ s => .stop s
        | .words u s =>
          match s.recAt q 4 with
          | .bad t s => (openFault x.look len t s).bind fun _ s => .stop s
          | .words v s => .ok (some (u, v)) s

/-- CPY, CPYR and RQCPY (12 R303); `op` and `ord` are what the instruction asks of its record. -/
def cpyOp (i : Instr) (x : XCmd) (op : Nat) (ord : Bool) (s : State) : R Unit :=
  let len := bLenX x.b
  (recIssue x len 64 64 s).bind fun ap s =>
    match s.recIn ap.2 8 with
    | .bad t s => openFault x.look len t s
    | .words r s =>
      if op = 1 && !ord && s.det s.me && trRop r == 8 then raiseR 7 4 s
      else
        let c := s.draft .record
        (if namesAb c [trSseg r, trDseg r] then homeGate s else .ok () s).bind fun _ s =>
        let c := { s.draft .record with recs := 0 }
        let fail (code detail : Nat) (s : State) : R Unit := s |> orHold i len r fun s =>
          if 64 ≤ s.queued (s.me.core / 16) then parkR (.queue (s.me.core / 16)) s
          else enterCmd x len { c with code := code, detail := detail, record := r, flumes := [] } s
        if trOp r ≠ op || trOrd r ≠ ord then fail ccRecord 0 s
        else
          match trBad r with
          | some d => fail ccRecord d s
          | none =>
            (framesIssue x len c r s).bind fun fr s =>
            match s.trIssue c r fr with
            | .bad 1 5 => segvR 5 (trDseg r) s
            | .bad code detail => fail code detail s
            | .closed f st => closedR f st s
            | .good l =>
              let rec8 := r ++ (match fr with | some (a, b) => a ++ b | none => [])
              s |> orHold i len rec8 fun s =>
              if 64 ≤ s.queued (s.me.core / 16) then parkR (.queue (s.me.core / 16)) s
              else
                enterCmd x len
                  { c with record := rec8, flumes := s.flumesOf s.me.vu l,
                           paths := [segPath (c.segs[trDseg r % 8])] } s

/-- CPY. -/
def execCpy (x : XCmd) (s : State) : Out1 := run s (cpyOp (.cpy x) x 0 false)
/-- CPYR. -/
def execCpyr (x : XCmd) (s : State) : Out1 := run s (cpyOp (.cpyr x) x 1 false)
/-- CPYR with ORD. -/
def execCpyrOrd (x : XCmd) (s : State) : Out1 := run s (cpyOp (.cpyrOrd x) x 1 true)
/-- RQCPY. -/
def execRqcpy (x : XCmd) (s : State) : Out1 := run s (cpyOp (.rqcpy x) x 2 false)

/-- The head offset of a chain, checked as CPY's record is (12 R304). -/
def headIssue (x : XCmd) (s : State) : R Nat :=
  (guessEnds s).bind fun _ s =>
  (needRegs (x.a :: bRegs x.b) s).bind fun _ s =>
  (accessGate s).bind fun _ s =>
  (syncGate s).bind fun _ s =>
  (readB x.b s).bind fun b s =>
  let off := (s.me.gr x.a).toInt + b.toInt
  (segR x.seg off 64 64 needRD false s).bind fun a s =>
  (if a.space = 1 then homeGate s else .ok () s).bind fun _ s => .ok off.toNat s

/-- A chain of a kind still walks. -/
def State.walking (s : State) (p : Cmd → Bool) : Bool :=
  s.cmds.any fun c => p c && c.st != .sent && c.st != .finished

/-- Enters a chain, or a command that is BUSY at once. -/
def enterChain (x : XCmd) (off : Nat) (kind : CmdKind) (busy : Bool) (s : State) : R Unit :=
  let c := { s.draft kind with seg := x.seg.toNat, head := off, flumes := [] }
  enterCmd x (bLenX x.b) (if busy then { c with code := ccBusy, st := .sent } else c) s

/-- CHAIN. -/
def execChain (x : ChainA) (s : State) : Out1 := run s fun s =>
  (headIssue x.x s).bind fun off s =>
  s |> orHold (.chain x) (bLenX x.x.b) [] fun s =>
    let cl := s.me.core / 16
    let ch := x.ch.toNat
    enterChain x.x off (.chain ch) (s.walking fun c => c.kind == .chain ch && c.core / 16 == cl) s

/-! ## Walking (12 R301, R304 to R306) -/

/-- The command has ended: its completion is on its way. -/
def State.endCmd (s : State) (id code detail : Nat) : State :=
  s.setCmd id fun c =>
    { c with st := .sent, code := code, detail := detail,
             paths := if c.chained then
                 ((if c.writes.any (fun w => w.space == 1) then [Path.ab] else []) ++
                  (if c.writes.any (fun w => w.space != 1) then [Path.mem] else []))
               else if c.writes = [] then [] else c.paths }

/-- The doublewords of a chain's record. -/
inductive Head where
  | at (p : Place) (r : List Word)
  | bad (detail : Nat)
  | page (s : State) (w : PageWait)

/-- Reads the record at a chain's head. -/
def State.headOf (s : State) (c : Cmd) (req : Nat) : Head :=
  match s.engAddr c none c.seg (c.head : Int) 64 64 needRD false with
  | .bad _ d => .bad d
  | .closed _ _ => .bad 6
  | .good a =>
    match s.engPlace c req a true with
    | .page s w => .page s w
    | .lc => .bad 8
    | .ok l =>
      match l.head? with
      | some p => .at p (s.dwords p.loc 8)
      | none => .bad 1

/-- After a record of a chain: OWN is cleared, and the chain goes on or ends. -/
def State.nextRec (s : State) (c : Cmd) (p : Place) (r : List Word) (w : List CmdW) : State :=
  let own := w64 ((s.dword p.loc).toNat % 2 ^ 63)
  let (s, o) := s.putEWs c.clock [⟨p.word 0, 2 ^ 64 - 1, own.toNat, false⟩]
  let s := s.setCmd c.id fun c =>
    { c with recs := c.recs + 1, writes := c.writes ++ (w ++ o).foldr insertW [], probes := 0, live := false,
             landed := false, acked := false, stepNo := none, stepW := [], record := [] }
  if bit (r.getD 7 0) 63 then s.setCmd c.id fun c => { c with st := .active, head := bits (r.getD 7 0) 51 0 }
  else s.endCmd c.id 0 0

/-- The command waits for a page that was failed (21 R433). -/
def Cmd.pageFailed (c : Cmd) : Bool := match c.st with | .page w => w.failed | _ => false

/-- The clock that the write of OWN gives (12 R305). -/
def State.ownClk (s : State) (c : Cmd) (p : Place) : Cmd :=
  let w := s.wordRec p.loc
  if w.synLive then { c with clock := c.clock.join w.syn } else c

/-- CULVERT_RECORD: performs one record of a command whole, or DGST's writes. -/
def execCulvertRecord (s : State) : Out1 :=
  match s.cmd? s.op.cmd with
  | none => .fault .notEnabled
  | some c =>
    let ready := match c.st with | .queued | .active => true | .page w => w.woken | _ => false
    if !ready then .fault .notEnabled
    else if c.pageFailed then .next (s.endCmd c.id ccSegment 3)
    else
      match c.kind with
      | .record =>
        if c.code ≠ 0 then .next (s.endCmd c.id c.code c.detail)
        else
          let r := c.record.take 8
          let fr := if trOp r = 2 then some ((c.record.drop 8).take 4, c.record.drop 12) else none
          match s.trPerform c r fr with
          | .page s w => .next (s.setCmd c.id fun c => { c with st := .page w, probes := 0 })
          | .bad code detail => .next (s.endCmd c.id code detail)
          | .done s w => .next ((s.setCmd c.id fun c => { c with recs := 1, writes := w }).endCmd c.id 0 0)
      | .chain _ =>
        match s.headOf c 2 with
        | .bad d => .next (s.endCmd c.id ccSegment d)
        | .page s w => .next (s.setCmd c.id fun c => { c with st := .page w })
        | .at p r =>
          if !bit (r.getD 0 0) 63 then .next (s.setCmd c.id fun c => { c with st := .sleeping })
          else
            let c := s.ownClk c p
            let s := s.setCmd c.id fun x => { x with clock := c.clock }
            match trBad r with
            | some d => .next (s.endCmd c.id ccRecord d)
            | none =>
              if c.det && trOp r == 1 && trRop r == 8 && !trOrd r then .next (s.endCmd c.id ccNondet 4)
              else
                match s.trPerform c r none with
                | .page s w => .next (s.setCmd c.id fun c => { c with st := .page w, probes := 0 })
                | .bad code detail => .next (s.endCmd c.id code detail)
                | .done s w => .next (s.nextRec c p r w)
      | .dgst =>
        match c.record, s.engPlace c 2 ⟨(bits (c.segs[c.seg % 8]).lo 62 61), bits (c.segs[c.seg % 8]).lo 60 54, c.head,
            c.seg⟩ true with
        | [], _ => .fault .notEnabled
        | _, .page s w => .next (s.setCmd c.id fun c => { c with st := .page w })
        | _, .lc => .next (s.endCmd c.id ccSegment 8)
        | ws, .ok l =>
          match l.head? with
          | none => .fault .notEnabled
          | some p =>
            let ew := (List.range 4).map fun i => (⟨p.word (8 * i), 2 ^ 64 - 1, (ws.getD i 0).toNat, false⟩ : EW)
            let (s, w) := s.putEWs c.clock ew
            .next ((((s.spoilCmd c ew)).setCmd c.id fun c => { c with recs := 1, writes := w }).endCmd c.id 0 0)
      | _ => .fault .notEnabled

/-- The word at a sleeping chain's head has OWN set. -/
def State.ownSet (s : State) (c : Cmd) : Bool :=
  c.st == .sleeping &&
  (match s.headOf c 2 with
   | .at _ r => bit (r.getD 0 0) 63
   | _ => true)

/-- CHAIN_OWN_WAKE: the walker that waits on DW0 goes on (12 R304). -/
def execChainOwnWake (s : State) : Out1 :=
  match s.cmd? s.op.cmd with
  | none => .fault .notEnabled
  | some c =>
    if s.ownSet c then .next (s.setCmd c.id fun c => { c with st := .active }) else .fault .notEnabled

/-- The record that a command is about to move, for the scout. -/
def State.scoutRec (s : State) (c : Cmd) : List Word :=
  match c.kind with
  | .record => c.record.take 8
  | .chain _ => match s.headOf c 2 with | .at _ r => r | _ => []
  | _ => []

/-- The pages of a side's element stream, in order. -/
def pagesOf (l : List SegA) : List Nat :=
  ((l.filter fun a => a.space == 0).map fun a => a.addr / 2 ^ 16).eraseDups

/-- The next pages of a side, from the element on that the record waits for, if it waits for one. -/
def nextPages (n : Nat) (at? : Option Nat) (l : List SegA) : List Nat :=
  match at? with
  | none => (pagesOf l).take n
  | some p => (pagesOf (l.dropWhile fun a => !(a.space == 0 && a.addr / 2 ^ 16 == p))).take n

/-- The sides of a record's element stream, in order: what it reads, what it writes. -/
def State.scoutSides (s : State) (c : Cmd) (r : List Word) : Option (List SegA × List SegA) :=
  if trOp r = 2 then
    let go (a b : List Word) : Option (List SegA × List SegA) :=
      match rqFrames a b with
      | .good f =>
        match s.rqStrips c none r f.1 f.2 with
        | .good l =>
          let all := l.flatMap fun x => x.addrs (bit (r.getD 0 0) 56)
          some ((all.filter fun x => !x.2).map (·.1), (all.filter fun x => x.2).map (·.1))
        | _ => none
      | _ => none
    match c.record.drop 8 with
    | w :: ws => go ((w :: ws).take 4) ((w :: ws).drop 4)
    | [] =>
      match s.rqFrameAddr c none r with
      | .good (a, b) =>
        match s.engPlaces c 2 [(a, false), (b, false)] with
        | .ok [p, q] => go (s.dwords p.loc 4) (s.dwords q.loc 4)
        | _ => none
      | _ => none
  else
    match s.trElems c none r with
    | .good l => some (l.flatMap (·.src), l.map (·.dst))
    | _ => none

/-- The page that a record waits for. -/
def Cmd.waitPage (c : Cmd) : Option Nat := match c.st with | .page w => some w.page | _ => none

/-- The pages that the scout probes for a record, each with whether it is written: the next of each side ahead of the data. A
chain's record counts once the program has handed it over. -/
def State.scoutPages (s : State) (c : Cmd) : List (Nat × Bool) :=
  let r := s.scoutRec c
  if r = [] || trScout r = 0 || (trBad r).isSome || (c.chained && !bit (r.getD 0 0) 63) then []
  else
    match s.scoutSides c r with
    | some (src, dst) => (nextPages (trScout r) c.waitPage src).map (·, false) ++ (nextPages (trScout r) c.waitPage dst).map (·, true)
    | none => []

/-- SCOUT_PROBE: one translation ahead of the data; it moves nothing (12 R306). -/
def execScoutProbe (s : State) : Out1 :=
  match s.cmd? s.op.cmd with
  | none => .fault .notEnabled
  | some c =>
    match (s.scoutPages c)[c.probes]? with
    | none => .fault .notEnabled
    | some (page, wr) =>
      let s := s.setCmd c.id fun c => { c with probes := c.probes + 1 }
      let die := c.core / 1024 % 2
      let fn := (s.task c.task).fn
      match s.xlate die fn (page * 2 ^ 16) wr with
      | .ok _ _ => .next s
      | .fault cause => .next (s.fault die 5 fn page cause (s.cmdGtid c)).1

/-- ENGINE_COMPLETION: the command completes, and its pending status registers hold the status (01 R19, 12 R297). -/
def execEngineCompletion (s : State) : Out1 :=
  match s.cmd? s.op.cmd with
  | none => .fault .notEnabled
  | some c =>
    if c.st != .sent then .fault .notEnabled
    else
      let s := s.setCmd c.id fun c => { c with st := .finished }
      .next { s with threads := s.threads.map fun t =>
        match t.pend.find? fun x => x.2 == c.id with
        | some (d, _) => t.wg d c.statusWord
        | none => t }

/-! ## DRAIN -/

/-- The path on which a write of an engine counts: that of its destination space (02 R62). -/
def spacePath (space : Nat) : Path := if space = 1 then .ab else .mem

/-- The records of a chain that the program has handed over, from an offset on and as memory stands, at most `n`; none where a
page is missing. -/
def State.chainAhead (s : State) (c : Cmd) : Nat → Nat → Option (List (List Word))
  | 0, _ => some []
  | n + 1, off =>
    match s.headOf { c with head := off } 2 with
    | .bad _ => some []
    | .page _ _ => none
    | .at _ r =>
      if !bit (r.getD 0 0) 63 then some []
      else if bit (r.getD 7 0) 63 then (s.chainAhead c n (bits (r.getD 7 0) 51 0)).map (r :: ·) else some [r]

/-- The paths of a record's writes: its destination, and its OWN in the chain's own segment. -/
def Cmd.recPaths (c : Cmd) (r : List Word) : List Path :=
  segPath (c.segs[c.seg % 8]) ::
    (match c.kind with
     | .chain _ => [segPath (c.segs[trDseg r % 8])]
     | _ => [])

/-- A command has a write on a path that has not landed: where its destination is settled, on its own path; a chain on the paths of
the records that the program has handed over to it by now. [DEDUCED, log 21] -/
def State.onPath (s : State) (c : Cmd) (p : Path) : Bool :=
  if c.chained && c.st != .sent then
    match s.chainAhead c 1024 c.head with
    | none => true
    | some l => l.any fun r => (c.recPaths r).contains p
  else c.paths.contains p

/-- A matrix instruction or attention writes its output into AB. -/
def MatQ.toAb (m : MatQ) : Bool :=
  match m.i with
  | .mst _ => m.a.any (·.space == 1)
  | .mstq _ => (m.a ++ m.b).any (·.space == 1)
  | .attn _ => m.b.any (·.space == 1)
  | _ => false

/-- Writes of a vcore on a path, issued before `before`, that have not landed (02 R62). -/
def State.drainWaits (s : State) (vu : Nat) (p : Path) (before : Nat) : Bool :=
  (s.cmds.any fun c => c.vu == vu && c.st != .finished && c.order < before && p != .wb && s.onPath c p) ||
  (match p with
   | .ab => s.matq.any fun m => m.vu == vu && m.order < before && m.toAb
   | .mem => false
   | .wb => (s.fills.any fun f => f.vu == vu && f.order < before) ||
       s.matq.any fun m => m.vu == vu && m.order < before && (match m.i with | .wld _ => true | _ => false))

/-- Marks a path of the thread's own commands as drained, and folds those whose every path has been (08 R213). -/
def State.drainFold (s : State) (p : Path) (before : Nat) : State :=
  let mine (c : Cmd) : Bool := c.thr == s.me.agent && c.st == .finished && !c.folded && c.order < before
  let s := { s with cmds := s.cmds.map fun c => if mine c then { c with drained := p :: c.drained } else c }
  let done := s.cmds.filter fun c => mine c && c.paths != [] && c.paths.all c.drained.contains
  done.foldl (fun s c => (s.foldMe (cmdBlocks c.writes)).setCmd c.id fun c => { c with folded := true }) s

/-- The drained writes are ordered before the thread (03 R81). -/
def State.drainJoin (s : State) (p : Path) (before : Nat) : State :=
  (s.cmds.filter fun c => c.vu == s.me.vu && c.order < before &&
      ((c.st == .finished && c.paths.contains p) || c.writes.any fun w => spacePath w.space == p)).foldl
    (fun s c => s.joinClk c.clock) s

/-- DRAIN has nothing left to wait for: its thread sees the drained writes from now on. -/
def State.drainDone (s : State) (p : Path) (before : Nat) : State :=
  (((s.drainFold p before).drainJoin p before).synced).retire 4

/-- DRAIN (12 R287). -/
def execDrain (p : Path) (s : State) : Out1 := run s fun s =>
  (serialise s).bind fun _ s =>
  if s.drainWaits s.me.vu p s.order then parkR (.drain p s.order) s else .ok () (s.drainDone p s.order)

/-! ## DGST, PIN, UNPIN, CISTRN -/

/-- The thread digest as DGST writes it: H, GTID, blocks folded. -/
def dgstWords (t : Thread) : List Word :=
  [w64 (t.dig.toNat % 2 ^ 64), w64 (t.dig.toNat / 2 ^ 64), w64 t.gtid, w64 t.folded]

/-- DGST (12 R311): its register is pending from issue. -/
def execDgst (d a : R5) (seg : BitVec 3) (s : State) : Out1 := run s fun s =>
  (guessEnds s).bind fun _ s =>
    (needRegs [a] s).bind fun _ s =>
    (accessGate s).bind fun _ s =>
    (syncGate s).bind fun _ s =>
    (segR seg (s.me.gr a).toInt 32 32 (needWR + needEN) true s).bind fun x s =>
    (destOk d s).bind fun _ s =>
    (stageR x 32 s).bind fun x s =>
    s |> orHold (.dgst d a seg) 4 [] fun s =>
    let (clk, s) := s.release false
    let t := s.agentT
    let c := { s.draft .dgst with
      seg := seg.toNat, head := x.addr, clock := clk, order := s.order, flumes := s.flumesOf s.me.vu [x],
      paths := [if x.space = 1 then Path.ab else Path.mem], record := if t.folds = [] then dgstWords t else [] }
    let s := { s.stamp with cmds := s.cmds ++ [c], nextCmd := s.nextCmd + 1 }
    let s := if t.folds = [] then s else s.updT t.uid fun t => { t with folds := t.folds ++ [.mark c.id] }
    finish 4 (if d = 0 then s else s.upd fun t => { (t.unpend d) with pend := (d, c.id) :: (t.unpend d).pend })

/-- The line of its frame and the slice of PIN and UNPIN (21 R428). -/
def pinAt (x : SliceA) (s : State) : R (Nat × Nat) :=
  (needRegs [x.a] s).bind fun _ s =>
  (accessGate s).bind fun _ s =>
  (segR x.seg (sliceOff s x) 8 8 needRD false s).bind fun a s =>
  if a.space ≠ 0 then segvR 8 x.seg.toNat s
  else
    (destOk x.d s).bind fun _ s =>
    (transR 4 a false false 0 s).bind fun p s => .ok (p.slice.getD 0, p.loc / 512) s

/-- PIN. -/
def execPin (x : SliceA) (s : State) : Out1 := run s fun s =>
  (pinAt x s).bind fun q s =>
  let fn := s.fnOf s.me
  let res : Nat := if s.pins.any (fun p => p.slice == q.1 && p.fn == fn && p.line == q.2) then 2
    else if 32 ≤ (s.pins.filter fun p => p.slice == q.1).length then 1 else 0
  let s := if res = 0 then { s with pins := ⟨q.1, fn, q.2, s.me.task⟩ :: s.pins } else s
  finish 4 (s.setG x.d (w64 res))

/-- UNPIN. -/
def execUnpin (x : SliceA) (s : State) : Out1 := run s fun s =>
  (pinAt x s).bind fun q s =>
  let fn := s.fnOf s.me
  let hit (p : Pin) : Bool := p.slice == q.1 && p.fn == fn && p.line == q.2
  let res : Nat := if s.pins.any hit then 0 else 3
  finish 4 ({ s with pins := s.pins.filter fun p => !hit p }.setG x.d (w64 res))

/-- The slice is granted to a function (21 R424). -/
def State.granted (s : State) (fn slice : Nat) : Bool :=
  let at0 := s.funcDesc fn
  (s.dword (at0 + 8 + 8 * (slice / 64))).toNat.testBit (slice % 64)

/-- Makes the bytes of ways `lo` to `hi` of a slice zero, full, without poison or record. -/
def State.clearWays (s : State) (slice lo hi : Nat) : State :=
  let a := cistBase slice + lo * 2 ^ 17
  let b := cistBase slice + hi * 2 ^ 17
  { s with mem := s.mem.filter (fun c => !(a ≤ c.1 && c.1 < b)), empty := s.empty.filter (fun k => !(a ≤ 8 * k && 8 * k < b)),
           poison := s.poison.filter (fun k => !(a ≤ 8 * k && 8 * k < b)),
           recs := s.recs.filter fun r => !(a ≤ 8 * r.key && 8 * r.key < b) }

/-- Sets the converted ways of a slice. -/
def State.setWays (s : State) (slice n : Nat) : State :=
  let old := s.waysOf slice
  let l := s.ways.filter fun x => x.1 != slice
  { (s.clearWays slice (Nat.min old n) (Nat.max old n)) with ways := if n = 0 then l else (slice, n) :: l }

/-- CISTRN (12 R313). -/
def execCistrn (d a : R5) (n : BitVec 8) (s : State) : Out1 := run s fun s =>
  (needRegs [a] s).bind fun _ s =>
  if 127 < (s.me.gr a).toNat then illegalR (s.me.gr a) s
  else if 12 < n.toNat then illegalR (w64 n.toNat) s
  else
    (destOk d s).bind fun _ s =>
    let slice := (s.me.gr a).toNat
    if s.granted (s.fnOf s.me) slice then finish 4 ((s.setWays slice n.toNat).setG d 0)
    else finish 4 (s.setG d 1)

end Sys2Proof.Machine
end

