-- ==== Sys2Proof/Machine/Vector.lean ====
section
/-!
DEFINITION. Vector instructions on registers: arithmetic, compares, predicates, permutes, the long operations, conversions and
random numbers (13 R317 to R329, R335 to R339).
-/
namespace Sys2Proof.Machine

/-! ## Majors 0x20 to 0x23 (13 R317 to R321) -/

/-- The second source of an arithmetic member. -/
inductive VB where
  | vec | scal | un
deriving DecidableEq, Repr

/-- The value that a general register broadcasts (13 R317). -/
def vbroad (ty : BitVec 2) (x : Word) : Nat :=
  let w := tySize ty
  if ty.toNat < 2 then (fmtOf ty).enc .rne false (Fp.ofInt x.toInt)
  else toEl w (max (-(2 ^ (8 * w - 1) : Nat) : Int) (min ((2 ^ (8 * w - 1) : Nat) - 1 : Int) x.toInt))

/-- A member that writes its active elements: `f` of a, b and d. -/
def vArith (x : V3) (k : VB) (readD : Bool) (f : Nat → Nat → Nat → Nat) (s : State) : R Unit :=
  let w := tySize x.ty
  let vs := x.a :: ((if k = .vec then [x.b] else []) ++ (if readD then [x.d] else []))
  (vopnds (if k = .scal then [x.b] else []) vs (some x.d) true none (lateShort 4) s).bind fun l s =>
  let m := s.me.pr x.pg
  let a := vval l x.a
  let b := vval l x.b
  let d := vval l x.d
  let q := vbroad x.ty (s.me.gr x.b)
  let r := (List.range (256 / w)).map fun i =>
    f (getEl a w i) (match k with | .vec => getEl b w i | .scal => q | .un => 0) (getEl d w i)
  (wrV x.d (lanesOf m w) (ofEls w r) s).bind fun _ s => finish 4 s

/-- A floating-point member: exact, then rounded once to the type. -/
def vFlt (x : V3) (k : VB) (readD : Bool) (f : Fp → Fp → Fp → Fp) (s : State) : R Unit :=
  let m := fmtOf x.ty
  vArith x k readD (fun a b d => m.enc .rne false (f (m.dec a) (m.dec b) (m.dec d))) s

/-- −(a × b) − d. -/
def fpNfma (a b d : Fp) : Fp := (a.mul b).neg.add d.neg
/-- d − a × b. -/
def fpFms (a b d : Fp) : Fp := d.add (a.mul b).neg
/-- a × b + d. -/
def fpFma (a b d : Fp) : Fp := (a.mul b).add d

/-- VADD. -/
def execVadd (x : V3) (s : State) : Out1 := run s (vFlt x .vec false fun a b _ => a.add b)
/-- VSUB. -/
def execVsub (x : V3) (s : State) : Out1 := run s (vFlt x .vec false fun a b _ => a.add b.neg)
/-- VMUL. -/
def execVmul (x : V3) (s : State) : Out1 := run s (vFlt x .vec false fun a b _ => a.mul b)
/-- VFMA. -/
def execVfma (x : V3) (s : State) : Out1 := run s (vFlt x .vec true fpFma)
/-- VFMS. -/
def execVfms (x : V3) (s : State) : Out1 := run s (vFlt x .vec true fpFms)
/-- VNFMA. -/
def execVnfma (x : V3) (s : State) : Out1 := run s (vFlt x .vec true fpNfma)
/-- VMIN. -/
def execVmin (x : V3) (s : State) : Out1 := run s (vFlt x .vec false fun a b _ => a.minF b)
/-- VMAX. -/
def execVmax (x : V3) (s : State) : Out1 := run s (vFlt x .vec false fun a b _ => a.maxF b)
/-- VABS. -/
def execVabs (x : V3) (s : State) : Out1 := run s (vFlt x .un false fun a _ _ => a.absF)
/-- VNEG. -/
def execVneg (x : V3) (s : State) : Out1 := run s (vFlt x .un false fun a _ _ => a.neg)
/-- VRCPE. -/
def execVrcpe (x : V3) (s : State) : Out1 :=
  run s (vArith x .un false fun a _ _ => rcpe (fmtOf x.ty) ((fmtOf x.ty).dec a))
/-- VRSQE. -/
def execVrsqe (x : V3) (s : State) : Out1 :=
  run s (vArith x .un false fun a _ _ => rsqe (fmtOf x.ty) ((fmtOf x.ty).dec a))

/-- VADD.s. -/
def execVaddS (x : V3) (s : State) : Out1 := run s (vFlt x .scal false fun a b _ => a.add b)
/-- VSUB.s. -/
def execVsubS (x : V3) (s : State) : Out1 := run s (vFlt x .scal false fun a b _ => a.add b.neg)
/-- VMUL.s. -/
def execVmulS (x : V3) (s : State) : Out1 := run s (vFlt x .scal false fun a b _ => a.mul b)
/-- VFMA.s. -/
def execVfmaS (x : V3) (s : State) : Out1 := run s (vFlt x .scal true fpFma)
/-- VFMS.s. -/
def execVfmsS (x : V3) (s : State) : Out1 := run s (vFlt x .scal true fpFms)
/-- VNFMA.s. -/
def execVnfmaS (x : V3) (s : State) : Out1 := run s (vFlt x .scal true fpNfma)
/-- VMIN.s. -/
def execVminS (x : V3) (s : State) : Out1 := run s (vFlt x .scal false fun a b _ => a.minF b)
/-- VMAX.s. -/
def execVmaxS (x : V3) (s : State) : Out1 := run s (vFlt x .scal false fun a b _ => a.maxF b)

/-- An integer member, on elements of `w` bytes. -/
def vInt (x : V3) (k : VB) (f : Nat → Nat → Nat → Nat) (s : State) : R Unit :=
  vArith x k false (fun a b _ => f (tySize x.ty) a b) s

/-- The functions of the integer members. -/
def iAdd (_w a b : Nat) : Nat := a + b
def iSub (w a b : Nat) : Nat := toEl w ((a : Int) - b)
def iMul (_w a b : Nat) : Nat := a * b
def iAnd (_w a b : Nat) : Nat := Nat.land a b
def iOr (_w a b : Nat) : Nat := Nat.lor a b
def iXor (_w a b : Nat) : Nat := Nat.xor a b
def iShl (w a b : Nat) : Nat := a * 2 ^ (b % (8 * w))
def iShr (w a b : Nat) : Nat := a / 2 ^ (b % (8 * w))
def iSar (w a b : Nat) : Nat := toEl w (sInt w a / (2 ^ (b % (8 * w)) : Nat))
def iMin (w a b : Nat) : Nat := if sInt w a ≤ sInt w b then a else b
def iMax (w a b : Nat) : Nat := if sInt w a ≤ sInt w b then b else a
def iMinu (_w a b : Nat) : Nat := Nat.min a b
def iMaxu (_w a b : Nat) : Nat := Nat.max a b

/-- VIADD. -/
def execViadd (x : V3) (s : State) : Out1 := run s (vInt x .vec iAdd)
/-- VISUB. -/
def execVisub (x : V3) (s : State) : Out1 := run s (vInt x .vec iSub)
/-- VIMUL. -/
def execVimul (x : V3) (s : State) : Out1 := run s (vInt x .vec iMul)
/-- VAND. -/
def execVand (x : V3) (s : State) : Out1 := run s (vInt x .vec iAnd)
/-- VOR. -/
def execVor (x : V3) (s : State) : Out1 := run s (vInt x .vec iOr)
/-- VXOR. -/
def execVxor (x : V3) (s : State) : Out1 := run s (vInt x .vec iXor)
/-- VSHL. -/
def execVshl (x : V3) (s : State) : Out1 := run s (vInt x .vec iShl)
/-- VSHR. -/
def execVshr (x : V3) (s : State) : Out1 := run s (vInt x .vec iShr)
/-- VSAR. -/
def execVsar (x : V3) (s : State) : Out1 := run s (vInt x .vec iSar)
/-- VIMIN. -/
def execVimin (x : V3) (s : State) : Out1 := run s (vInt x .vec iMin)
/-- VIMAX. -/
def execVimax (x : V3) (s : State) : Out1 := run s (vInt x .vec iMax)
/-- VIMINU. -/
def execViminu (x : V3) (s : State) : Out1 := run s (vInt x .vec iMinu)
/-- VIMAXU. -/
def execVimaxu (x : V3) (s : State) : Out1 := run s (vInt x .vec iMaxu)
/-- VIADD.s. -/
def execViaddS (x : V3) (s : State) : Out1 := run s (vInt x .scal iAdd)
/-- VISUB.s. -/
def execVisubS (x : V3) (s : State) : Out1 := run s (vInt x .scal iSub)
/-- VIMUL.s. -/
def execVimulS (x : V3) (s : State) : Out1 := run s (vInt x .scal iMul)
/-- VAND.s. -/
def execVandS (x : V3) (s : State) : Out1 := run s (vInt x .scal iAnd)
/-- VOR.s. -/
def execVorS (x : V3) (s : State) : Out1 := run s (vInt x .scal iOr)
/-- VXOR.s. -/
def execVxorS (x : V3) (s : State) : Out1 := run s (vInt x .scal iXor)
/-- VSHL.s. -/
def execVshlS (x : V3) (s : State) : Out1 := run s (vInt x .scal iShl)
/-- VSHR.s. -/
def execVshrS (x : V3) (s : State) : Out1 := run s (vInt x .scal iShr)
/-- VSAR.s. -/
def execVsarS (x : V3) (s : State) : Out1 := run s (vInt x .scal iSar)
/-- VIMIN.s. -/
def execViminS (x : V3) (s : State) : Out1 := run s (vInt x .scal iMin)
/-- VIMAX.s. -/
def execVimaxS (x : V3) (s : State) : Out1 := run s (vInt x .scal iMax)
/-- VIMINU.s. -/
def execViminuS (x : V3) (s : State) : Out1 := run s (vInt x .scal iMinu)
/-- VIMAXU.s. -/
def execVimaxuS (x : V3) (s : State) : Out1 := run s (vInt x .scal iMaxu)

/-! ## VCMP (13 R322) -/

/-- A condition on floating-point values. -/
def cmpF (c : VCond) (a b : Fp) : Bool :=
  let un := a.isNan || b.isNan
  let eq := (a.isZero && b.isZero) || (!a.lt b && !b.lt a)
  match c with
  | .unord => un
  | .ord => !un
  | .ne => un || !eq
  | .eq => !un && eq
  | .lt => !un && !eq && a.lt b
  | .le => !un && (eq || a.lt b)
  | .gt => !un && !eq && b.lt a
  | .ge => !un && (eq || b.lt a)
  | _ => false

/-- A condition on integer elements. -/
def cmpI (c : VCond) (w a b : Nat) : Bool :=
  match c with
  | .eq => a == b
  | .ne => a != b
  | .lt => decide (sInt w a < sInt w b)
  | .le => decide (sInt w a ≤ sInt w b)
  | .gt => decide (sInt w b < sInt w a)
  | .ge => decide (sInt w b ≤ sInt w a)
  | .ltu => decide (a < b)
  | .leu => decide (a ≤ b)
  | .gtu => decide (b < a)
  | .geu => decide (b ≤ a)
  | _ => false

/-- The predicate that a field names. -/
def predOf (r : R5) : BitVec 3 := BitVec.ofNat 3 r.toNat

/-- Writes a predicate of elements of `w` bytes. -/
def wrP (p : BitVec 3) (w : Nat) (l : List Bool) (s : State) : State := s.upd fun t => t.wp p (ofBools w l)

/-- VCMP. -/
def execVcmp (c : VCond) (x : V3) (s : State) : Out1 := run s fun s =>
  let w := tySize x.ty
  (vopnds [] [x.a, x.b] none true none (lateShort 4) s).bind fun l s =>
  let m := s.me.pr x.pg
  let f := fmtOf x.ty
  let r := (List.range (256 / w)).map fun i =>
    let a := getEl (vval l x.a) w i
    let b := getEl (vval l x.b) w i
    act m w i && (if x.ty.toNat < 2 then cmpF c (f.dec a) (f.dec b) else cmpI c w a b)
  finish 4 (wrP (predOf x.d) w r s)

/-! ## Predicates, selection and lane access (13 R323, R324) -/

/-- A logical member on predicates. -/
def predOp (x : V3) (f : PReg → PReg → PReg) (s : State) : R Unit :=
  finish 4 (s.upd fun t => t.wp (predOf x.d) (f (t.pr (predOf x.a)) (t.pr x.pg)))

/-- PAND. -/
def execPand (x : V3) (s : State) : Out1 := run s (predOp x fun a b => a &&& b)
/-- POR. -/
def execPor (x : V3) (s : State) : Out1 := run s (predOp x fun a b => a ||| b)
/-- PXOR. -/
def execPxor (x : V3) (s : State) : Out1 := run s (predOp x fun a b => a ^^^ b)
/-- PANDN. -/
def execPandn (x : V3) (s : State) : Out1 := run s (predOp x fun a b => a &&& ~~~b)

/-- WHILELT and WHILELE. -/
def whileOp (x : V3) (f : Nat → Int → Bool) (s : State) : R Unit :=
  let w := tySize x.ty
  (needRegs [x.a] s).bind fun _ s =>
  let m := s.me.pr x.pg
  let n := (s.me.gr x.a).toInt
  finish 4 (wrP (predOf x.d) w ((List.range (256 / w)).map fun i => act m w i && f i n) s)

/-- WHILELT. -/
def execWhilelt (x : V3) (s : State) : Out1 := run s (whileOp x fun i n => (i : Int) < n)
/-- WHILELE. -/
def execWhilele (x : V3) (s : State) : Out1 := run s (whileOp x fun i n => (i : Int) ≤ n)

/-- The elements whose governing bits are true in two predicates. -/
def bothActive (m n : PReg) (w : Nat) : List Nat := (List.range (256 / w)).filter fun i => act m w i && act n w i

/-- VPOPC. -/
def execVpopc (x : V3) (s : State) : Out1 := run s fun s =>
  (wrG x.d (w64 (bothActive (s.me.pr (predOf x.a)) (s.me.pr x.pg) (tySize x.ty)).length) s).bind fun _ s => finish 4 s

/-- VFIRST. -/
def execVfirst (x : V3) (s : State) : Out1 := run s fun s =>
  (wrG x.d (match (bothActive (s.me.pr (predOf x.a)) (s.me.pr x.pg) (tySize x.ty)).head? with
    | some i => w64 i
    | none => BitVec.allOnes 64) s).bind fun _ s => finish 4 s

/-- VSEL. -/
def execVsel (x : V3) (s : State) : Out1 := run s fun s =>
  (vopnds [] [x.a, x.b] (some x.d) true none (lateShort 4) s).bind fun l s =>
  (wrV x.d (BitVec.allOnes 256) (blend (lanesOf (s.me.pr x.pg) (tySize x.ty)) (vval l x.a) (vval l x.b)) s).bind fun _ s =>
  finish 4 s

/-- The least active element. -/
def firstAct (m : PReg) (w : Nat) : Option Nat := (List.range (256 / w)).find? fun i => act m w i

/-- VEXT. -/
def execVext (x : V3) (s : State) : Out1 := run s fun s =>
  let w := tySize x.ty
  (vopnds [] [x.a] none true (some x.d) (lateShort 4) s).bind fun l s =>
  let v : Word := match firstAct (s.me.pr x.pg) w with
    | none => 0
    | some f => let e := getEl (vval l x.a) w f; if x.ty.toNat < 2 then w64 e else sx e (8 * w)
  finish 4 (s.setG x.d v)

/-- The lanes of one element. -/
def oneLane (w f : Nat) : PReg := ofBools w ((List.range (256 / w)).map fun i => i == f)

/-- VINS: nothing changes, and nothing is pushed, when no element is active. -/
def execVins (x : V3) (s : State) : Out1 := run s fun s =>
  let w := tySize x.ty
  (vopnds [x.a] [] (some x.d) true none (lateShort 4) s).bind fun _ s =>
  match firstAct (s.me.pr x.pg) w with
  | none => finish 4 s
  | some f =>
    let e := (s.me.gr x.a).toNat
    (wrV x.d (oneLane w f) (ofEls w (List.replicate (256 / w) e)) s).bind fun _ s => finish 4 s

/-- VBCAST. -/
def execVbcast (x : V3) (s : State) : Out1 := run s fun s =>
  let w := tySize x.ty
  (vopnds [x.a] [] (some x.d) true none (lateShort 4) s).bind fun _ s =>
  let e := (s.me.gr x.a).toNat
  (wrV x.d (lanesOf (s.me.pr x.pg) w) (ofEls w (List.replicate (256 / w) e)) s).bind fun _ s => finish 4 s

/-- VIOTA. -/
def execViota (x : V3) (s : State) : Out1 := run s fun s =>
  let w := tySize x.ty
  (vopnds [] [] (some x.d) true none (lateShort 4) s).bind fun _ s =>
  (wrV x.d (lanesOf (s.me.pr x.pg) w) (ofEls w (List.range (256 / w))) s).bind fun _ s => finish 4 s

/-- VLEN. -/
def execVlen (x : V3) (s : State) : Out1 := run s fun s =>
  (wrG x.d (w64 (256 / tySize x.ty)) s).bind fun _ s => finish 4 s

/-- VMOV. -/
def execVmov (x : V3) (s : State) : Out1 := run s fun s =>
  (vopnds [] [x.a] (some x.d) true none (lateShort 4) s).bind fun l s =>
  (wrV x.d (lanesOf (s.me.pr x.pg) (tySize x.ty)) (vval l x.a) s).bind fun _ s => finish 4 s

/-! ## Permutes and VROPE (13 R325, R326) -/

/-- A permute: the result from the element lists of vA and vB. -/
def permOp (x : V3) (un all : Bool) (f : PReg → Nat → List Nat → List Nat → List Nat) (s : State) : R Unit :=
  let w := tySize x.ty
  (vopnds [] (if un then [x.a] else [x.a, x.b]) (some x.d) true none (lateShort 4) s).bind fun l s =>
  let m := s.me.pr x.pg
  let r := f m w (els (vval l x.a) w) (els (vval l x.b) w)
  (wrV x.d (if all then BitVec.allOnes 256 else lanesOf m w) (ofEls w r) s).bind fun _ s => finish 4 s

/-- The elements at the positions of a list. -/
def pick (c : List Nat) (l : List Nat) : List Nat := l.map fun i => c.getD i 0

/-- VPERM. -/
def execVperm (x : V3) (s : State) : Out1 := run s (permOp x false false fun _ _ a b => pick a b)
/-- VZIPLO. -/
def execVziplo (x : V3) (s : State) : Out1 := run s (permOp x false false fun _ _ a b =>
  (List.range (a.length / 2)).flatMap fun k => [a.getD k 0, b.getD k 0])
/-- VZIPHI. -/
def execVziphi (x : V3) (s : State) : Out1 := run s (permOp x false false fun _ _ a b =>
  (List.range (a.length / 2)).flatMap fun k => [a.getD (a.length / 2 + k) 0, b.getD (a.length / 2 + k) 0])
/-- VUNZLO. -/
def execVunzlo (x : V3) (s : State) : Out1 := run s (permOp x false false fun _ _ a b =>
  pick (a ++ b) ((List.range a.length).map fun i => 2 * i))
/-- VUNZHI. -/
def execVunzhi (x : V3) (s : State) : Out1 := run s (permOp x false false fun _ _ a b =>
  pick (a ++ b) ((List.range a.length).map fun i => 2 * i + 1))
/-- VSLIDEUP. -/
def execVslideup (x : V3) (s : State) : Out1 := run s (permOp x false false fun _ _ a b =>
  b.getD (a.length - 1) 0 :: a.take (a.length - 1))
/-- VSLIDEDN. -/
def execVslidedn (x : V3) (s : State) : Out1 := run s (permOp x false false fun _ _ a b => a.drop 1 ++ [b.getD 0 0])
/-- VREV. -/
def execVrev (x : V3) (s : State) : Out1 := run s (permOp x true false fun _ _ a _ => a.reverse)
/-- VCOMPACT. -/
def execVcompact (x : V3) (s : State) : Out1 := run s (permOp x true true fun m w a _ =>
  let l := pick a ((List.range a.length).filter fun i => act m w i)
  l ++ List.replicate (a.length - l.length) 0)

/-- VROPE. -/
def execVrope (x : V3) (s : State) : Out1 := run s fun s =>
  let w := tySize x.ty
  (vopnds [] [x.a, x.b] (some x.d) true none (lateShort 4) s).bind fun l s =>
  let m := s.me.pr x.pg
  let a := vval l x.a
  let b := vval l x.b
  let r := (List.range (128 / w)).flatMap fun t =>
    let y := ropePair (fmtOf x.ty) (getEl a w (2 * t)) (getEl a w (2 * t + 1)) (getEl b w (2 * t)) (getEl b w (2 * t + 1))
    [y.1, y.2]
  let lanes := ofBools w ((List.range (256 / w)).map fun i => act m w (i / 2 * 2))
  (wrV x.d lanes (ofEls w r) s).bind fun _ s => finish 4 s

/-! ## Long operations (13 R327 to R329) -/

/-- A long member of major 0x27: a function of the elements of vA and, where binary, vB. -/
def vLong (x : XvA) (un : Bool) (rm : RM) (f : Fp → Fp → Fp) (s : State) : R Unit :=
  let w := tySize x.ty
  let m := fmtOf x.ty
  (vopnds [] (if un then [x.a] else [x.a, x.b]) (some x.d) false none (lateLong x.look 12) s).bind fun l s =>
  let r := (List.range (256 / w)).map fun i =>
    m.enc rm false (f (m.dec (getEl (vval l x.a) w i)) (m.dec (getEl (vval l x.b) w i)))
  openRegs x.look 12 [.v x.d (lanesOf (s.me.pr x.pg) w) (ofEls w r)] s

/-- VDIV. -/
def execVdiv (x : XvA) (s : State) : Out1 := run s (vLong x false (rmOf x.rm) Fp.div)
/-- VSQRT. -/
def execVsqrt (x : XvA) (s : State) : Out1 := run s (vLong x true (rmOf x.rm) fun a _ => a.sqrt)
/-- VEXP. -/
def execVexp (x : XvA) (s : State) : Out1 := run s (vLong x true .rne fun a _ => a.exp)
/-- VLOG. -/
def execVlog (x : XvA) (s : State) : Out1 := run s (vLong x true .rne fun a _ => a.log)
/-- VTANH. -/
def execVtanh (x : XvA) (s : State) : Out1 := run s (vLong x true .rne fun a _ => a.tanh)
/-- VERF. -/
def execVerf (x : XvA) (s : State) : Out1 := run s (vLong x true .rne fun a _ => a.erf)

/-- Element size of major 0x28. -/
def xvSize (x : XvA) : Nat := if x.b8 then 1 else tySize x.ty
/-- Its elements are floating-point values. -/
def xvFlt (x : XvA) : Bool := !x.b8 && x.ty.toNat < 2

/-- A floating-point element as FP32 bits. -/
def toF32 (ty : BitVec 2) (e : Nat) : Nat := if ty = 0 then e else ofBf e

/-- The floating-point tree of R124 over the active elements up to position `j`. -/
def fTree (ty : BitVec 2) (op : Nat → Nat → Nat) (ident : Nat) (m : PReg) (a : List Nat) (j : Nat) : Nat :=
  let w := tySize ty
  let n := 1024 / w
  let l := (List.range n).map fun i => if i ≤ j && i < a.length && act m w i then toF32 ty (a.getD i 0) else ident
  treeRed op ident (if w = 4 then 8 else 9) l

/-- The exact sum of the active integer elements up to position `j`. -/
def iSum (w : Nat) (m : PReg) (a : List Nat) (j : Nat) : Int :=
  (List.range a.length).foldl (fun t i => if i ≤ j && act m w i then t + sInt w (a.getD i 0) else t) 0

/-- FP32 maximum and minimum of bits. -/
def max32 (a b : Nat) : Nat := rne32 ((val32 a).maxF (val32 b))
def min32 (a b : Nat) : Nat := rne32 ((val32 a).minF (val32 b))

/-- A reduction to a general register. -/
def redOp (x : XvA) (fop : Nat → Nat → Nat) (fident : Nat) (iop : PReg → List Nat → Word) (s : State) : R Unit :=
  let w := xvSize x
  (vopnds [] [x.a] none true none (lateLong x.look 12) s).bind fun l s =>
  let m := s.me.pr x.pg
  let a := els (vval l x.a) w
  let v : Word := if xvFlt x then w64 (fTree x.ty fop fident m a 1023) else iop m a
  openRegs x.look 12 [.g x.d v] s

/-- The signed extreme of the active elements. -/
def iExt (w : Nat) (pick : Int → Int → Int) (ident : Int) (m : PReg) (a : List Nat) : Word :=
  BitVec.ofInt 64 ((List.range a.length).foldl (fun t i => if act m w i then pick t (sInt w (a.getD i 0)) else t) ident)

/-- VREDADD. -/
def execVredadd (x : XvA) (s : State) : Out1 := run s
  (redOp x add32 0x80000000 fun m a => BitVec.ofInt 64 (iSum (xvSize x) m a 256))
/-- VREDMAX. -/
def execVredmax (x : XvA) (s : State) : Out1 := run s
  (redOp x max32 0xFF800000 (iExt (xvSize x) max (-(2 ^ (8 * xvSize x - 1) : Nat) : Int)))
/-- VREDMIN. -/
def execVredmin (x : XvA) (s : State) : Out1 := run s
  (redOp x min32 0x7F800000 (iExt (xvSize x) min ((2 ^ (8 * xvSize x - 1) : Nat) - 1 : Int)))

/-- VSCANADD. -/
def execVscanadd (x : XvA) (s : State) : Out1 := run s fun s =>
  let w := xvSize x
  (vopnds [] [x.a] (some x.d) false none (lateLong x.look 12) s).bind fun l s =>
  let m := s.me.pr x.pg
  let a := els (vval l x.a) w
  let r := (List.range (256 / w)).map fun j =>
    if xvFlt x then
      let v := fTree x.ty add32 0x80000000 m a j
      if x.ty = 0 then v else toBf .rne v
    else toEl w (iSum w m a j)
  openRegs x.look 12 [.v x.d (lanesOf m w) (ofEls w r)] s

/-! ## VCVT (13 R335, R336) -/

/-- Converts one element between types of VCVT. -/
def cvtEl (dst src : Nat) (rm : RM) (e : Nat) : Nat :=
  let ws := cvtSize src
  let wd := cvtSize dst
  let fmt (t : Nat) : Fmt := if t = 0 then f32 else bf16
  if src < 2 then
    if dst < 2 then (fmt dst).enc rm (dst == 1) ((fmt src).dec e)
    else toEl wd (((fmt src).dec e).toInt rm (-(2 ^ (8 * wd - 1) : Nat) : Int) ((2 ^ (8 * wd - 1) : Nat) - 1 : Int))
  else if dst < 2 then (fmt dst).enc rm false (Fp.ofInt (sInt ws e))
  else toEl wd (max (-(2 ^ (8 * wd - 1) : Nat) : Int) (min ((2 ^ (8 * wd - 1) : Nat) - 1 : Int) (sInt ws e)))

/-- VCVT. -/
def execVcvt (x : CvtA) (s : State) : Out1 := run s fun s =>
  let ws := cvtSize x.sty.toNat
  let wd := cvtSize x.dty.toNat
  let m := 256 / Nat.max ws wd
  (vopnds [] [x.a] (some x.d) false none (lateLong x.look 12) s).bind fun l s =>
  let g := s.me.pr x.pg
  let n := 256 / wd
  let first := if wd ≤ ws then x.part.toNat * m else 0
  let conv (i : Nat) : Bool := first ≤ i && i < first + m
  let src (i : Nat) : Nat := if wd ≤ ws then i - first else x.part.toNat * m + i
  let r := (List.range n).map fun i =>
    if conv i then cvtEl x.dty.toNat x.sty.toNat (rmOf x.rm) (getEl (vval l x.a) ws (src i)) else 0
  let lanes := ofBools wd ((List.range n).map fun i => conv i && act g wd i)
  openRegs x.look 12 [.v x.d lanes (ofEls wd r)] s

/-! ## Random numbers (13 R338, R339) -/

/-- `n` draws and the state after them. -/
def Rng.draws : Nat → Rng → List Nat × Rng
  | 0, r => ([], r)
  | n + 1, r =>
    let (o, r) := r.step
    let (l, r) := r.draws n
    (o :: l, r)

/-- VRNG. -/
def execVrng (d : R5) (pg : BitVec 3) (ty : BitVec 2) (s : State) : Out1 := run s fun s =>
  (serialise s).bind fun _ s =>
  (vopnds [] [] (some d) true none (lateShort 4) s).bind fun _ s =>
  let w := tySize ty
  let (l, r) := (Rng.of s.agentT.rng).draws 128
  let stream := l.flatMap (bytesOfNat 8)
  let v := (List.range (256 / w)).map fun i =>
    let u := natOfBytes ((stream.drop (w * i)).take w)
    if ty = 0 then f32.enc .rne false (.fin false (u / 2 ^ 8) (-24))
    else if ty = 1 then bf16.enc .rne false (.fin false (u / 2 ^ 8) (-8)) else u
  (wrV d (lanesOf (s.me.pr pg) w) (ofEls w v) s).bind fun _ s =>
  finish 4 (s.updT s.me.agent fun t => { t with rng := r.bits })

/-- RSEED. -/
def execRseed (a : R5) (s : State) : Out1 := run s fun s =>
  (serialise s).bind fun _ s =>
  (needRegs [a] s).bind fun _ s =>
  let u := (s.me.gr a).toNat
  let b := Rng.of s.agentT.rngBase
  let nb : Rng := ⟨mix (Nat.xor u b.s0), mix (Nat.xor u b.s1), mix (Nat.xor u b.s2), mix (Nat.xor u b.s3)⟩
  finish 4 (s.updT s.me.agent fun t => { t with rngBase := nb.bits, rng := rngJump nb.bits t.gtid })

end Sys2Proof.Machine
end

