-- ==== Sys2Proof/Machine/VMem.lean ====
section
/-!
DEFINITION. Vector loads and stores (13 R330 to R334).
-/
namespace Sys2Proof.Machine

/-! ## What the members have in common -/

/-- A vector access: its lookahead and length, registers, element size, segment, and where its elements lie. -/
structure VAcc where
  look : BitVec 4
  len : Nat
  pg : BitVec 3
  a : R5
  d : R5
  idx : Option R5
  w : Nat
  seg : BitVec 3
  off : Int
  stride : Int
  sc : Nat
deriving DecidableEq, Repr

/-- VLD and VST in the VL encoding. -/
def vaccL (x : VlA) : VAcc :=
  { look := x.look, len := 4, pg := x.pg, a := x.a, d := x.d, idx := none, w := tySize x.ty, seg := 2, off := 0,
    stride := tySize x.ty, sc := 0 }
/-- In the XV encoding. -/
def vaccS (x : VStrA) : VAcc :=
  { look := x.look, len := 12, pg := x.pg, a := x.a, d := x.d, idx := none, w := if x.b8 then 1 else tySize x.ty,
    seg := x.seg, off := x.off.toInt, stride := x.stride.toInt, sc := 0 }
/-- VLDX and VSTX. -/
def vaccX (x : VIdxA) : VAcc :=
  { look := x.look, len := match x.off with | .small _ => 12 | .lit _ => 20, pg := x.pg, a := x.a, d := x.d, idx := some x.b,
    w := if x.b8 then 1 else tySize x.ty, seg := x.seg,
    off := match x.off with | .small o => o.toInt | .lit v => v.toInt, stride := 0, sc := x.sc.toNat }

/-- The active elements with their offsets; `iv` is the index register's value. -/
def State.vOffs (s : State) (x : VAcc) (iv : VReg) : List (Nat × Int) :=
  let m := s.me.pr x.pg
  let base := (s.me.gr x.a).toInt + x.off
  ((List.range (256 / x.w)).filter fun i => act m x.w i).map fun i =>
    (i, match x.idx with
      | some _ => base + sInt x.w (getEl iv x.w i) * (2 ^ x.sc : Nat)
      | none => base + x.stride * (i : Nat))

/-- The vector sources of an access. -/
def VAcc.srcs (x : VAcc) (store : Bool) : List R5 := x.idx.toList ++ (if store then [x.d] else [])

/-- The gate of a speculative lane for many units (07 R195, R196). -/
def specPlaces (w : Nat) (store : Bool) (l : List SegA) (s : State) : R Unit :=
  if store then specUnits [] (sized w l) s else specUnits (sized w l) [] s

/-- seg_check of every active element, in ascending order (13 R332). [DEDUCED, log 17] -/
def vChecks (x : VAcc) (store : Bool) : List Int → State → R Unit
  | [], s => .ok () s
  | e :: t, s =>
    match segCheck (s.me.seg x.seg) x.seg.toNat e x.w x.w (if store then needWR else needRD) with
    | .ok _ => vChecks x store t s
    | .bad r => segvR r x.seg.toNat s

/-- The addresses of the active elements: every element passes seg_check before any region is looked at, then the regions in
order, the thread home for AB, stages open (13 R332). -/
def vAddrs (x : VAcc) (offs : List (Nat × Int)) (store : Bool) (s : State) : R (List SegA) :=
  (vChecks x store (offs.map (·.2)) s).bind fun _ s =>
  (segsR x.seg x.w x.w (if store then needWR else needRD) store (offs.map (·.2)) s).bind fun l s =>
  (if l.any fun a => a.space == 1 then homeGate s else .ok () s).bind fun _ s =>
  (stagesR x.w l s).bind fun l s =>
  (specPlaces x.w store l s).bind fun _ s => .ok l s

/-! ## Loads -/

/-- Loads the elements at their addresses, all of them, and gives the register's new bytes, or the first trap. -/
def State.vLoad (s : State) (w : Nat) : List (Nat × SegA) → List (Nat × Nat) → Option Trap → State × List (Nat × Nat) × Option Trap
  | [], acc, t => (s, acc, t)
  | (i, a) :: rest, acc, t =>
    match s.trans a false true 0 with
    | .ok p =>
      match s.load p w p.lc.isNone with
      | .val bs s => State.vLoad s w rest ((i, natOfBytes bs) :: acc) t
      | .bad x s => State.vLoad s w rest acc (t.or (some x))
    | _ => State.vLoad s w rest acc t

/-- A page that an element's access still waits for, or that was failed. -/
def State.vPage (s : State) : List (Nat × SegA) → Option Tr
  | [] => none
  | (_, a) :: rest =>
    match s.trans a false true 0 with
    | .ok _ => s.vPage rest
    | x => some x

/-- Performs a vector load at resolved addresses. -/
def vldAt (x : VAcc) (l : List (Nat × SegA)) (s : State) : Perf :=
  match s.vPage l with
  | some (.page w s) => .later s (.page w)
  | some _ => .now s (.fault failTrap)
  | none =>
    match s.vLoad x.w l [] none with
    | (s, _, some t) => .now s (.fault t)
    | (s, els, none) =>
      let n := 256 / x.w
      let v := ofEls x.w ((List.range n).map fun i => ((els.find? fun e => e.1 == i).map (·.2)).getD 0)
      .now s (.regs [.v x.d (lanesOf (s.me.pr x.pg) x.w) v])

/-- Performs a vector load with the registers of its issue. -/
def perfVld (x : VAcc) (s : State) : Perf :=
  let offs := s.vOffs x (match x.idx with | some r => s.me.vr r | none => 0)
  let go := offs.foldr (fun (o : Nat × Int) (acc : List (Nat × SegA) × Option Nat) =>
    match s.unit x.seg o.2 x.w x.w needRD false with
    | .ok a => ((o.1, a) :: acc.1, acc.2)
    | .bad r => (acc.1, some r)) ([], none)
  match go.2 with
  | some r => .now s (.fault ⟨4, segTval r x.seg.toNat, none⟩)
  | none => vldAt x go.1 s

/-- The index register as the access reads it stands in the thread's shadow from here on. -/
def State.latchIdx (s : State) (idx : Option R5) (l : List (R5 × VReg)) : State :=
  match idx with
  | none => s
  | some r => s.upd fun t => { t with shadow := some { t.snap with v := t.snap.v.set r.toNat (vval l r) (r.isLt) } }

/-- The issue of a vector load. -/
def vldOp (i : Instr) (x : VAcc) (s : State) : R Unit :=
  (vgates [x.a] (x.srcs false) (some x.d) false none s).bind fun _ s =>
  (accessGate s).bind fun _ s =>
  let iv := vval (s.vread (x.srcs false)).1 (x.idx.getD 0)
  let offs := s.vOffs x iv
  (vAddrs x offs false s).bind fun l s =>
  (vtake (x.srcs false) (lateLong x.look x.len) s).bind fun vs s =>
  let s := s.latchIdx x.idx vs
  openPerf i x.look x.len false false (vldAt x ((offs.map (·.1)).zip l) s)

/-- VLD. -/
def execVld (x : VlA) (s : State) : Out1 := run s (vldOp (.vld x) (vaccL x))
/-- VLD with a stride. -/
def execVldStrided (x : VStrA) (s : State) : Out1 := run s (vldOp (.vldStrided x) (vaccS x))
/-- VLDX. -/
def execVldx (x : VIdxA) (s : State) : Out1 := run s (vldOp (.vldx x) (vaccX x))

/-! ## Stores -/

/-- The bits of partly written bytes, as they stand. -/
def State.wholeBytes (s : State) (w : EW) : EW :=
  let m := maskOfBits w.bm
  let full := (List.range 8).foldl (fun a i => if m.toNat.testBit i then a + 255 * 2 ^ (8 * i) else a) 0
  let old := natOfBytes (s.seen w.p 8)
  { w with bm := full, x := Nat.lor w.x (clearBits (Nat.land old full) w.bm) }

/-- Stores words of the current thread in ascending address: a speculative lane's go to its side buffer, the others are
performed, and the first that clashes gives the trap. -/
def State.storeEWs (s : State) (l : List EW) : State × Option Trap :=
  let s := s.spoil (l.map fun w => w.p.loc / 8)
  if s.me.spec then
    (s.upd fun t => t.addBuf (l.map fun w => ⟨w.p, true, true, maskOfBits w.bm, w64 w.x, t.seq, t.pc⟩), none)
  else
    l.foldl (fun (a : State × Option Trap) w =>
      let (s, x) := a.1.storeWord w.p (maskOfBits w.bm) (w64 w.x)
      (s, a.2.or x)) (s, none)

/-- The issue of a vector store; the element with the highest index wins a byte (13 R333). -/
def vstOp (x : VAcc) (s : State) : R Unit :=
  (vgates [x.a] (x.srcs true) none false none s).bind fun _ s =>
  (accessGate s).bind fun _ s =>
  let iv := vval (s.vread (x.srcs true).eraseDups).1 (x.idx.getD 0)
  let offs := s.vOffs x iv
  (vAddrs x offs true s).bind fun l s =>
  (transesR x.len true false 1 l s).bind fun pl s =>
  (vtake (x.srcs true) (lateShort x.len) s).bind fun vs s =>
  let data := vval vs x.d
  let ws := (((offs.map (·.1)).zip pl).map fun y => elemEW y.2 0 (8 * x.w) (getEl data x.w y.1) false).foldr putEW []
  let (s, v) := s.storeEWs ws
  finish x.len (s.verdict v)

/-- VST. -/
def execVst (x : VlA) (s : State) : Out1 := run s (vstOp (vaccL x))
/-- VST with a stride. -/
def execVstStrided (x : VStrA) (s : State) : Out1 := run s (vstOp (vaccS x))
/-- VSTX. -/
def execVstx (x : VIdxA) (s : State) : Out1 := run s (vstOp (vaccX x))

end Sys2Proof.Machine
end

