-- ==== Sys2Proof/Machine/Matrix.lean ====
section
/-!
DEFINITION. The matrix path: the queue of each core's engine, WLD, MMA, MSACC, MZERO, MPRI, MST, MLDA and MSTQ, with the
steps that perform and retire them (14 R340 to R357; 04 R119 to R123).
-/
namespace Sys2Proof.Machine

/-! ## Matrix state (14 R340) -/

/-- A weight tile of a vcore. -/
def Vcore.tile (v : Vcore) (n : Nat) : Tile := ((v.tiles.find? fun x => x.1 == n).map (·.2)).getD {}

/-- Puts a weight tile. -/
def Vcore.setTile (v : Vcore) (n : Nat) (t : Tile) : Vcore :=
  { v with tiles := (n, t) :: v.tiles.filter fun x => x.1 != n }

/-- A row of an accumulator, by 128 × accumulator + row. -/
def Vcore.accRow (v : Vcore) (n : Nat) : List (BitVec 32) :=
  ((v.acc.find? fun x => x.1 == n).map (·.2)).getD (List.replicate 128 0)

/-- Puts rows of accumulators. -/
def Vcore.setAcc (v : Vcore) (l : List (Nat × List (BitVec 32))) : Vcore :=
  { v with acc := (l.filter fun x => x.2.any (· != 0)) ++ v.acc.filter fun y => !(l.any fun x => x.1 == y.1) }

/-- A row of a partial tile, by 128 × tile + row. -/
def Vcore.ptRow (v : Vcore) (n : Nat) : List Word :=
  ((v.pts.find? fun x => x.1 == n).map (·.2)).getD (List.replicate 128 0)

/-- Puts rows of partial tiles. -/
def Vcore.setPt (v : Vcore) (l : List (Nat × List Word)) : Vcore :=
  { v with pts := (l.filter fun x => x.2.any (· != 0)) ++ v.pts.filter fun y => !(l.any fun x => x.1 == y.1) }

/-- UNIT of a partial tile, as a power of two, for a lane's band. -/
def Vcore.unitOf (v : Vcore) (lane tile : Nat) : Int :=
  ((v.units.find? fun x => x.1 == lane && x.2.1 == tile).map (·.2.2)).getD (-32)

/-- Sets UNIT. -/
def Vcore.setUnit (v : Vcore) (lane tile : Nat) (u : Int) : Vcore :=
  let l := v.units.filter fun x => !(x.1 == lane && x.2.1 == tile)
  { v with units := if u = -32 then l else (lane, tile, u) :: l }

/-- Clears the bands of a lane (07 R189), and all four tiles (07 R198). -/
def Vcore.clearBand (v : Vcore) (j : Nat) : Vcore :=
  { v with acc := v.acc.filter fun x => x.1 % 128 / 16 != j,
           pts := v.pts.filter fun x => x.1 % 128 / 4 != j,
           units := v.units.filter fun x => x.1 != j }
def Vcore.clearTiles (v : Vcore) : Vcore := { v with acc := [], pts := [], units := [] }

/-! ## What matrix instructions have in common (14 R341, R345, R346) -/

/-- A matrix instruction rather than an ATTN. -/
def MatQ.matrix (m : MatQ) : Bool := match m.i with | .attn _ => false | _ => true

/-- The band that the current thread uses in an open forecast loop (07 R198). -/
def Thread.band (t : Thread) : Option Nat := if t.looping then some t.laneIndex else none

/-- The first row of a band, in accumulators and in partial tiles. -/
def accBase (band : Option Nat) : Nat := (band.map (16 * ·)).getD 0
def ptBase (band : Option Nat) : Nat := (band.map (4 * ·)).getD 0

/-- A matrix instruction waits for the thread's earlier one, which retires also where it faults (14 R341, R342). -/
def matGate (s : State) : R Unit :=
  if s.matq.any fun m => m.thr == s.me.uid && m.matrix then parkR .matrix s else homeGate s

/-- A tile beyond the vcore's region; the fault's value is the number in the encoding. -/
def tileR (limit n tval : Nat) (s : State) : R Unit := if limit ≤ n then illegalR (w64 tval) s else .ok () s

/-- A row beyond the lane's band (14 R340). -/
def bandR (size first count : Nat) (s : State) : R Unit :=
  if s.me.band.isSome && size < first + count then illegalR (w64 (Nat.max first size)) s else .ok () s

/-- The limits of the task's launch record. -/
def State.kt (s : State) : Task := s.task s.me.task

/-- The frame that an instruction names (04 R108, 14 R345), with the trap of a poisoned word in it, which comes after every fault
of the issue (14 R346, 01 R476). [DEDUCED, log 88] -/
def frameR (seg : BitVec 3) (f : R5) (len : Nat) (s : State) : R (List Word × Frame × Option Trap) :=
  (segR seg (s.me.gr f).toInt 32 32 needRD false s).bind fun a s =>
  (stageR a 32 s).bind fun a s =>
  (if a.space == 1 then homeGate s else .ok () s).bind fun _ s =>
  (specAccess a 32 false s).bind fun _ s =>
  (transR len a false true 0 s).bind fun p s =>
  let (ws, x, s) := s.recBoth p 4
  match frameOf ws with
  | none => illegalR 0 s
  | some f => .ok (ws, f, x) s

/-- The origin and the format (14 R345). -/
def originR (o : Word) (f : Frame) (fmt : Nat) (s : State) : R (Nat × Nat) :=
  if bits o 63 40 != 0 then illegalR 1 s
  else if nfmt? fmt != some f.fmt then illegalR 2 s
  else .ok (bits o 19 0, bits o 39 20) s

/-- The check of a direct AB offset (14 R345), but for its alignment. -/
def State.abOne (s : State) (e : Int) (n : Nat) (store : Bool) : Chk :=
  if e < 0 || (s.kt.absz * 4096 : Int) < e + n then .bad 3
  else if store && 1984 < e + n && e < 2048 then .bad 5
  else if ((s.vcore s.me.vu).flumesAt e.toNat n).any fun f => !f.member (s.slotOf s.me) then .bad 6
  else .ok ⟨1, 0, e.toNat, 0⟩

/-- The first check that fails. -/
def firstBad : List Chk → Option Nat
  | [] => none
  | .bad r :: _ => some r
  | .ok _ :: t => firstBad t

/-- The addresses of checks that hold. -/
def goodOnes : List Chk → List SegA
  | [] => []
  | .ok a :: t => a :: goodOnes t
  | .bad _ :: t => goodOnes t

/-- Some units of a row lie in a flume region and some outside it (02 R69). -/
def State.rowSplit (s : State) (l : List (Int × Nat)) : Bool :=
  (s.vcore s.me.vu).flumes.any fun f =>
    let inside (x : Int × Nat) : Bool := (f.base : Int) ≤ x.1 && x.1 + x.2 ≤ (f.base + f.size : Nat)
    let touch (x : Int × Nat) : Bool := x.1 < (f.base + f.size : Nat) && (f.base : Int) < x.1 + x.2
    l.any touch && !(l.all inside)

/-- One row of direct AB offsets: checked, then resolved through its flume, which parks at issue (14 R345; 02 R68). -/
def abRowR (store : Bool) (l : List (Int × Nat)) (s : State) : R (List SegA) :=
  let cs := l.map fun x => s.abOne x.1 x.2 store
  match firstBad cs with
  | some r => segvR r 0 s
  | none => if s.rowSplit l then segvR 9 0 s else .ok (goodOnes cs) s

/-- Rows in order. -/
def abRowsR (store : Bool) : List (List (Int × Nat)) → State → R (List SegA)
  | [], s => .ok [] s
  | r :: t, s => (abRowR store r s).bind fun a s => (abRowsR store t s).bind fun l s => .ok (a ++ l) s

/-- Resolves and waits for what a lane's access waits for. -/
def abReadyR (n : Nat) (store : Bool) (l : List SegA) (s : State) : R (List SegA) :=
  (stagesR n l s).bind fun l s => (specPlaces n store l s).bind fun _ s => .ok l s

/-- The indices of a tensor's strip rows: (O0 + k, O1 + r, 0, 0). -/
def stripIdx (o : Nat × Nat) (r : Nat) : List (List Nat) := (List.range 128).map fun k => [o.1 + k, o.2 + r, 0, 0]

/-- Base of a tensor or array: s(gA) + s(b()). -/
def baseOf (s : State) (a : R5) (b : Word) : Int := (s.me.gr a).toInt + b.toInt

/-- A matrix instruction of the current thread before it enters the queue. -/
def State.matDraft (s : State) (i : Instr) : MatQ :=
  { core := s.me.core, thr := s.me.uid, vu := s.me.vu, wid := none, prio := s.me.mpri.toNat, order := s.order, i := i,
    pc := s.me.pc, seq := s.me.seq, band := s.me.band, epoch := s.agentT.epoch }

/-- Enters the queue: the instruction has issued and its window is open. -/
def matEnter (look : BitVec 4) (len : Nat) (m : MatQ) (s : State) : R Unit :=
  let pc := s.me.pc
  let s := s.retire len
  let w : Window := { wid := s.me.seq, rem := look.toNat, pc := pc,
                      res := .wait (if m.matrix then .matrix else .attn) }
  let s := s.upd fun t => { t with windows := t.windows ++ [w] }
  .ok () { s.stamp with matq := s.matq ++ [{ m with wid := some w.wid }] }

/-- Enters the queue, but for an instruction with a poisoned frame or descriptor, which performs nothing and takes the trap at
the close of its window (01 R476). -/
def matEnterP (look : BitVec 4) (len : Nat) (bad : Option Trap) (m : State → MatQ × State) (s : State) : R Unit :=
  match bad with
  | some x => .stop (lateLong look len x s)
  | none => let (m, s) := m s; matEnter look len m s

/-- The clock of the engine's writes and the place in the digest of an instruction that writes (08 R213). -/
def State.matWrites (s : State) (m : MatQ) : MatQ × State :=
  let (c, s) := s.release false
  let hole := s.order
  let s := if s.me.spec then s else s.updT s.me.agent fun t => { t with folds := t.folds ++ [.hole hole] }
  ({ m with clk := c, hole := hole }, s)

/-! ## Places in the digest -/

/-- The four words that DGST stores, as the digest stands. -/
def digWords (t : Thread) : List Word :=
  [w64 (t.dig.toNat % 2 ^ 64), w64 (t.dig.toNat / 2 ^ 64), w64 t.gtid, w64 t.folded]

/-- Settles the digest of a thread step by step. -/
def State.settle (s : State) (u : Nat) : Nat → State
  | 0 => s
  | n + 1 =>
    match s.thread? u with
    | none => s
    | some t =>
      match t.folds with
      | .blocks l :: r => State.settle (s.updT u fun t => { (t.foldNow l) with folds := r }) u n
      | .mark c :: r =>
        State.settle ((s.setCmd c fun k => { k with record := digWords t }).updT u fun t => { t with folds := r }) u n
      | _ => s

/-- The blocks of a place in a digest have come. -/
def State.fillHole (s : State) (u hole : Nat) (l : List Dig) : State :=
  let s := s.updT u fun t => { t with folds := t.folds.map fun f => match f with
    | .hole h => if h = hole then .blocks l else f
    | _ => f }
  s.settle u (((s.thread? u).map fun t => t.folds.length).getD 0)

/-! ## Reads and writes of the engine in AB -/

/-- The place of a resolved AB address. -/
def MatQ.place (m : MatQ) (a : SegA) : Place :=
  { space := 1, addr := a.addr, loc := abBase m.vu + a.addr, slice := none }

/-- Reads bytes for a thread's instruction: engine reads, which a speculative lane's read set takes (07 R195, R196). -/
def State.matRead (s : State) (m : MatQ) (a : SegA) (n : Nat) : List Byte × Option Trap × State :=
  let p := m.place a
  (s.seen p n, s.seenTrap p n, if s.me.spec then s.specRead p n false else s)

/-- Reads many units; the first poison counts. -/
def State.matReads (s : State) (m : MatQ) (n : Nat) : List SegA → List (List Byte) × Option Trap × State
  | [] => ([], none, s)
  | a :: t =>
    let (b, x, s) := s.matRead m a n
    let (l, y, s) := s.matReads m n t
    (b :: l, x.or y, s)

/-- Writes words for a thread's instruction: engine writes, which set words full, or entries of a speculative lane's side
buffer (07 R195); they fold at the instruction's place. -/
def State.matWrite (s : State) (m : MatQ) (l : List EW) : State :=
  let s := s.spoil (l.map fun w => w.p.loc / 8)
  if s.me.spec then
    s.upd fun t => t.addBuf ((l.map s.wholeBytes).map fun w => ⟨w.p, true, false, maskOfBits w.bm, w64 w.x, m.seq, m.pc⟩)
  else
    let (s, ws) := s.putEWs m.clk l
    s.fillHole s.me.agent m.hole (ws.map fun w => digBlock 0 w.space w.mask.toNat w.addr (maskedWord w.mask w.x))

/-- Writes nothing at the place of an instruction that would have written. -/
def State.matNone (s : State) (m : MatQ) : State := s.fillHole s.me.agent m.hole []

/-- Changes the current thread's vcore. -/
def State.updV (s : State) (vu : Nat) (f : Vcore → Vcore) : State := s.setVcore vu f

/-! ## Block products (04 R119 to R122) -/

/-- The exponent of the step of a format's exact values. -/
def NFmt.step (f : NFmt) : Int := match f with | .e4m3 => -17 | _ => -8

/-- The exact value of a code as a whole number of steps; none for a NaN. -/
def stepVal (f : NFmt) (code k : Nat) : Option Int := (dequant f code k).map fun v => v.at f.step

/-- log2 of UNIT of a pair. -/
def unitLog (a w : NFmt) : Int := if a = .e4m3 && w = .e4m3 then -34 else -32

/-- The rows of a tile as whole numbers of steps. -/
def Tile.vals (t : Tile) (f : NFmt) : List (List (Option Int)) :=
  (List.range 128).map fun k => ((t.codes.drop (128 * k)).take 128).map fun c => match c with
    | none => some 0
    | some (b, d) => stepVal f (b.toNat % 2 ^ f.bits) d.toNat

/-- Adds a multiple of a row of weights to the sums of the columns; none marks a NaN. -/
def addRow (a : Option Int) : List (Option Int) → List (Option Int) → List (Option Int)
  | [], _ => []
  | p :: ps, [] => (match a with | some _ => p | none => none) :: addRow a ps []
  | p :: ps, w :: ws =>
    (match a, w, p with
     | some x, some y, some z => some (z + x * y)
     | _, _, _ => none) :: addRow a ps ws

/-- The block product of one strip (04 R119, R120). -/
def blockProduct (sh : Nat) (a : List (Option Int)) (w : List (List (Option Int))) : List Word :=
  ((a.zip w).foldl (fun p x => addRow x.1 p x.2) (List.replicate 128 (some 0))).map fun p => match p with
    | none => BitVec.ofNat 64 (2 ^ 63)
    | some x => BitVec.ofInt 64 (x * 2 ^ sh)

/-- msacc_elem (04 R122). -/
def msaccElem (acc : BitVec 32) (sa sw : Nat) (p : Word) (unit : Int) : BitVec 32 :=
  if p.toNat = 2 ^ 63 then BitVec.ofNat 32 f32.qnan
  else
    let q := Fp.fin (p.toInt < 0) p.toInt.natAbs unit
    BitVec.ofNat 32 (rne32 ((val32 acc.toNat).add ((val32 (mul32 sa sw)).mul q)))

/-! ## WLD (14 R347 to R349) -/

/-- The byte offsets of the tile's elements inside the frame, in the order of the fill. -/
def wldOffs (f : Frame) (o : Nat × Nat) (base : Int) : List Int :=
  (List.range 128).flatMap fun k => ((stripIdx o k).filter f.inside).map fun i => base + (f.place i).1

/-- WLD. -/
def execWld (x : WldA) (s : State) : Out1 := run s fun s =>
  let len := bLenX x.b
  (serialise s).bind fun _ s =>
  (needRegs (x.a :: x.d :: x.f :: bRegs x.b) s).bind fun _ s =>
  (matGate s).bind fun _ s =>
  (tileR s.kt.nwb x.tile.toNat x.tile.toNat s).bind fun _ s =>
  (frameR x.seg x.f len s).bind fun (ws, f, bad) s =>
  (originR (s.me.gr x.d) f x.wf.toNat s).bind fun o s =>
  (readB x.b s).bind fun b s =>
  (segsR x.seg 1 1 (needRD + needEN) false (wldOffs f o (baseOf s x.a b)) s).bind fun l s =>
  (stagesR 1 l s).bind fun l s =>
  matEnterP x.look len bad (fun s => ({ s.matDraft (.wld x) with frame := ws, org := o, a := l }, s)) s

/-- What an engine that works for a thread finds at an address: a place, a page to wait for, or that there is none. -/
def State.fillPlace (s : State) (m : MatQ) (gtid : Nat) (a : SegA) : Tr :=
  match a.space with
  | 1 => .ok (m.place a)
  | 2 => .ok { space := 2, addr := a.addr, loc := cistBase a.slice + a.addr, slice := some a.slice }
  | _ =>
    let fn := (s.task (m.vu / 1024)).fn
    match s.xlate (m.core / 1024 % 2) fn a.addr false with
    | .ok p _ => if p.lc.isSome then .lc else .ok p
    | .fault c => let (s, w) := s.fault (m.core / 1024 % 2) 0 fn (a.addr / 2 ^ 16) c gtid; .page w s

/-- Reads the code bytes of a fill, in order; the first poisoned word is remembered. -/
def State.fillBytes (s : State) (m : MatQ) (gtid : Nat) : List SegA → List Byte → Option Word → Tr ⊕ (List Byte × Option Word)
  | [], acc, bad => .inr (acc.reverse, bad)
  | a :: t, acc, bad =>
    match s.fillPlace m gtid a with
    | .ok p =>
      let bad := if bad.isNone && (s.poisonP p 1).isSome then some (p.tval 0) else bad
      State.fillBytes s m gtid t (s.byte (p.at 0) :: acc) bad
    | x => .inl x

/-- The codes of a tile from the bytes of its elements inside the frame. -/
def tileCodes (f : Frame) (o : Nat × Nat) : List (Nat × List Nat) → List Byte → List (Option (BitVec 8 × BitVec 7))
  | [], _ => []
  | (_, i) :: t, bs =>
    if f.inside i then
      let c := f.fmt.code (bs.headD 0) (f.place i).2
      let c := if f.fmt = .int4 && 8 ≤ c then c + 240 else c
      some (BitVec.ofNat 8 c, BitVec.ofNat 7 (f.dither i)) :: tileCodes f o t (bs.drop 1)
    else none :: tileCodes f o t bs

/-- The fill stands at the head of its tile. -/
def State.fillFirst (s : State) (x : Fill) : Bool :=
  s.fills.all fun y => !(y.vu == x.vu && y.tile == x.tile && y.order < x.order)

/-- WLD_FILL_COMPLETE (14 R348, R349): reads the codes and replaces the tile. -/
def execWldFillComplete (s : State) : Out1 :=
  match s.fills.find? fun x => x.vu == s.op.vc && x.order == s.op.wid with
  | none => .fault .notEnabled
  | some x =>
    let drop (s : State) : State := { s with fills := s.fills.filter fun y => !(y.vu == x.vu && y.order == x.order) }
    let waiting := match x.m.page with | some w => !w.woken | none => false
    if waiting || !s.fillFirst x then .fault .notEnabled
    else
      let lost (t : Trap) : Out1 := .next ((drop s).updT x.m.thr fun t' => { t' with
        verdicts := t'.verdicts ++ [⟨⟨x.m.seq + 1, x.m.pc, t⟩, true⟩] })
      if (x.m.page.map (·.failed)).getD false then lost failTrap
      else
        let gtid := ((s.thread? x.m.thr).map Thread.gtid).getD 0
        match s.fillBytes x.m gtid x.m.a [] none, frameOf x.m.frame with
        | .inl (.page w s), _ => .next { s with fills := s.fills.map fun y =>
            if y.vu == x.vu && y.order == x.order then { y with m := { y.m with page := some w } } else y }
        | .inl .lc, _ => lost (lcTrap ((x.m.a.head?.map (·.seg)).getD 0))
        | .inr (bs, bad), some f =>
          let idx := (List.range 128).flatMap fun k => (stripIdx x.m.org k).map fun i => (k, i)
          let t : Tile := { tag := match f.fmt with | .e4m3 => 1 | .int8 => 2 | .int4 => 3,
                            codes := tileCodes f x.m.org idx bs, poison := bad }
          .next ((drop s).setVcore x.vu fun v => v.setTile x.tile t)
        | _, _ => .next (drop s)

/-! ## MMA (14 R350 to R353) -/

/-- The A operand's element bytes by row, inside the frame. -/
def mmaRows (f : Frame) (o : Nat × Nat) (base : Int) (r : Nat) : List (List (Int × Nat)) :=
  (List.range r).map fun k => ((stripIdx o k).filter f.inside).map fun i => (base + (f.place i).1, 1)

/-- The stream that an MMA takes its A operand from stands at a page that is not there (14 R353). -/
def Runnel.stuck (y : Runnel) : Bool := y.ahead == [] && (match y.wait with | some w => !w.failed | none => false)

/-- MMA with a runnel: the violation of its element's address, then its own faults; it takes its element, or where the element's
page is not there leaves it to be fetched again from its checkpoint (14 R352, R353). -/
def mmaRun (x : MmaA) (len : Nat) (m : MatQ) (bad : Option Trap) (s : State) : R Unit :=
  let own (s : State) (k : State → R Unit) : R Unit := if 2 ≤ x.rm1.toNat then illegalR 5 s else k s
  match s.me.runnel x.run.toNat with
  | none => own s fun s => illegalR 0 s
  | some y =>
    if y.write || y.len ≤ y.taken then own s fun s => illegalR (w64 x.run.toNat) s
    else
      (accessGate s).bind fun _ s =>
      match s.elemAt s.me y y.taken with
      | .bad c => segvR c y.segNo s
      | .ok a => own s fun s =>
        let m := { m with check := some (y, y.taken) }
        if y.stuck then
          matEnterP x.look len bad (fun s => ({ m with replay := true, page := y.wait }, s.upd fun t =>
            t.setRunnel y.v fun y => { y with taken := y.taken + 1, done := Nat.max y.done (y.taken + 1), wait := none })) s
        else if y.ahead = [] && !(y.wait.map (·.failed)).getD false then parkR (.element y.v) s
        else
          match s.elemPlaces s.me y a, y.ahead with
          | .inl _, _ :: _ => parkR (.element y.v) (s.upd fun t => t.setRunnel y.v fun y => { y with ahead := [] })
          | _, _ => matEnterP x.look len bad (fun s =>
              let (v, t, s) := s.take x.run y
              ({ m with elem := some v, trap := t }, s)) s

/-- MMA. -/
def execMma (x : MmaA) (s : State) : Out1 := run s fun s =>
  let len := bLenX x.b
  let r := x.rm1.toNat + 1
  (needRegs (x.a :: x.d :: x.f :: bRegs x.b) s).bind fun _ s =>
  (if x.run != 0 then runnelGate [x.run] s else .ok () s).bind fun _ s =>
  (matGate s).bind fun _ s =>
  (tileR s.kt.npt (b2n x.pt) (b2n x.pt) s).bind fun _ s =>
  (tileR s.kt.nwb x.tile.toNat x.tile.toNat s).bind fun _ s =>
  (bandR 4 0 r s).bind fun _ s =>
  (frameR x.fseg x.f len s).bind fun (ws, f, bad) s =>
  (originR (s.me.gr x.d) f (if x.i8 then 2 else 1) s).bind fun o s =>
  let m := { s.matDraft (.mma x) with frame := ws, org := o }
  if x.run != 0 then mmaRun x len m bad s
  else
    (readB x.b s).bind fun b s =>
    let t := baseOf s x.a b
    if t % 128 ≠ 0 then segvR 4 0 s
    else
      (abRowsR false (mmaRows f o t r) s).bind fun l s =>
      (abReadyR 1 false l s).bind fun l s => matEnterP x.look len bad (fun s => ({ m with a := l }, s)) s

/-- The exact values of the A operand from the bytes of its elements inside the frame. -/
def aVals (f : Frame) : List (List Nat) → List Nat → List (Option Int)
  | [], _ => []
  | i :: t, bs =>
    if f.inside i then stepVal f.fmt (bs.headD 0) (f.dither i) :: aVals f t (bs.drop 1) else some 0 :: aVals f t bs

/-- The rows of the A operand. -/
def aRows (f : Frame) (o : Nat × Nat) : Nat → Nat → List Nat → List (List (Option Int))
  | _, 0, _ => []
  | k, r + 1, bs =>
    let idx := stripIdx o k
    aVals f idx bs :: aRows f o (k + 1) r (bs.drop (idx.filter f.inside).length)

/-- The rows of the A operand in a runnel's element: byte 128 r + k is element k of row r. -/
def aElem (f : Frame) (o : Nat × Nat) (x : VReg) (r : Nat) : List (List (Option Int)) :=
  (List.range r).map fun q => ((stripIdx o q).zip (List.range 128)).map fun i =>
    if f.inside i.1 then stepVal f.fmt (getEl x 1 (128 * q + i.2)) (f.dither i.1) else some 0

/-- Performs MMA: its late faults, or the rows of the partial tile. -/
def perfMma (x : MmaA) (m : MatQ) (s : State) : State × Option Trap :=
  let v := s.vcore m.vu
  let t := v.tile x.tile.toNat
  match frameOf m.frame, nfmt? x.wf.toNat with
  | some f, some wf =>
    let r := x.rm1.toNat + 1
    let (rows, bad, s) : List (List (Option Int)) × Option Trap × State := match m.elem with
      | some e => (aElem f m.org e r, m.trap, s)
      | none =>
        let (bs, bad, s) := s.matReads m 1 m.a
        (aRows f m.org 0 r (bs.map natOfBytes), m.trap.or bad, s)
    if t.tag = 0 then (s, some ⟨3, 3, none⟩)
    else if t.tag ≠ x.wf.toNat then (s, some ⟨3, 4, none⟩)
    else
      match (t.poison.map fun a => (⟨6, a, none⟩ : Trap)).or bad with
      | some y => (s, some y)
      | none =>
        let w := t.vals wf
        let u := unitLog f.fmt wf
        let sh := (f.fmt.step + wf.step - u).toNat
        let base := 128 * b2n x.pt + ptBase m.band
        (s.setVcore m.vu fun v => (v.setPt (((List.range r).zip rows).map fun y => (base + y.1, blockProduct sh y.2 w))).setUnit
          (m.band.getD 0) (b2n x.pt) u, none)
  | _, _ => (s, none)

/-! ## MSACC, MZERO and MPRI (14 R354, R355) -/

/-- MSACC. -/
def execMsacc (x : MsaccA) (s : State) : Out1 := run s fun s =>
  let len := bLenX x.b
  let r := x.rm1.toNat + 1
  (needRegs (x.a :: bRegs x.b) s).bind fun _ s =>
  (matGate s).bind fun _ s =>
  (tileR s.kt.nacc (b2n x.acc) (b2n x.acc) s).bind fun _ s =>
  (tileR s.kt.npt (b2n x.pt) (b2n x.pt) s).bind fun _ s =>
  (bandR 16 x.arow.toNat r s).bind fun _ s =>
  (bandR 4 x.prow.toNat r s).bind fun _ s =>
  (readB x.b s).bind fun b s =>
  let t := (s.me.gr x.a).toInt
  if t % 4 ≠ 0 then segvR 4 0 s
  else
    (abRowsR false ((List.range r).map fun k => [(t + (4 * k : Nat), 4)]) s).bind fun l s =>
    if 128 < x.arow.toNat + r || 32 < x.prow.toNat + r then illegalR 6 s
    else
      (abReadyR 4 false l s).bind fun l s =>
      matEnter x.look len { s.matDraft (.msacc x) with a := l, x := b } s

/-- Performs MSACC. -/
def perfMsacc (x : MsaccA) (m : MatQ) (s : State) : State × Option Trap :=
  match s.matReads m 4 m.a with
  | (_, some t, s) => (s, some t)
  | (bs, none, s) =>
    let v := s.vcore m.vu
    let sw := m.x.toNat % 2 ^ 32
    let unit := v.unitOf (m.band.getD 0) (b2n x.pt)
    let a0 := 128 * b2n x.acc + accBase m.band + x.arow.toNat
    let p0 := 128 * b2n x.pt + ptBase m.band + x.prow.toNat
    let rows := ((List.range bs.length).zip bs).map fun y =>
      (a0 + y.1, ((v.accRow (a0 + y.1)).zip (v.ptRow (p0 + y.1))).map fun e => msaccElem e.1 (natOfBytes y.2) sw e.2 unit)
    (s.setVcore m.vu fun v => v.setAcc rows, none)

/-- MZERO retires before its thread issues again. -/
def execMzero (t : BitVec 2) (s : State) : Out1 := run s fun s =>
  (matGate s).bind fun _ s =>
  (tileR (if t.toNat < 2 then s.kt.nacc else s.kt.npt) (t.toNat % 2) t.toNat s).bind fun _ s =>
  let m := s.matDraft (.mzero t)
  let s := s.retire 4
  .stop ({ s.stamp with matq := s.matq ++ [m] }.parkMe .matrix)

/-- Performs MZERO: in a forecast loop only the lane's band. -/
def perfMzero (t : BitVec 2) (m : MatQ) (s : State) : State × Option Trap :=
  let n := t.toNat % 2
  let hit (size k : Nat) : Bool := k / 128 == n && (match m.band with | some j => k % 128 / size == j | none => true)
  (s.setVcore m.vu fun v =>
    if t.toNat < 2 then { v with acc := v.acc.filter fun x => !hit 16 x.1 }
    else { v with pts := v.pts.filter fun x => !hit 4 x.1,
                  units := v.units.filter fun x => !(x.2.1 == n && (match m.band with | some j => x.1 == j | none => true)) },
   none)

/-- MPRI. -/
def execMpri (n : BitVec 3) (s : State) : Out1 := run s fun s => finish 4 (s.upd fun t => { t with mpri := n })

/-! ## MST and MLDA (14 R356) -/

/-- Row size and stride in bytes. -/
def mstRow (x : MstA) : Nat := if x.bf then 256 else 512
def mstStride (x : MstA) : Nat := if x.rstr = 0 then mstRow x else 64 * x.rstr.toNat

/-- The issue of MST and MLDA. -/
def mstOp (i : Instr) (x : MstA) (store : Bool) (s : State) : R Unit :=
  let len := bLenX x.b
  let r := x.rm1.toNat + 1
  (needRegs (x.a :: bRegs x.b) s).bind fun _ s =>
  (matGate s).bind fun _ s =>
  (tileR s.kt.nacc (b2n x.acc) (b2n x.acc) s).bind fun _ s =>
  (bandR 16 x.arow.toNat r s).bind fun _ s =>
  (readB x.b s).bind fun b s =>
  let t := baseOf s x.a b
  if t % 64 ≠ 0 then segvR 4 0 s
  else
    (abRowsR store ((List.range r).map fun k => (List.range (mstRow x / 8)).map fun q =>
      (t + (mstStride x * k + 8 * q : Nat), 8)) s).bind fun l s =>
    if 128 < x.arow.toNat + r then illegalR 6 s
    else
      (abReadyR 8 store l s).bind fun l s =>
      let m := { s.matDraft i with a := l }
      let (m, s) := if store then s.matWrites m else (m, s)
      matEnter x.look len m s

/-- MST. -/
def execMst (x : MstA) (s : State) : Out1 := run s (mstOp (.mst x) x true)
/-- MLDA. -/
def execMlda (x : MstA) (s : State) : Out1 := run s (mstOp (.mlda x) x false)

/-- The doublewords of an accumulator row. -/
def rowWords (bf : Bool) (row : List (BitVec 32)) : List Nat :=
  let els := row.map fun e => if bf then toBf .rne e.toNat else e.toNat
  let k := if bf then 4 else 2
  let w := if bf then 16 else 32
  (List.range (128 / k)).map fun i => ((els.drop (k * i)).take k).foldr (fun e a => a * 2 ^ w + e) 0

/-- The words of many addresses with their values. -/
def wordEWs (m : MatQ) (l : List SegA) (xs : List Nat) : List EW :=
  ((l.zip xs).map fun y => elemEW (m.place y.1) 0 64 y.2 false).foldr putEW []

/-- Performs MST. -/
def perfMst (x : MstA) (m : MatQ) (s : State) : State × Option Trap :=
  let v := s.vcore m.vu
  let a0 := 128 * b2n x.acc + accBase m.band + x.arow.toNat
  let xs := (List.range (x.rm1.toNat + 1)).flatMap fun k => rowWords x.bf (v.accRow (a0 + k))
  (s.matWrite m (wordEWs m m.a xs), none)

/-- The elements of an accumulator row from its doublewords. -/
def wordsRow (bf : Bool) (l : List Nat) : List (BitVec 32) :=
  l.flatMap fun x =>
    if bf then (List.range 4).map fun i => BitVec.ofNat 32 (ofBf (x / 2 ^ (16 * i) % 2 ^ 16))
    else [BitVec.ofNat 32 x, BitVec.ofNat 32 (x / 2 ^ 32)]

/-- Performs MLDA. -/
def perfMlda (x : MstA) (m : MatQ) (s : State) : State × Option Trap :=
  match s.matReads m 8 m.a with
  | (_, some t, s) => (s, some t)
  | (bs, none, s) =>
    let a0 := 128 * b2n x.acc + accBase m.band + x.arow.toNat
    let ws := bs.map natOfBytes
    let k := mstRow x / 8
    (s.setVcore m.vu fun v => v.setAcc ((List.range (x.rm1.toNat + 1)).map fun r =>
      (a0 + r, wordsRow x.bf ((ws.drop (k * r)).take k))), none)

/-! ## MSTQ with KV = 0 (14 R357) -/

/-- The addresses of the scales and codes of MSTQ, row by row. -/
def mstqAddrs (derive : Bool) (sb : Int) : Nat → List (List (Int × Nat)) → State → R (List SegA × List SegA)
  | _, [], s => .ok ([], []) s
  | k, q :: rest, s =>
    (abRowR derive [(sb + (4 * k : Nat), 4)] s).bind fun y s =>
    (abRowR true q s).bind fun z s =>
    (mstqAddrs derive sb (k + 1) rest s).bind fun (l, n) s => .ok (y ++ l, z ++ n) s

/-- The issue of MSTQ. -/
def execMstq (x : MstqA) (s : State) : Out1 := run s fun s =>
  let len := bLenX x.b
  let r := x.rm1.toNat + 1
  (needRegs (x.a :: x.d :: x.s :: x.f :: bRegs x.b) s).bind fun _ s =>
  (matGate s).bind fun _ s =>
  (tileR s.kt.nacc (b2n x.acc) (b2n x.acc) s).bind fun _ s =>
  (bandR 16 x.arow.toNat r s).bind fun _ s =>
  (frameR x.fseg x.f len s).bind fun (ws, f, bad) s =>
  (originR (s.me.gr x.d) f x.qf.toNat s).bind fun o s =>
  (readB x.b s).bind fun b s =>
  let t := baseOf s x.a b
  let sb := (s.me.gr x.s).toInt
  if sb % 4 ≠ 0 then segvR 4 0 s
  else
    -- row by row, its scale before its codes
    let rows := (List.range r).map fun k => (mmaRows f (o.1, o.2 + k) t 1).headD []
    (mstqAddrs x.derive sb 0 rows s).bind fun (sl, cl) s =>
    if 128 < x.arow.toNat + r then illegalR 6 s
    else if f.fmt == .int4 && o.1 % 2 == 1 then illegalR 7 s
    else
      (stagesR 4 sl s).bind fun sl s =>
      (stagesR 1 cl s).bind fun cl s =>
      (if x.derive then specUnits [] (sized 4 sl ++ sized 1 cl) s else specUnits (sized 4 sl) (sized 1 cl) s).bind fun _ s =>
      matEnterP x.look len bad (fun s => s.matWrites { s.matDraft (.mstq x) with frame := ws, org := o, a := cl, b := sl }) s

/-- The words of one row of MSTQ. -/
def mstqRow (f : Frame) (m : MatQ) (r : Nat) (row : List (BitVec 32)) (scale : Nat) (cl : List SegA) : List EW :=
  let idx := ((stripIdx m.org r).zip row).filter fun y => f.inside y.1
  (idx.zip cl).map fun y =>
    elemEW (m.place y.2) (f.place y.1.1).2 f.fmt.bits (quantStore f.fmt y.1.2.toNat scale (f.dither y.1.1)) false

/-- Adds later writes of an instruction to its earlier ones. -/
def thenEWs (new old : List EW) : List EW := old.foldr putEW (new.foldr putEW [])

/-- The four bytes at a place as the writes that an instruction has already made leave them; a word that they write whole is
poisoned no more. -/
def State.scaleSeen (s : State) (ws : List EW) (p : Place) : Nat × Option Trap :=
  match ws.find? fun w => w.p.space == p.space && w.p.loc / 8 == p.loc / 8 with
  | none => (natOfBytes (s.seen p 4), s.seenTrap p 4)
  | some w =>
    let old := natOfBytes (s.seen (p.word 0) 8)
    (Nat.lor (clearBits old w.bm) w.x / 2 ^ (8 * (p.addr % 8)) % 2 ^ 32, if w.bm = 2 ^ 64 - 1 then none else s.seenTrap p 4)

/-- The words that `n` rows of MSTQ write from row `k` on, after `ws`, and the first poison among the scales that it reads: the
scale of a row is read after the rows before it are written (14 R357). -/
def mstqEWs (x : MstqA) (f : Frame) (m : MatQ) (v : Vcore) (a0 : Nat) (s : State) (k : Nat) (cl : List SegA) :
    Nat → List EW → List EW × Option Trap
  | 0, ws => (ws, none)
  | n + 1, ws =>
    let row := v.accRow (a0 + k)
    let at0 := m.place (m.b.getD k ⟨1, 0, 0, 0⟩)
    let (scale, bad) := if x.derive then (qscale f.fmt (row.map (·.toNat)), none) else s.scaleSeen ws at0
    let w := ((stripIdx m.org k).filter f.inside).length
    let new := (if x.derive then [elemEW at0 0 32 scale false] else []) ++ mstqRow f m k row scale cl
    let (l, t) := mstqEWs x f m v a0 s (k + 1) (cl.drop w) n (thenEWs new ws)
    (l, bad.or t)

/-- Performs MSTQ. -/
def perfMstq (x : MstqA) (m : MatQ) (s : State) : State × Option Trap :=
  match frameOf m.frame with
  | none => (s.matNone m, none)
  | some f =>
    let v := s.vcore m.vu
    let r := x.rm1.toNat + 1
    let a0 := 128 * b2n x.acc + accBase m.band + x.arow.toNat
    let (ws, bad) := mstqEWs x f m v a0 s 0 m.a r []
    let s := if x.derive then s else (s.matReads m 4 m.b).2.2
    match bad with
    | some t => (s.matNone m, some t)
    | none => (s.matWrite m ws, none)

end Sys2Proof.Machine
end

