-- ==== Sys2Proof/Machine/Kv.lean ====
section
/-!
DEFINITION. What the device reads and writes for context and attention instructions at device virtual addresses (21 R477), KV
records and their table entries (06 R159 to R166), and MSTQ with the KV epilogue (06 R169; 14 R358 to R360; 17 R391, R392).
-/
namespace Sys2Proof.Machine

/-! ## Accesses of the device for an instruction (21 R477) -/

/-- On whose behalf: the die of the port, the function, the thread's GTID, the pages whose wait failed, the requester's code in
the fault buffer, and the resolved translations that it reads through (06 R180). -/
structure View where
  die : Nat
  fn : Nat
  gtid : Nat
  failed : List (Nat × Nat) := []
  req : Nat := 6
  leaves : List (Nat × Bool × Word) := []
deriving DecidableEq, Repr

/-- The outcome of reads: a value, a page to wait for, or a trap (poison, a failed page, a conversion). -/
inductive Vx (α : Type) where
  | ok (a : α)
  | page (s : State) (w : PageWait)
  | bad (t : Trap)

/-- One read after another. -/
def Vx.bind {α β : Type} (x : Vx α) (f : α → Vx β) : Vx β :=
  match x with
  | .ok a => f a
  | .page s w => .page s w
  | .bad t => .bad t

/-- Reads for every element of a list. -/
def vxAll {α β : Type} (f : α → Vx β) : List α → Vx (List β)
  | [] => .ok []
  | a :: t => (f a).bind fun b => (vxAll f t).bind fun l => .ok (b :: l)

/-- The view of the current thread. -/
def State.view (s : State) : View := ⟨s.me.die, s.fnOf s.me, s.agentT.gtid, s.me.failed, 6, []⟩

/-- The view of an instruction at its engine. -/
def State.viewOf (s : State) (m : MatQ) : View :=
  ⟨m.core / 1024 % 2, (s.task (m.vu / 1024)).fn, s.agentT.gtid,
   match m.page with | some w => if w.failed then [(w.die, w.page)] else [] | none => [], 6, []⟩

/-- Translated chunks of 4 KiB, by number. -/
abbrev Chunks := List (Nat × Place)

/-- The place of an address in translated chunks. -/
def Chunks.at (c : Chunks) (va : Nat) : Place :=
  match c.find? fun x => x.1 == va / 4096 with
  | some (_, p) => { p with addr := va, loc := p.loc + va % 4096 }
  | none => { space := 0, addr := va, loc := va, slice := none }

/-- The resolved translation of an address. -/
def View.leaf (v : View) (va : Nat) : Option (Bool × Word) := (v.leaves.find? fun x => x.1 == va / 2 ^ 16).map (·.2)

/-- Translates one address. -/
def State.vaAt (s : State) (v : View) (va : Nat) (wr : Bool) : Vx Place :=
  match (v.leaf va).filter fun x => !wr || entWr x.2 with
  | some (large, e) =>
    let p := placeOf e large va
    if wr && p.lc.isSome then .bad (lcTrap 0) else .ok p
  | none =>
  match s.xlate v.die v.fn va wr with
  | .ok p _ => if wr && p.lc.isSome then .bad (lcTrap 0) else .ok p
  | .fault c =>
    if v.failed.contains (v.die, va / 2 ^ 16) then .bad failTrap
    else let (s, w) := s.fault v.die v.req v.fn (va / 2 ^ 16) c v.gtid; .page s w

/-- Translates every chunk of a range, all before any access (06 R164). -/
def State.chunks (s : State) (v : View) (va n : Nat) (wr : Bool) : Vx Chunks :=
  if n = 0 then .ok []
  else vxAll (fun k => (s.vaAt v (4096 * (va / 4096 + k)) wr).bind fun p => .ok (va / 4096 + k, p))
    (List.range ((va + n - 1) / 4096 - va / 4096 + 1))

/-- Bytes of translated memory, and the number that they are. -/
def State.cBytes (s : State) (c : Chunks) (va n : Nat) : List Byte := (List.range n).map fun i => s.byte ((c.at (va + i)).at 0)
def State.cNum (s : State) (c : Chunks) (va n : Nat) : Nat := natOfBytes (s.cBytes c va n)

/-- The first poisoned word of a range. -/
def State.cPoison (s : State) (c : Chunks) (va n : Nat) : Option Trap :=
  ((wordOffs va n).find? fun i => s.poisoned ((c.at (va + i)).at 0)).map fun i => ⟨6, w64 ((va + i) / 8 * 8), none⟩

/-- Reads a range that the instruction consumes. -/
def State.vaBytes (s : State) (v : View) (va n : Nat) : Vx (List Byte) :=
  (s.chunks v va n false).bind fun c =>
  match s.cPoison c va n with
  | some t => .bad t
  | none => .ok (s.cBytes c va n)

/-- Reads doublewords. -/
def State.vaWords (s : State) (v : View) (va n : Nat) : Vx (List Word) :=
  (s.vaBytes v va (8 * n)).bind fun b => .ok ((List.range n).map fun i => w64 (natOfBytes ((b.drop (8 * i)).take 8)))

/-! ## KV records (06 R159, R160) -/

/-- A record: its address, D, the number of heads, its code format, and its header. -/
structure KRec where
  fn : Nat
  va : Nat
  d : Nat
  nh : Nat
  fmt : NFmt
  hdr : List Word
deriving DecidableEq, Repr

/-- Bytes of 16 slots' codes, scale strips, bytes of a head in an area, and S. -/
def kvCodes (d : Nat) (f : NFmt) : Nat := if f = .int4 then 8 * d else 16 * d
def kvStrips (d : Nat) : Nat := (d + 127) / 128
def kvHead (d : Nat) (f : NFmt) : Nat := 2 * kvCodes d f + 128 * kvStrips d + 20 * d + 8
def kvSize (d nh : Nat) (f : NFmt) : Nat := (192 + 2 * nh * kvHead d f + 511) / 512 * 512

/-- The size of a record. -/
def KRec.size (r : KRec) : Nat := kvSize r.d r.nh r.fmt

/-- Where a head of an area begins. -/
def KRec.head (r : KRec) (area head : Nat) : Nat := r.va + 192 + (area * r.nh + head) * kvHead r.d r.fmt

/-- The byte and shift of a code, val 0 for keys and 1 for values. -/
def KRec.code (r : KRec) (area head val slot ch : Nat) : Nat × Nat :=
  let n := slot % 16 * r.d + ch
  let b := r.head area head + val * kvCodes r.d r.fmt
  if r.fmt = .int4 then (b + n / 2, 4 * (n % 2)) else (b + n, 0)

/-- The address of a scale. -/
def KRec.scale (r : KRec) (area head val slot strip : Nat) : Nat :=
  r.head area head + 2 * kvCodes r.d r.fmt + 64 * kvStrips r.d * val + 4 * (slot % 16 * kvStrips r.d + strip)

/-- The address of an envelope entry: kind 0 KMIN, 1 KMAX, 2 VABS, 3 QMIN, 4 QMAX; SIGMA and LAMBDA behind them. -/
def KRec.env (r : KRec) (area head kind ch : Nat) : Nat :=
  r.head area head + 2 * kvCodes r.d r.fmt + 128 * kvStrips r.d + 4 * r.d * kind + 4 * ch
def KRec.sigma (r : KRec) (area head : Nat) : Nat := r.env area head 5 0
def KRec.lambda (r : KRec) (area head : Nat) : Nat := r.env area head 5 1

/-- Fields of a header. -/
def hdrWord (h : List Word) (i : Nat) : Word := h.getD i 0
def hdrCur (h : List Word) : Nat := bits (hdrWord h 0) 15 0
def hdrMask (h : List Word) (area : Nat) : Nat := bits (hdrWord h 1) (16 * area + 15) (16 * area)
def hdrPos (h : List Word) (area slot : Nat) : Int :=
  sfield (hdrWord h (2 + 8 * area + slot % 16 / 2)) (32 * (slot % 2) + 31) (32 * (slot % 2))

/-- The bit of CUR of a silt block, and the area that it names. -/
def cbit (siltlg b : Nat) : Nat := b % (16 / 2 ^ siltlg)
def KRec.cur (r : KRec) (siltlg b : Nat) : Nat := if (hdrCur r.hdr).testBit (cbit siltlg b) then 1 else 0

/-- A slot is stored in an area. -/
def KRec.stored (r : KRec) (area slot : Nat) : Bool := (hdrMask r.hdr area).testBit (slot % 16)

/-- Fields of a table entry (06 R163). -/
def teBlk (e : Word) : Nat := bits e 58 43
def teKeep (e : Word) : Bool := bit e 59
def tePaddr (e : Word) : Nat := bits e 42 0 * 512

/-! ## Fresh loads of table entries (14 R359; 17 R390) -/

/-- The place of a table entry; a conversion refuses the load (21 R446). -/
def State.freshAt (s : State) (v : View) (va : Nat) : Vx Place :=
  (s.vaAt v va false).bind fun p => if p.lc.isSome then .bad (lcTrap 0) else .ok p

/-- The doubleword that a fresh load of the device for the current thread finds, or its trap. -/
def State.freshWord (s : State) (v : View) (va : Nat) : Vx Word :=
  (s.freshAt v va).bind fun p =>
  match (if s.me.spec then none else s.clashP p 8 false false).or (s.seenTrap p 8) with
  | some t => .bad t
  | none => .ok (w64 (natOfBytes (s.seen p 8)))

/-- The records of fresh loads that have been made, in the region of an epoch, or their places in the read set. -/
def State.freshRec (s : State) (v : View) (epoch : Nat) (vas : List Nat) : State :=
  vas.eraseDups.foldl (fun s va => match s.freshAt v va with
    | .ok p =>
      if s.me.spec then s.specRead p 8 true
      else (wordOffs p.addr 8).foldl (fun s i => s.record (p.at i) { s.accOf false false with epoch := epoch }) s
    | _ => s) s

/-- The records of fresh loads of the instruction in hand. -/
def State.freshNow (s : State) (v : View) (vas : List Nat) : State := s.freshRec v (s.accOf false false).epoch vas

/-- The checks of a table entry (06 R166): the record, or code 16 BADENTRY or 17 STALE. [DEDUCED, log 33] -/
def State.entryCheck (s : State) (v : View) (c : Ctx) (td : Nat) (layer : Nat) (blk : Option Nat) (e : Word)
    (pool psize : Nat) : Vx (Nat ⊕ KRec) :=
  match nfmt? (bits e 61 60) with
  | none => .ok (.inl 16)
  | some f =>
    if !bit e 63 || !(bits e 61 60 == c.kvfmt || c.fmts.contains (bits e 61 60)) then .ok (.inl 16)
    else
      let size := kvSize c.d (c.kvhm1 + 1) f
      if psize < tePaddr e + size then .ok (.inl 16)
      else
        let va := pool + tePaddr e
        (s.vaWords v va 24).bind fun h =>
        let d0 := hdrWord h 0
        if bit d0 54 then .ok (.inl 17)
        else if bits d0 51 40 != td || td != c.h || bits d0 39 32 != layer || bits d0 31 16 != teBlk e ||
            blk.any (· != teBlk e) then .ok (.inl 17)
        else .ok (.inr ⟨c.fn, va, c.d, c.kvhm1 + 1, f, h⟩)

/-- The pool of a table descriptor, and the address of its entry `k`. -/
def tdPool (td : List Word) : Nat := bits (hdrWord td 0) 51 0
def tdEntry (td : List Word) (k : Nat) : Nat := tdPool td + 8 * k

/-- A descriptor breaks its layout: a pool that is no multiple of 512, or a reserved bit (06 R164). [DEDUCED, log 89] -/
def tdBad (td : List Word) : Bool := tdPool td % 512 != 0 || bits (hdrWord td 1) 63 60 != 0

/-- Entry `k` of the table that a descriptor stands for (17 R390), a fresh load, checked; the descriptor's layer must be the
one that the instruction is about. -/
def State.tableEntry (s : State) (v : View) (c : Ctx) (td : List Word) (k layer : Nat) (blk : Option Nat) :
    Vx (Nat ⊕ (Word × KRec)) :=
  let psize := bits (hdrWord td 1) 51 0
  if psize < 8 * k + 8 then .ok (.inl 16)
  else
    (s.freshWord v (tdEntry td k)).bind fun w =>
    (s.entryCheck v c (bits (hdrWord td 0) 63 52) (bits (hdrWord td 1) 59 52) blk w (tdPool td) psize).bind fun r =>
    match r with
    | .inl n => .ok (.inl n)
    | .inr r => .ok (if bits (hdrWord td 1) 59 52 = layer then .inr (w, r) else .inl 17)

/-- The context that a handle names for a function (15 R364). [DEDUCED, log 46] -/
def State.ctxFor (s : State) (fn h : Nat) : Option Ctx := (s.ctx? h).filter fun c => c.fn == fn

/-! ## Elements of records (04 R111, R115) -/

/-- The dither index of an element. -/
def kvDither (seed layer head val slot ch : Nat) : Nat := ditherIdx seed ch slot (layer * 4096 + head : Nat) val

/-- An element as a consumer reads it, FP32 bits. -/
def State.kvElem (s : State) (k : Chunks) (r : KRec) (seed layer area head val slot ch : Nat) : Nat :=
  let (a, sh) := r.code area head val slot ch
  let c := r.fmt.code ((s.cBytes k a 1).headD 0) sh
  let sc := s.cNum k (r.scale area head val slot (ch / 128)) 4
  dequantRead r.fmt c sc (kvDither seed layer head val slot ch)

/-- An envelope widened by a value (06 R162): kind 0 KMIN, 1 KMAX, 2 VABS. -/
def widen (kind old v : Nat) : Nat :=
  rne32 (match kind with
    | 0 => Fp.minF (val32 old) (val32 v)
    | 1 => Fp.maxF (val32 old) (val32 v)
    | _ => Fp.maxF (val32 old) (val32 v).absF)

/-! ## MSTQ with KV = 1: issue (14 R346, R359) -/

/-- The loop whose appends the current thread makes, with its append region. -/
def State.loopOf (s : State) : Option (Loop × Nat × Nat × Nat × Nat) :=
  if s.me.looping then s.agentT.loop.bind fun l => l.app.map fun (h, a, n, t) => (l, h, a, n, t) else none

/-- Appends that the current lane has made in its iteration. -/
def State.appsMade (s : State) : Nat := match s.me.lane with
  | some l => l.apps
  | none => (s.me.loop.map (·.apps)).getD 0

/-- MSTQ with the KV epilogue. It stores, so that it ends a guess (07 R192). -/
def execMstqKv (x : KvA) (s : State) : Out1 := run s fun s =>
  let len := bLenX x.b
  let r := x.rm1.toNat + 1
  (if s.me.guessing || (s.me.spec && x.stg) then R.stop s.hold else R.ok () s).bind fun _ s =>
  (needRegs ((if x.val then [] else [x.a]) ++ (if x.stg then [x.d] else []) ++ [x.r] ++ bRegs x.b) s).bind fun _ s =>
  (matGate s).bind fun _ s =>
  (tileR s.kt.nacc (b2n x.acc) (b2n x.acc) s).bind fun _ s =>
  (bandR 16 x.arow.toNat r s).bind fun _ s =>
  (segR x.fseg (s.me.gr x.r).toInt 32 32 needRD false s).bind fun d s =>
  (stageR d 32 s).bind fun d s =>
  (specAccess d 32 false s).bind fun _ s =>
  (transR len d false true 0 s).bind fun p s =>
  let (ws, bad, s) := s.recBoth p 4
  (if x.val then .ok [] s
   else
     (readB x.b s).bind fun b s =>
     let t := baseOf s x.a b
     if t % 64 ≠ 0 then segvR 4 0 s
     else (abRowR false [(t, 256)] s).bind fun l s => (stagesR 256 l s).bind fun l s =>
       (specUnits (sized 256 l) [] s).bind fun _ s => .ok l s).bind fun fl s =>
  if 128 < x.arow.toNat + r then illegalR 6 s
  else
    let h := bits (ws.getD 0 0) 63 52
    let mine := match s.loopOf with | some (_, k, _) => k == h | none => false
    if s.me.spec && !mine then .stop s.hold
    else if mine && x.fin && !x.stg &&
        (match s.loopOf with | some (l, _) => l.appn < s.appsMade + r | none => false) then raiseR 8 3 s
    else
      matEnterP x.look len bad (fun s => s.matWrites { s.matDraft (.mstqKv x) with
        frame := ws, a := [d], b := fl, x := if x.stg then s.me.gr x.d else 0 }) s

/-! ## MSTQ with KV = 1: performing -/

/-- What performing an instruction at an engine answers. -/
inductive MOut where
  | done (s : State) (t : Option Trap)
  | page (s : State) (w : PageWait)
  | readers (fn va area : Nat)
  /-- It waits for the lane's acceptance: its words do not fit in the side buffer, or an earlier lane may write one that it reads. -/
  | full

/-- A row of the epilogue: its slot, record, area and position. -/
structure KvRow where
  slot : Nat
  r : KRec
  area : Nat
  pos : Int
deriving DecidableEq, Repr

/-- A late illegal-operand fault of the epilogue (14 R360). [DEDUCED, log 32] -/
def kvBad {α : Type} (code : Nat) : Vx α := .bad ⟨3, w64 code, none⟩

/-- The n-th slot of NEXT's walk with the index of its table entry (14 R359). -/
def State.kvWalk (s : State) (v : View) (table next tidx : Nat) (n : Int) : Vx (Nat × Nat) :=
  let pos : Int := (next % 16 : Nat) + n
  let t : Int := tidx + pos / 16
  if t < 0 then .ok (2 ^ 20, 0)
  else if t = tidx then .ok (next / 16 * 16 + (pos % 16).toNat, tidx)
  else (s.freshWord v (table + 8 * t.toNat)).bind fun w => .ok (16 * teBlk w + (pos % 16).toNat, t.toNat)

/-- Entry `t` of an append region's table, checked (06 R166); code 9 where it fails. -/
def State.kvEntry (s : State) (v : View) (c : Ctx) (layer table pool psize t blk : Nat) : Vx KRec :=
  (s.freshWord v (table + 8 * t)).bind fun w =>
  (s.entryCheck v c c.h layer (some blk) w pool psize).bind fun r => match r with
    | .inl _ => kvBad 9
    | .inr r => .ok r

/-- The slots of an append with their records: `n` rows of NEXT's walk. -/
def State.kvWalked (s : State) (v : View) (c : Ctx) (layer table pool psize next tidx start n : Nat) : Vx (List (Nat × KRec)) :=
  vxAll (fun k => (s.kvWalk v table next tidx (start + k : Nat)).bind fun y =>
    (s.kvEntry v c layer table pool psize y.2 (y.1 / 16)).bind fun r => .ok (y.1, r)) (List.range n)

/-- The rows of an append, each with whether it occupies its slot, from the `k`-th on: `fr` slots are occupied so far, and
`last` is the last token. A WMASK bit that an earlier token of the slot has left does not count. [DEDUCED, log 90] -/
def State.kvRows (s : State) (v : View) (c : Ctx) (layer table next tidx start : Nat) (loop : Option Nat) (made : Nat → Int) :
    Nat → Nat → Option Nat → List (Nat × KRec) → Vx (List (KvRow × Bool))
  | _, _, _, [] => .ok []
  | k, fr, last, (slot, r) :: rest =>
    let area := r.cur c.siltlg (c.siltOf slot)
    let free := (c.occ slot).isNone
    (match last with
     | some z => if free then
         (s.kvWalk v table next tidx (if loop.isSome then -1 else (start + k : Nat) - 1)).bind fun y => .ok (y.1 == z)
       else .ok true
     | none => .ok true).bind fun follows =>
    let ok := match c.occ slot with
      | none => follows
      | some y => y.app && !(r.stored area slot && y.holds layer true)
    if !ok then kvBad 10
    else
      let pos := match c.occ slot with
        | some y => if loop.isSome && y.ix.map Prod.fst == loop then made (start + k) else c.posOf y
        | none => made (if loop.isSome then start + k else fr)
      (s.kvRows v c layer table next tidx start loop made (k + 1) (if free then fr + 1 else fr)
        (if loop.isSome then last else if free then some slot else last) rest).bind fun l => .ok ((⟨slot, r, area, pos⟩, free) :: l)

/-- The key or value elements of a row, the key rotated at its position (06 R169). -/
def kvVals (x : KvA) (d : Nat) (freq : List Nat) (pos : Int) (row : List (BitVec 32)) : List Nat :=
  let els := (row.take (Nat.min d 128)).map (·.toNat)
  if x.val then els
  else
    let p := rne32 (.fin (pos < 0) pos.natAbs (-8))
    (List.range (els.length / 2)).flatMap fun t =>
      let (a, b) := ropePair f32 (els.getD (2 * t) 0) (els.getD (2 * t + 1) 0) p (freq.getD t 0)
      [a, b]

/-- What a row writes: words of scale and codes, and what widens the envelopes: address, kind, value. -/
def kvRowEWs (x : KvA) (k : Chunks) (seed layer : Nat) (row : KvRow) (vals : List Nat) :
    List EW × List (Nat × Nat × BitVec 32) :=
  let f := row.r.fmt
  let val := b2n x.val
  let head := x.head.toNat
  let c0 := 128 * b2n x.chs
  let sc := qscale f vals
  let cs := ((List.range vals.length).zip vals).map fun y =>
    let ch := c0 + y.1
    let d := kvDither seed layer head val row.slot ch
    (ch, quantStore f y.2 sc d, d)
  (elemEW (k.at (row.r.scale row.area head val row.slot (b2n x.chs))) 0 32 sc false ::
     cs.map fun (ch, code, _) =>
       let (a, sh) := row.r.code row.area head val row.slot ch
       elemEW (k.at a) sh f.bits code false,
   cs.flatMap fun (ch, code, d) =>
     let v := BitVec.ofNat 32 (dequantRead f code sc d)
     (if x.val then [2] else [0, 1]).map fun kind => (row.r.env row.area head kind ch, kind, v))

/-- Widens envelope entries, and gives the words that this writes. -/
def State.widenAll (s : State) (k : Chunks) (clk : Clock) (l : List (Nat × Nat × BitVec 32)) : State × List CmdW :=
  l.foldl (fun (a : State × List CmdW) (va, kind, v) =>
    let new := widen kind (a.1.cNum k va 4) v.toNat
    let (s, w) := a.1.putEWs clk [elemEW (k.at va) 0 32 new false]
    (s, a.2 ++ w)) (s, [])

/-- Words of a digest, each once, in ascending address with the value that stands in memory last. -/
def mergeWords (l : List CmdW) : List CmdW :=
  l.foldl (fun a w =>
    match a.find? fun y => y.space == w.space && y.addr == w.addr with
    | some _ => a.map fun y => if y.space == w.space && y.addr == w.addr then { w with mask := w.mask ||| y.mask } else y
    | none => insertW w a) []

/-- Sets a slot's WMASK bit and WPOS in its area. -/
def State.finSlot (s : State) (k : Chunks) (row : KvRow) : State :=
  let hdr := (k.at row.r.va).loc
  (s.setBit16 (hdr + 8 + 2 * row.area) (row.slot % 16) true).devNum (hdr + 16 + 64 * row.area + 4 * (row.slot % 16)) 4
    (posWord row.pos).toNat

/-- FIN: WMASK bits, WPOS words, and for an append its silt entry (05 R154). -/
def State.finAll (s : State) (k : Chunks) (c : Ctx) (layer : Nat) (append : Bool) (l : List KvRow) : State :=
  l.foldl (fun s row =>
    let s := s.finSlot k row
    if append then s.setCtx c.h fun c => c.appended layer row.slot else s) s

/-- Appends counted in the lane's iteration. -/
def State.countApps (s : State) (n : Nat) : State :=
  s.upd fun t => match t.lane with
    | some l => { t with lane := some { l with apps := l.apps + n } }
    | none => { t with loop := t.loop.map fun l => { l with apps := l.apps + n } }

/-- The rows of a staging write: the slots of the item's slot list (14 R359); the entry is checked before the item (14 R360). -/
def State.kvStage (s : State) (v : View) (m : MatQ) (c : Ctx) (layer table pool psize r : Nat) : Vx (List (KvRow × Bool)) :=
  let b := bits m.x 19 0
  (s.kvEntry v c layer table pool psize (bits m.x 47 32) (c.blkOf b)).bind fun k =>
  match s.agentT.item with
  | none => kvBad 11
  | some it =>
    match c.itemOf s.agentT.uid it with
    | none => kvBad 11
    | some (_, d) =>
      if it.layer != layer || it.block != b || it.committed then kvBad 11
      else if d.slots.length != r then kvBad 12
      else .ok (d.slots.map fun y => (⟨y.1, k, 1 - k.cur c.siltlg b, y.2⟩, false))

/-- The dispatch's clearing of the staging area's WMASK bits (05 R150), where it has not been made. [DEDUCED, log 34] -/
def State.clearStage (s : State) (k : Chunks) (c : Ctx) (layer b : Nat) (r : KRec) : State :=
  match (c.entry layer b).disp with
  | some d =>
    if d.cleared then s
    else (s.clearMask (k.at r.va).loc c.siltlg b (1 - r.cur c.siltlg b)).setCtx c.h fun c => c.cleared layer b
  | none => s

/-- The ranges of its record that a row writes: code and scale of its slot, envelope entries, and the header of a FIN or of a
staging write. -/
def kvRanges (x : KvA) (d : Nat) (row : KvRow) : List (Nat × Nat) :=
  let n := Nat.min d 128
  let head := x.head.toNat
  let c0 := 128 * b2n x.chs
  let v := b2n x.val
  [((row.r.code row.area head v row.slot c0).1, n * row.r.fmt.bits / 8), (row.r.scale row.area head v row.slot (b2n x.chs), 4)] ++
  (if x.val then [2] else [0, 1]).map (fun kind => (row.r.env row.area head kind c0, 4 * n)) ++
  (if x.fin || x.stg then [(row.r.va, 192)] else [])

/-- Bytes of a record that captures still read, which writes are about to change: a captured slot that was freed and that an
append takes anew (06 R168, R170). [DEDUCED, log 37] -/
def Captured.keep (b : Captured) (rows : List KvRow) (old : List (Nat × Byte)) : Captured :=
  if rows.any fun r => r.r.va == b.va && b.slots.any fun x => x.1 == r.slot then
    { b with kept := b.kept ++ old.filter fun y => !(b.kept.any fun z => z.1 == y.1) }
  else b
def State.keepCaptured (s : State) (fn : Nat) (rows : List KvRow) (ews : List EW) : State :=
  let old := ews.flatMap fun w => (List.range 8).map fun i => (w.p.loc + i, s.byte (w.p.loc + i))
  { s with threads := s.threads.map fun t => { t with
      caps := t.caps.map fun c => c.map fun c => if c.fn = fn then { c with blocks := c.blocks.map fun b => b.keep rows old } else c } }

/-- The context learns the records and the append region's table that an MSTQ names (05 R150; 06 R165). [DESIGN CHOICE, log 91] -/
def Ctx.learn (c : Ctx) (layer table : Nat) (append : Bool) (rows : List KvRow) : Ctx :=
  rows.foldl (fun c r =>
    { c with homes := (layer, r.slot / 16, r.r.va) :: c.homes.filter fun y => !(y.1 == layer && y.2.1 == r.slot / 16) })
    (if append then { c with regions := ((layer, table) :: c.regions).eraseDups } else c)

/-- What the rows write: words of codes and scales, and what widens the envelopes. -/
def State.kvWrites (s : State) (x : KvA) (m : MatQ) (c : Ctx) (layer : Nat) (k : Chunks) (freq : List Nat)
    (rows : List (KvRow × Bool)) : List EW × List (Nat × Nat × BitVec 32) :=
  let v := s.vcore m.vu
  let a0 := 128 * b2n x.acc + accBase m.band + x.arow.toNat
  let parts := ((List.range rows.length).zip rows).map fun y =>
    kvRowEWs x k c.seed layer y.2.1 (kvVals x c.d freq y.2.1.pos (v.accRow (a0 + y.1)))
  ((parts.flatMap (·.1)).foldr putEW [], parts.flatMap (·.2))

/-- The appends of rows occupy their slots. -/
def State.kvOccupy (s : State) (c : Ctx) (rows : List (KvRow × Bool)) (loop : Option (Nat × Nat)) (before : Nat → Nat)
    (prov : Bool) : State :=
  ((List.range rows.length).zip rows).foldl (fun s y =>
    if y.2.2 then s.setCtx c.h fun c => c.occupy y.2.1.slot (loop.map fun (u, i) => (u, i + y.1)) (before y.2.1.slot) prov
    else s) s

/-- A speculative lane's epilogue: codes, scales, WMASK bits and WPOS words are written with their old values kept, the
envelopes and the effects on the context wait for acceptance (07 R199; 17 R391, R392). -/
def State.kvSpec (s : State) (x : KvA) (m : MatQ) (c : Ctx) (layer : Nat) (k : Chunks) (rows : List (KvRow × Bool))
    (ews : List EW) (env : List (Nat × Nat × BitVec 32)) (next : Option (Place × Word)) : Option State :=
  let plain := rows.map (·.1)
  let p : Prov :=
    { seq := m.seq, saved := ews.map fun w => (w.p, s.dword w.p.loc, s.poisoned w.p.loc),
      env := env.map fun e => (k.at e.1, e.2.1, e.2.2), slots := (rows.filter (·.2)).map (·.1.slot), ctx := c.h, layer := layer,
      next := next,
      fin := if !x.fin then [] else plain.map fun row =>
        let hdr := (k.at row.r.va).loc
        (row.slot, hdr, row.area, s.num (hdr + 16 + 64 * row.area + 4 * (row.slot % 16)) 4) }
  if s.me.bufFull p.keys then none
  else
    let (s, ws) := s.putEWs m.clk ews
    let s := if x.fin then plain.foldl (fun s row => (s.finSlot k row).setCtx c.h fun c => c.write layer row.slot true) s else s
    let s := s.upd fun t => { t with lane := t.lane.map fun l => { l with provs := l.provs ++ [{ p with words := ws }] } }
    some (if x.fin then s.countApps rows.length else s)

/-- The epilogue of a thread that is not a speculative lane. -/
def State.kvPlain (s : State) (x : KvA) (m : MatQ) (c : Ctx) (layer : Nat) (k : Chunks) (rows : List (KvRow × Bool))
    (ews : List EW) (env : List (Nat × Nat × BitVec 32)) (next : Option (Place × Word)) (inLoop : Bool) : State :=
  let (s, ws) := s.putEWs m.clk ews
  let (s, es) := s.widenAll k m.clk env
  let s := if x.fin then s.finAll k c layer (!x.stg) (rows.map (·.1)) else s
  let s := match next with
    | some (p, w) => s.engWord p 0xFF w false m.clk
    | none => s
  let s := if x.fin && inLoop then s.countApps rows.length else s
  s.fillHole s.me.agent m.hole ((mergeWords (ws ++ es)).map fun w => digBlock 0 w.space w.mask.toNat w.addr (maskedWord w.mask w.x))

/-- The fields of an append region descriptor (14 R358). -/
structure Region where
  table : Nat
  layer : Nat
  pool : Nat
  psize : Nat
  next : Nat
  tidx : Nat
def regionOf (d : List Word) : Region :=
  let w (i : Nat) : Word := d.getD i 0
  ⟨bits (w 0) 51 0, bits (w 1) 63 56, bits (w 1) 51 0, bits (w 2) 51 0, bits (w 3) 55 36, bits (w 3) 35 20⟩

/-- Code 8: a descriptor that breaks its layout. -/
def regionDescBad (d : List Word) (c : Ctx) : Bool :=
  let w (i : Nat) : Word := d.getD i 0
  bits (w 1) 55 52 != 0 || bits (w 2) 63 52 != 0 || bits (w 3) 63 56 != 0 || bits (w 3) 19 0 != 0 ||
  (regionOf d).pool % 512 != 0 || c.nlm1 < (regionOf d).layer

/-- The place of the descriptor's DW3 for its new NEXT and TIDX. -/
def State.regionPlace (s : State) (v : View) (m : MatQ) (d : SegA) : Vx Place :=
  (match d.space with
   | 0 => s.vaAt v d.addr true
   | 1 => .ok (m.place d)
   | _ => .ok { space := 2, addr := d.addr, loc := cistBase d.slice + d.addr, slice := some d.slice }).bind fun p =>
  .ok { p with addr := p.addr + 24, loc := p.loc + 24 }

/-- Performs MSTQ with the KV epilogue: every check, in the order of its codes, before any write. -/
def perfMstqKv (x : KvA) (m : MatQ) (s : State) : MOut :=
  let v := s.viewOf m
  let r := x.rm1.toNat + 1
  let g := regionOf m.frame
  let bad (t : Trap) : MOut := .done (s.matNone m) (some t)
  match s.ctxFor v.fn (bits (m.frame.getD 0 0) 63 52) with
  | none => bad ⟨3, 8, none⟩
  | some c =>
    if regionDescBad m.frame c then bad ⟨3, 8, none⟩
    else
      let lp := s.loopOf.filter fun y => y.2.1 == c.h && !x.stg
      let (next, tidx) := match lp with
        | some (_, _, _, n, t) => (n, t)
        | none => (g.next, g.tidx)
      let u := s.me.agent
      let start := match lp with
        | some (l, _) => s.me.laneIndex * l.appn + s.appsMade
        | none => 0
      let loop := if lp.isSome then some u else none
      let rows : Vx (List (KvRow × Bool)) :=
        if x.stg then s.kvStage v m c g.layer g.table g.pool g.psize r
        else (s.kvWalked v c g.layer g.table g.pool g.psize next tidx start r).bind fun l =>
          s.kvRows v c g.layer g.table next tidx start loop (c.appendPos loop) 0 0 ((c.beforeRound loop).getLast?.map (·.slot)) l
      let late : Vx Unit :=
        if c.kvhm1 < x.head.toNat || (x.chs && c.d ≤ 128) then kvBad 13 else if c.releasing.isSome then kvBad 14 else .ok ()
      let plan := rows.bind fun rows => late.bind fun _ =>
        (vxAll (fun y : KvRow × Bool => vxAll (fun z => s.chunks v z.1 z.2 true) (kvRanges x c.d y.1)) rows).bind fun ks =>
        (match x.fin && !x.stg, m.a.head? with
         | true, some d => (s.kvWalk v g.table next tidx (start + r : Nat)).bind fun nx =>
             (s.regionPlace v m d).bind fun p =>
               .ok (some (p, w64 (nx.2 % 2 ^ 16 * 2 ^ 20 + nx.1 % 2 ^ 20 * 2 ^ 36)))
         | _, _ => .ok none).bind fun nx => .ok (rows, (ks.flatten).flatten, nx)
      match plan with
      | .page s y => .page s y
      | .bad t => bad t
      | .ok (rows, k, nx) =>
        let seen := if x.stg then [g.table + 8 * bits m.x 47 32]
          else (List.range (r + b2n x.fin)).map fun i => g.table + 8 * (tidx + (next % 16 + start + i) / 16)
        let busy := match rows.head? with
          | some (row, _) => x.stg && s.readersOf row.r.fn row.r.va row.area != 0
          | none => false
        if s.me.spec && s.earlierWrites (seen.filterMap fun a => match s.freshAt v a with | .ok p => some (p.key 0) | _ => none) then
          .full
        else
          match busy, rows.head? with
          | true, some (row, _) => .readers row.r.fn row.r.va row.area
          | _, _ =>
            let (fb, pz, s) := s.matReads m 256 m.b
            match pz with
            | some t => bad t
            | none =>
              let s := s.freshRec v m.epoch seen
              let bs := fb.headD []
              let freq := (List.range 64).map fun i => natOfBytes ((bs.drop (4 * i)).take 4)
              let (ews, env) := s.kvWrites x m c g.layer k freq rows
              let ready (s : State) : State :=
                let s := (s.kvOccupy c rows (loop.map fun u => (u, start))
                  (fun slot => if slot / 16 = next / 16 then slot - next else slot % 16) s.me.spec).setCtx c.h
                    fun c => c.learn g.layer g.table (!x.stg) (rows.map (·.1))
                let s := match x.stg, rows.head? with
                  | true, some (row, _) => s.clearStage k c g.layer (bits m.x 19 0) row.r
                  | _, _ => s
                s.keepCaptured v.fn (rows.map (·.1)) ews
              if s.me.spec then
                match (ready s).kvSpec x m c g.layer k rows ews env nx with
                | some s => .done s none
                | none => .full
              else .done ((ready s).kvPlain x m c g.layer k rows ews env nx loop.isSome) none

end Sys2Proof.Machine
end

