-- ==== Sys2Proof/Machine/Attention.lean ====
section
/-!
DEFINITION. Captures and attention: GATHB, ATTN with its retirement, ATEDRAIN and ATBOUND (15 R366 to R372; 06 R164 to R178; 07 R199).
-/
namespace Sys2Proof.Machine

/-- A result word (15 R364). -/
def resWord (code detail hi : Nat) : Word := w64 (hi % 2 ^ 32 * 2 ^ 32 + detail % 256 * 256 + code)

/-! ## GATHB (15 R366, R367) -/

/-- A provisional slot is seen by the current thread: lane j sees those of lanes 0 to j of its loop (07 R199). -/
def State.seesSlot (s : State) (x : SlotRec) : Bool :=
  !x.prov ||
  (match x.ix, s.loopOf with
   | some (u, i), some (l, _) => s.me.looping && u == s.me.agent && i / Nat.max l.appn 1 ≤ s.me.laneIndex
   | _, _ => false)

/-- Captures a block: its attention set with positions and WPOS words (06 R161, R167). A WMASK bit of a token that stood in a
slot before does not count for the token that EDINS put there (05 R137). [DEDUCED, log 90] -/
def State.captureOf (s : State) (c : Ctx) (layer : Nat) (e : Word) (r : KRec) : Captured :=
  let area (slot : Nat) : Nat := r.cur c.siltlg (c.siltOf slot)
  let areas := ((List.range (16 / 2 ^ c.siltlg)).map fun j => b2n ((hdrCur r.hdr).testBit j)).eraseDups
  { cblk := teBlk e, entry := e, va := r.va, cur := hdrCur r.hdr, areas := areas,
    slots := ((c.inBlock (teBlk e)).filter fun x =>
        s.seesSlot x && r.stored (area x.slot) x.slot && x.holds layer s.me.looping).map fun x =>
      (x.slot, c.posOf x, hdrPos r.hdr (area x.slot) x.slot) }

/-- The entries that a GATHB takes, checked in lane order: captured blocks, or the lane that fails with its code. [DEDUCED, log 39] -/
def State.gather (s : State) (v : View) (c : Ctx) (layer pool psize : Nat) : List (Nat × Word) → Vx (Nat × Nat ⊕ List Captured)
  | [] => .ok (.inr [])
  | (k, e) :: t =>
    (s.entryCheck v c c.h layer none e pool psize).bind fun r =>
    match r with
    | .inl code => .ok (.inl (code, k))
    | .inr r => (s.gather v c layer pool psize t).bind fun l => match l with
      | .inl x => .ok (.inl x)
      | .inr l => .ok (.inr (s.captureOf c layer e r :: l))

/-- Blocks in the open capture sets of a vcore, and sets at the attention engine of a cluster. -/
def Thread.sets (t : Thread) : List CapSet := t.caps.toList.filterMap id
def State.vcoreBlocks (s : State) (vu : Nat) : Nat :=
  ((s.threads.filter fun t => t.vu == vu).flatMap Thread.sets).foldl (fun n c => n + c.blocks.length) 0
def State.engineSets (s : State) (cluster : Nat) : Nat :=
  (s.threads.filter fun t => t.core / 16 == cluster).foldl (fun n t => n + t.sets.length) 0

/-- A capture set of the current thread. -/
def State.capSet (s : State) (cs : Bool) : Option CapSet := if cs then s.me.caps[1] else s.me.caps[0]

/-- Puts a capture set of the current thread. -/
def State.putCap (s : State) (cs : Bool) (c : Option CapSet) : State :=
  s.upd fun t => { t with caps := if cs then t.caps.set 1 c else t.caps.set 0 c }

/-- The set that a GATHB opens. -/
def newSet (c : Ctx) (layer : Nat) : CapSet :=
  { ctx := c.h, layer := layer, fn := c.fn, hdlg := c.hdlg, kvhm1 := c.kvhm1, siltlg := c.siltlg, shift := c.shift,
    seed := c.seed }

/-- The record of a captured block. -/
def Captured.rec' (b : Captured) (c : CapSet) : KRec :=
  ⟨c.fn, b.va, 2 ^ c.hdlg, c.kvhm1 + 1, (nfmt? (bits b.entry 61 60)).getD .int8, []⟩

/-- The pages of a captured record. -/
def Captured.pages (b : Captured) (c : CapSet) : List Nat :=
  let r : KRec := b.rec' c
  (List.range ((r.va + (r.size - 1)) / 2 ^ 16 - r.va / 2 ^ 16 + 1)).map fun i => r.va / 2 ^ 16 + i

/-- The set with the translations of its records' pages as they are resolved now, those it holds left as they are (06 R180). -/
def State.resolve (s : State) (die : Nat) (c : CapSet) : CapSet :=
  let new := (c.blocks.flatMap fun b => b.pages c).eraseDups.filter fun p => !(c.leaves.any fun x => x.1 == p)
  { c with leaves := c.leaves ++ new.filterMap fun p => match s.leafOf die c.fn (p * 2 ^ 16) with
      | .leaf e large _ => some (p, large, e)
      | .fault _ => none }

/-- An earlier ATTN of the thread that consumes the set has not retired. -/
def State.attnHolds (s : State) (cs : Bool) : Bool :=
  s.matq.any fun m => m.thr == s.me.uid && (match m.i with | .attn x => x.cs == cs | _ => false)

/-- Performs GATHB with the entries and the descriptor of its issue; an ATTN that consumes the set comes first. -/
def perfGathb (x : GathbA) (s : State) : Perf :=
  if s.attnHolds x.cs then .later s .attns
  else
    let d := (s.me.shadow.map (·.desc)).getD []
    let layer := bits (d.getD 1 0) 59 52
    let iv := s.me.vr x.vi
    let lanes := ((List.range 32).filter fun k => (s.me.pr x.pg).toNat.testBit (8 * k)).map fun k => (k, w64 (getEl iv 8 k))
    let old := s.capSet x.cs
    let have_ := (old.map fun c => c.blocks.length).getD 0
    let res (s : State) (code detail n : Nat) : Perf := .now s (.regs [.g x.d (resWord code detail n)])
    match s.ctxFor (s.fnOf s.me) (bits (d.getD 0 0) 63 52) with
    | none => res s 3 0 have_
    | some c =>
      match s.gather s.view c layer (bits (d.getD 0 0) 51 0) (bits (d.getD 1 0) 51 0) lanes with
      | .page s w => .later s (.page w)
      | .bad t => .now s (.fault t)
      | .ok (.inl (code, k)) => res s code k have_
      | .ok (.inr l) =>
        let full := 4096 < have_ + l.length || 8192 < s.vcoreBlocks s.me.vu + l.length ||
          (old.isNone && 64 ≤ s.engineSets (s.me.core / 16))
        if full then res s 18 0 have_
        else if old.any fun o => o.ctx != c.h || o.layer != layer then res s 19 0 have_
        else
          let set := old.getD (newSet c layer)
          let s := l.foldl (fun s b => s.addReaders c.fn b 1) (s.putCap x.cs (some (s.resolve s.me.die { set with blocks := set.blocks ++ l })))
          res s 0 0 (have_ + l.length)

/-- GATHB. -/
def execGathb (x : GathbA) (s : State) : Out1 := run s fun s =>
  let len := bLenX x.b
  (vgates (x.a :: bRegs x.b) [x.vi] none false none s).bind fun _ s =>
  (accessGate s).bind fun _ s =>
  (readB x.b s).bind fun b s =>
  (segR x.seg ((s.me.gr x.a).toInt + b.toInt) 16 16 needRD false s).bind fun a s =>
  (stageR a 16 s).bind fun a s =>
  (specAccess a 16 false s).bind fun _ s =>
  (transR len a false true 6 s).bind fun p s =>
  let (ws, bad, s) := s.recBoth p 2
  if tdBad ws then illegalR 1 s
  else
    match bad with
    | some t => .stop (lateLong x.look len t s)
    | none =>
      (vtake [x.vi] (lateLong x.look len) s).bind fun l s =>
      let s := s.upd fun t => { t with shadow := some { t.snap with
        desc := ws, v := t.snap.v.set x.vi.toNat (vval l x.vi) (x.vi.isLt) } }
      openPerf (.gathb x) x.look len false false (perfGathb x s)

/-! ## The attention descriptor (15 R369) -/

/-- Fields of the descriptor. -/
def atEps (d : List Word) : Nat := bits (d.getD 0 0) 63 32
def atSigma (d : List Word) : Nat := bits (d.getD 0 0) 31 0
def atMode (d : List Word) : Nat := bits (d.getD 1 0) 63 62
def atRec (d : List Word) : Bool := bit (d.getD 1 0) 61
def atHead (d : List Word) : Nat := bits (d.getD 1 0) 55 48
def atR (d : List Word) : Nat := bits (d.getD 1 0) 47 42 + 1
def atJ (d : List Word) : Nat := bits (d.getD 1 0) 41 30 + 1
def atSp (d : List Word) : Nat := bits (d.getD 1 0) 29 18
def atP (d : List Word) : Nat := bits (d.getD 2 0) 53 36
def atO (d : List Word) : Nat := bits (d.getD 2 0) 35 18
def atQ (d : List Word) : Nat := bits (d.getD 2 0) 17 0
def atWseg (d : List Word) : Nat := bits (d.getD 3 0) 54 52
def atWoff (d : List Word) : Nat := bits (d.getD 3 0) 51 0
def atRtidx (d : List Word) : Nat := bits (d.getD 4 0) 63 48
def atF (d : List Word) : Nat := bits (d.getD 4 0) 17 0
def atRtd (d : List Word) : Nat := bits (d.getD 5 0) 51 0
def atCtx (d : List Word) : Nat := bits (d.getD 7 0) 63 52

/-- The doubleword that breaks the descriptor's own rules. -/
def atBad (d : List Word) : Option Nat :=
  let w (i : Nat) : Word := d.getD i 0
  if (match val32 (atEps d) with | .fin n m _ => n && m != 0 | _ => true) then some 0
  else if atMode d == 3 || bits (w 1) 60 56 != 0 || bits (w 1) 17 0 != 0 || atJ d ≤ atSp d || (atRec d && atMode d == 2) then
    some 1
  else if bits (w 2) 63 54 != 0 then some 2
  else if bits (w 3) 63 55 != 0 then some 3
  else if bits (w 4) 47 18 != 0 then some 4
  else if bits (w 5) 63 52 != 0 then some 5
  else if w 6 != 0 then some 6
  else if bits (w 7) 51 0 != 0 then some 7
  else none

/-! ## ATTN's issue -/

/-- A row of AB bytes in units of 64. -/
def units64 (t : Int) (n : Nat) : List (Int × Nat) :=
  (List.range ((n + 63) / 64)).map fun k => (t + (64 * k : Nat), Nat.min 64 (n - 64 * k))

/-- A direct AB extent of `n` bytes, aligned to 64 and one unit (15 R369), checked; its pieces with their sizes. -/
def extentR (store : Bool) (t n : Nat) (s : State) : R (List (Nat × SegA)) :=
  if t % 64 ≠ 0 then segvR 4 0 s
  else
    let l := units64 (t : Int) n
    (abRowR store l s).bind fun a s => .ok ((l.map (·.2)).zip a) s

/-- Resolves pieces through their flumes. -/
def extentReady : List (Nat × SegA) → State → R (List (Nat × SegA))
  | [], s => .ok [] s
  | (n, a) :: t, s => (stageR a n s).bind fun a s => (extentReady t s).bind fun l s => .ok ((n, a) :: l) s

/-- Splits an address into pieces of 64 bytes. -/
def pieces (n : Nat) (a : SegA) : List SegA := (List.range (n / 64)).map fun k => { a with addr := a.addr + 64 * k }

/-- Row records of the workspace, checked, in pieces of 64 bytes (15 R370). -/
def workR (d : List Word) (dd : Nat) (store : Bool) (ns : List Nat) (s : State) : R (List (Nat × SegA)) :=
  let n := 64 + 4 * dd
  (segsR (BitVec.ofNat 3 (atWseg d)) n 64 (if store then needWR else needRD) store
    (ns.map fun k => ((atWoff d + k * n : Nat) : Int)) s).bind fun l s =>
  (stagesR 64 (l.flatMap (pieces n)) s).bind fun l s => .ok (sized 64 l) s

/-- What ATTN reads and writes of AB and of its workspace: inputs and outputs. Every AB extent is checked, also one that the mode
does not use (15 R369). -/
def attnPlaces (d : List Word) (dd : Nat) (s : State) : R (List (Nat × SegA) × List (Nat × SegA)) :=
  let r := atR d
  let mode := atMode d
  (extentR false (atP d) (4 * r) s).bind fun p s =>
  (extentR (mode != 1) (atO d) (4 * dd * r) s).bind fun o s =>
  (extentR false (atQ d) (4 * dd * r) s).bind fun q s =>
  (extentR false (atF d) (2 * dd) s).bind fun f s =>
  (if mode = 0 then .ok [] s
   else if mode = 1 then workR d dd true ((List.range r).map fun i => atSp d * r + i) s
   else workR d dd false ((List.range (atJ d)).flatMap fun j => (List.range r).map fun i => j * r + i) s).bind fun w s =>
  (extentReady (if mode = 2 then [] else p ++ q ++ f) s).bind fun ins s =>
  (extentReady (if mode = 1 then [] else o) s).bind fun outs s =>
  let ins := if mode = 2 then w else ins
  let outs := if mode = 1 then w else outs
  (specUnits ins outs s).bind fun _ s => .ok (ins, outs) s

/-- An earlier GATHB of the thread waits. -/
def Thread.gathering (t : Thread) : Bool := t.windows.any fun w => match w.res with
  | .wait (.defer _ (.gathb _) _) => true
  | _ => false

/-- The layer's table descriptor that ATTN reads where it records its query. [DEDUCED, log 47] -/
def rtdR (x : AttnA) (len : Nat) (ws : List Word) (s : State) : R (List Word × Option Trap) :=
  if !atRec ws then .ok ([], none) s
  else
    (segR x.x.seg ((atRtd ws : Nat) : Int) 16 16 needRD false s).bind fun a s =>
    (stageR a 16 s).bind fun a s =>
    (specAccess a 16 false s).bind fun _ s =>
    (transR len a false true 6 s).bind fun p s =>
    let (l, bad, s) := s.recBoth p 2
    if tdBad l then raiseR 2 5 s else .ok (l, bad) s

/-- ATTN. -/
def execAttn (x : AttnA) (s : State) : Out1 := run s fun s =>
  let len := bLenX x.x.b
  (needRegs (x.x.a :: bRegs x.x.b) s).bind fun _ s =>
  (accessGate s).bind fun _ s =>
  (homeGate s).bind fun _ s =>
  if s.me.gathering then parkR .gather s
  else
    (readB x.x.b s).bind fun b s =>
    (segR x.x.seg ((s.me.gr x.x.a).toInt + b.toInt) 64 64 needRD false s).bind fun a s =>
    (stageR a 64 s).bind fun a s =>
    (specAccess a 64 false s).bind fun _ s =>
    (transR len a false true 6 s).bind fun p s =>
    let (ws, bad, s) := s.recBoth p 8
    match atBad ws with
    | some n => illegalR (w64 (0x100 + n)) s
    | none =>
      if atMode ws = 2 && x.cs then raiseR 2 (w64 (5 + 256)) s
      else
        (rtdR x len ws s).bind fun (rt, bad') s =>
        let dim := if atMode ws = 2 then (s.ctxFor (s.fnOf s.me) (atCtx ws)).map Ctx.d
          else (s.capSet x.cs).map fun c => 2 ^ c.hdlg
        (match dim with
         | some d => attnPlaces ws d s
         | none => .ok ([], []) s).bind fun (l, o) s =>
        matEnterP x.x.look len (bad.or bad') (fun s => s.matWrites { s.matDraft (.attn x) with
          frame := ws ++ rt, a := l.map Prod.snd, b := o.map Prod.snd }) s

/-! ## Numbers far apart -/

/-- The place of the leading bit. -/
def Fp.top : Fp → Int
  | .fin _ m e => e + bitLen m
  | _ => 0

/-- The sum of two non-negative numbers, the lesser left out where it is smaller by a factor of 2^4000. -/
def Fp.addFar (a b : Fp) : Fp :=
  if a.isZero then b else if b.isZero then a
  else if a.top + 4000 < b.top then b else if b.top + 4000 < a.top then a else a.add b

/-- Order of two non-negative numbers. -/
def Fp.leFar (a b : Fp) : Bool :=
  if a.isZero then true else if b.isZero then false
  else if a.top + 4 < b.top then true else if b.top + 4 < a.top then false else !(b.lt a)

/-- A number too small for any rounding to tell from a smaller one. -/
def Fp.notTiny : Fp → Fp
  | .fin n m e => if m != 0 && e + bitLen m < -2000 then .fin n 1 (-2000) else .fin n m e
  | x => x

/-- The exponential of a number of any size; its error is below 2^−380 of it. -/
def Fp.expWide : Fp → Fp
  | .fin n m e => if m = 0 then .fin false 1 0 else let (x, k) := expFix n (fix400 m e); .fin false x (k - 400)
  | x => x.exp

/-- The square root rounded up. -/
def Fp.sqrtUp : Fp → Fp
  | .fin _ m e =>
    if m = 0 then .fin false 0 0
    else
      let odd := e % 2 != 0
      let x := m * 2 ^ (if odd then 241 else 240)
      let r := isqrt x
      .fin false (r + (if r * r = x then 0 else 1)) ((e - (if odd then 1 else 0)) / 2 - 120)
  | x => x

/-- A number. -/
def Fp.finite : Fp → Bool
  | .fin _ _ _ => true
  | _ => false

/-- Rounded to FP32 upwards or downwards. [DEDUCED, log 38] -/
def up32 (x : Fp) : Nat := f32.enc .rup false x.notTiny
def down32 (x : Fp) : Nat := f32.enc .rdn false x.notTiny

/-- The greatest and least of a list. -/
def maxOf (l : List Fp) : Fp := match l with | [] => .inf true | x :: t => t.foldl Fp.maxF x
def minOf (l : List Fp) : Fp := match l with | [] => .inf false | x :: t => t.foldl Fp.minF x

/-- The exact sum. -/
def sumOf (l : List Fp) : Fp := l.foldl Fp.add (.fin false 0 0)

/-- FP32 numbers from bytes. -/
def f32s : Nat → List Byte → List Nat
  | 0, _ => []
  | n + 1, l => natOfBytes (l.take 4) :: f32s n (l.drop 4)

/-! ## Keys, values and envelopes of a capture (06 R167, R171, R172) -/

/-- The area that a captured slot stands in. -/
def Captured.area (b : Captured) (c : CapSet) (slot : Nat) : Nat := b2n (b.cur.testBit (cbit c.siltlg (slot / 2 ^ c.siltlg)))

/-- The extra rotation of a captured slot, in positions (06 R171). -/
def capDelta (c : CapSet) (x : Nat × Int × Int) : Int := if c.shift then (x.2.1 - x.2.2) / 256 else 0

/-- Rotates a key. -/
def rotKey (freq : List Nat) (delta : Int) (k : List Nat) : List Nat :=
  if delta = 0 then k
  else
    let p := rne32 (.fin (delta < 0) delta.natAbs 0)
    (List.range (k.length / 2)).flatMap fun t =>
      let (a, b) := ropePair f32 (k.getD (2 * t) 0) (k.getD (2 * t + 1) 0) p (freq.getD t 0)
      [a, b]

/-- The elements of a captured slot, 0 the key and 1 the value, with the trap of a poisoned word. -/
def State.capElems (s : State) (k : Chunks) (c : CapSet) (b : Captured) (head val slot : Nat) : List Nat × Option Trap :=
  let r := b.rec' c
  let a := b.area c slot
  let s := b.kept.foldl (fun s y => s.setByte y.1 y.2) s
  let n := kvCodes r.d r.fmt / 16
  ((List.range r.d).map fun ch => s.kvElem k r c.seed c.layer a head val slot ch,
   (s.cPoison k (r.code a head val slot 0).1 n).or (s.cPoison k (r.scale a head val slot 0) (4 * kvStrips r.d)))

/-- Widens an envelope word by the shadows of the lanes that the current thread sees (07 R199). -/
def State.shadowed (s : State) (loc old : Nat) : Nat :=
  if !s.me.looping then old
  else
    (s.threads.flatMap fun t => match t.lane with
      | some l => if l.loopOf == s.me.agent && !l.accepted && l.index ≤ s.me.laneIndex then l.provs.flatMap (·.env) else []
      | none => []).foldl (fun x e => if e.1.loc = loc then widen e.2.1 x e.2.2.toNat else x) old

/-- The envelope entries of a kind, the union over a block's areas. -/
def State.capEnv (s : State) (k : Chunks) (c : CapSet) (b : Captured) (head kind : Nat) : List Fp :=
  let r := b.rec' c
  (List.range r.d).map fun ch =>
    let vals := b.areas.map fun a =>
      let va := r.env a head kind ch
      val32 (s.shadowed (k.at va).loc (s.cNum k va 4))
    if kind = 0 then minOf vals else maxOf vals

/-- What the skip rule needs of a block. -/
structure BlkEnv where
  kmin : List Fp
  kmax : List Fp
  vabs : Fp
  keep : Bool
  rot : Bool

/-- Reads the envelopes of a block. -/
def State.blkEnv (s : State) (k : Chunks) (c : CapSet) (b : Captured) (head : Nat) : BlkEnv :=
  { kmin := s.capEnv k c b head 0, kmax := s.capEnv k c b head 1, vabs := maxOf (s.capEnv k c b head 2),
    keep := teKeep b.entry, rot := b.slots.any fun x => capDelta c x != 0 }

/-- The trap of a poisoned envelope. -/
def State.envPoison (s : State) (k : Chunks) (c : CapSet) (b : Captured) (head : Nat) : Option Trap :=
  let r := b.rec' c
  b.areas.findSome? fun a => s.cPoison k (r.env a head 0 0) (12 * r.d)

/-! ## Score bounds and the skip set (06 R172 to R174) -/

/-- The score bounds of a box of queries against a box of keys: σ times the sums of greatest and least products. -/
def boxBounds (sigma : Fp) (qlo qhi kmin kmax : List Fp) : Nat × Nat :=
  let prods := ((qlo.zip qhi).zip (kmin.zip kmax)).map fun y =>
    [y.1.1.mul y.2.1, y.1.1.mul y.2.2, y.1.2.mul y.2.1, y.1.2.mul y.2.2]
  let a := sigma.mul (sumOf (prods.map maxOf))
  let b := sigma.mul (sumOf (prods.map minOf))
  (up32 (a.maxF b), down32 (a.minF b))

/-- The square of a number's magnitude summed over a pair. -/
def sq (x y : Fp) : Fp := (x.mul x).add (y.mul y)

/-- The rotation-free bounds over channel pairs. -/
def pairBounds (sigma : Fp) (qlo qhi kmin kmax : List Fp) : Nat × Nat :=
  let at_ (l : List Fp) (i : Nat) : Fp := l.getD i (.fin false 0 0)
  let radius (lo hi : List Fp) (t : Nat) : Fp :=
    maxOf [sq (at_ lo (2 * t)) (at_ lo (2 * t + 1)), sq (at_ lo (2 * t)) (at_ hi (2 * t + 1)),
           sq (at_ hi (2 * t)) (at_ lo (2 * t + 1)), sq (at_ hi (2 * t)) (at_ hi (2 * t + 1))]
  let u := sigma.absF.mul (sumOf ((List.range (kmin.length / 2)).map fun t =>
    ((radius qlo qhi t).mul (radius kmin kmax t)).sqrtUp))
  (up32 u, down32 u.neg)

/-- The bounds of a block. -/
def BlkEnv.bounds (e : BlkEnv) (sigma : Fp) (qlo qhi : List Fp) : Nat × Nat :=
  if e.rot then pairBounds sigma qlo qhi e.kmin e.kmax else boxBounds sigma qlo qhi e.kmin e.kmax

/-- A block as the skip rule of one row sees it: its place, the keys in the row's set, U, L, and whether it may be skipped. -/
structure SkipB where
  i : Nat
  n : Nat
  u : Fp
  l : Fp
  cand : Bool

/-- n × exp(x − M). -/
def weight (n : Nat) (x m : Fp) : Fp :=
  if x == .inf true then .fin false 0 0 else if !x.finite then .inf false else (Fp.fin false n 0).mul ((x.add m.neg).expWide)

/-- 2V × Σ W⁺ over X and Σ W⁻ outside X. -/
def skipSides (v m : Fp) (bs : List SkipB) (xs : List Nat) : Fp × Fp :=
  let add (l : List Fp) : Fp := l.foldl Fp.addFar (.fin false 0 0)
  (if bs.any fun b => xs.contains b.i && !(weight b.n b.u m).finite then .inf false else
   ((Fp.fin false 2 0).mul v).mul (add ((bs.filter fun b => xs.contains b.i).map fun b => weight b.n b.u m)),
   add ((bs.filter fun b => !xs.contains b.i).map fun b => weight b.n b.l m))

/-- Takes candidates in ascending U while β stays within ε. -/
def skipLoop (v eps m : Fp) (bs : List SkipB) : List SkipB → List Nat → List Nat
  | [], xs => xs
  | c :: t, xs =>
    let (a, b) := skipSides v m bs (c.i :: xs)
    if a.finite && !b.isZero && a.leFar (eps.mul b) then skipLoop v eps m bs t (c.i :: xs) else xs

/-- Puts a block in ascending U, ties in capture order. -/
def insertU (x : SkipB) : List SkipB → List SkipB
  | [] => [x]
  | y :: t => if x.u.lt y.u then x :: y :: t else y :: insertU x t

/-- The skip set of a row and its β (06 R173). -/
def skipSet (eps v : Fp) (bs : List SkipB) : List Nat × Nat :=
  if eps.isZero || !v.finite then ([], 0)
  else
    let us := (bs.map (·.u)).filter Fp.finite
    let m := maxOf us
    let xs := if us = [] then [] else skipLoop v eps m bs ((bs.filter (·.cand)).foldl (fun l b => insertU b l) []) []
    if xs = [] then ([], 0)
    else let (a, b) := skipSides v m bs xs; (xs, up32 (a.div b))

/-! ## The attention loop (06 R171, R178) -/

/-- log2 of D. -/
def lg (d : Nat) : Nat := Nat.log2 d

/-- score. -/
def score (sigma : Nat) (q k : List Nat) : Nat :=
  mul32 sigma (treeRed add32 0 (lg q.length) ((q.zip k).map fun y => mul32 y.1 y.2))

/-- exp32. -/
def exp32 (x : Nat) : Nat := rne32 (val32 x).exp

/-- Subtraction of FP32 bits. -/
def sub32 (a b : Nat) : Nat := rne32 ((val32 a).add (val32 b).neg)

/-- o + w × v, fused. -/
def fma32 (o w v : Nat) : Nat := rne32 ((val32 o).add ((val32 w).mul (val32 v)))

/-- −∞ in FP32. -/
def ninf32 : Nat := f32.enc .rne false (.inf true)

/-- The running triple of a row. -/
structure Tri where
  m : Nat := ninf32
  l : Nat := 0
  o : List Nat

/-- One key of the loop. -/
def Tri.key (t : Tri) (sc : Nat) (v : List Nat) : Tri :=
  let t := if (val32 t.m).lt (val32 sc) then
      let a := exp32 (sub32 t.m sc)
      { m := sc, l := mul32 t.l a, o := t.o.map fun x => mul32 x a }
    else t
  let w := exp32 (sub32 sc t.m)
  { t with l := add32 t.l w, o := (t.o.zip v).map fun y => fma32 y.1 w y.2 }

/-- attn_row before its final division; a NaN score ends it with canonical NaNs. -/
def attnRow (sigma d : Nat) (q : List Nat) (keys : List (List Nat × List Nat)) : Tri :=
  let nan : Tri := { m := f32.qnan, l := f32.qnan, o := List.replicate d f32.qnan }
  let go := keys.foldl (fun (t : Option Tri) kv => t.bind fun t =>
    let sc := score sigma q kv.1
    if (val32 sc).isNan then none else some (t.key sc kv.2)) (some { o := List.replicate d 0 })
  go.getD nan

/-- The final division. [DEDUCED, log 40] -/
def Tri.out (t : Tri) : List Nat :=
  if (val32 t.l).isZero then t.o.map fun _ => 0 else t.o.map fun x => rne32 ((val32 x).div (val32 t.l))

/-- combine. -/
def combine (d : Nat) (ws : List Tri) : Tri :=
  ws.foldl (fun t w =>
    if w.m = ninf32 then t
    else
      let mm := rne32 ((val32 t.m).maxF (val32 w.m))
      let a := exp32 (sub32 t.m mm)
      let b := exp32 (sub32 w.m mm)
      { m := mm, l := add32 (mul32 t.l a) (mul32 w.l b),
        o := (t.o.zip w.o).map fun y => add32 (mul32 y.1 a) (mul32 y.2 b) }) { o := List.replicate d 0 }

/-! ## Performing ATTN (15 R370, R371) -/

/-- What ATTN's performing answers. -/
inductive AOut where
  | done (s : State) (code detail rows : Nat)
  | trap (s : State) (t : Trap)
  | page (s : State) (w : PageWait)
  | readers (fn va area : Nat)

/-- The place of a piece, translated. -/
def State.piece (s : State) (v : View) (m : MatQ) (wr : Bool) (a : SegA) : Vx Place :=
  match a.space with
  | 1 => .ok (m.place a)
  | 2 => .ok { space := 2, addr := a.addr, loc := cistBase a.slice + a.addr, slice := some a.slice }
  | _ => s.vaAt v a.addr wr

/-- Reads pieces of some sizes as the thread's instruction. -/
def State.readPieces (s : State) (ps : List (Nat × Place)) : List Byte × Option Trap × State :=
  ps.foldl (fun (x : List Byte × Option Trap × State) (n, p) =>
    let s := x.2.2
    (x.1 ++ s.seen p n, x.2.1.or (s.seenTrap p n), if s.me.spec then s.specRead p n false else s)) ([], none, s)

/-- The inputs that a mode consumes, with their sizes: positions, query rows, and in SHIFT mode the frequencies. -/
def consumed (r dd : Nat) (shift : Bool) (ins : List Place) : List (Nat × Place) :=
  let n := (4 * r + 63) / 64
  let sizes := (units64 0 (4 * r)).map (·.2) ++ List.replicate (dd * r / 16) 64 ++ (units64 0 (2 * dd)).map (·.2)
  (sizes.zip ins).take (n + dd * r / 16 + (if shift then (2 * dd + 63) / 64 else 0))

/-- The words of FP32 numbers at pieces. -/
def f32EWs (ps : List Place) (xs : List Nat) : List EW :=
  (((List.range xs.length).zip xs).map fun y =>
    let p := ps.getD (y.1 / 16) { space := 0, addr := 0, loc := 0, slice := none }
    elemEW { p with addr := p.addr + 4 * (y.1 % 16), loc := p.loc + 4 * (y.1 % 16) } 0 32 y.2 false).foldr putEW []

/-- Writes words for ATTN: engine writes or entries of a side buffer; those to AB fold at its place. -/
def State.attnPut (s : State) (m : MatQ) (l : List EW) : State :=
  let s := s.spoil (l.map fun w => w.p.loc / 8)
  if s.me.spec then
    s.upd fun t => t.addBuf (l.map fun w => ⟨w.p, true, false, maskOfBits w.bm, w64 w.x, m.seq, m.pc⟩)
  else
    let (s, ws) := s.putEWs m.clk l
    s.fillHole s.me.agent m.hole ((ws.filter fun w => w.space == 1).map fun w =>
      digBlock 0 w.space w.mask.toNat w.addr (maskedWord w.mask w.x))

/-- The bytes of a row record: m, l, β, zeros and o. -/
def rowRecord (t : Tri) (beta : Nat) : List Nat := [t.m, t.l, beta] ++ List.replicate 13 0 ++ t.o

/-- Combine mode. -/
def State.attnCombine (s : State) (m : MatQ) (d : List Word) (dd : Nat) (ins outs : List Place) : AOut :=
  let r := atR d
  let (bs, bad, s) := s.readPieces (ins.map fun p => (64, p))
  match bad with
  | some t => .trap (s.matNone m) t
  | none =>
    let n := 16 + dd
    let fs := f32s (atJ d * r * n) bs
    let row (j i : Nat) : List Nat := (fs.drop ((j * r + i) * n)).take n
    let rows := (List.range r).map fun i =>
      let l := (List.range (atJ d)).map fun j => row j i
      let t := combine dd (l.map fun x => { m := x.getD 0 0, l := x.getD 1 0, o := x.drop 16 })
      (t.out, l.foldl (fun b x => up32 ((val32 b).add (val32 (x.getD 2 0)))) 0)
    let s := s.attnPut m (f32EWs outs (rows.flatMap (·.1)))
    let beta := rne32 (maxOf (rows.map fun y => val32 y.2))
    .done (s.upd fun t => { t with lastbeta := some (BitVec.ofNat 32 beta) }) 0 0 r

/-- What the keys of a capture set are: by block and slot the position, the rotated key and the value, with poison. -/
structure KeyD where
  blk : Nat
  pos : Int
  key : List Nat
  val : List Nat
  bad : Option Trap

/-- The keys of a set in order. -/
def State.capKeys (s : State) (k : Chunks) (c : CapSet) (head : Nat) (freq : List Nat) : List KeyD :=
  ((List.range c.blocks.length).zip c.blocks).flatMap fun (i, b) => b.slots.map fun x =>
    let (ke, p) := s.capElems k c b head 0 x.1
    let (v, q) := s.capElems k c b head 1 x.1
    ⟨i, x.2.1, rotKey freq (capDelta c x) ke, v, p.or q⟩

/-- A block for the skip rule of one row: bounds, and the keys at or before the row's position. -/
def skipOf (sigma : Fp) (q : List Fp) (pos : Int) (i : Nat) (b : Captured) (e : BlkEnv) : SkipB :=
  let (u, l) := e.bounds sigma q q
  let n := (b.slots.filter fun x => x.2.1 ≤ pos).length
  let fin := (e.kmin ++ e.kmax).all Fp.finite && e.vabs.finite
  { i := i, n := n, u := val32 u, l := val32 l, cand := !e.keep && fin && 0 < n }

/-- The query record that ATTN writes (06 R175): its words. -/
def queryEWs (k : Chunks) (r : KRec) (area head sigma : Nat) (qs : List (List Nat)) (ts : List Tri) : List EW :=
  let at4 (va x : Nat) : EW := elemEW (k.at va) 0 32 x false
  let col (f : List Fp → Fp) (ch : Nat) : Nat := rne32 (f (qs.map fun q => val32 (q.getD ch 0)))
  let lam := minOf (ts.map fun t =>
    if (val32 t.l).isZero then .inf true else (val32 t.m).add (val32 t.l).log)
  (((List.range r.d).flatMap fun ch => [at4 (r.env area head 3 ch) (col minOf ch), at4 (r.env area head 4 ch) (col maxOf ch)]) ++
    [at4 (r.sigma area head) sigma, at4 (r.lambda area head) (down32 lam)]).foldr putEW []

/-- The entry that a recording ATTN computes: the record of its silt block and the staging area; none where the issuer is not its
PENDING work item (15 R371). The set that it attends may stand at any layer: the keys that layer ℓ's item reads were written by layer ℓ − 1. -/
def State.recTarget (s : State) (v : View) (m : MatQ) (set : CapSet) (d : List Word) : Vx (Option (Ctx × KRec × Nat × Nat × Nat)) :=
  match s.agentT.item, s.ctxFor v.fn set.ctx with
  | some it, some c =>
    if it.ctx != set.ctx || (c.itemOf s.agentT.uid it).isNone then .ok none
    else
      (s.tableEntry v c (m.frame.drop 8) (atRtidx d) it.layer (some (c.blkOf it.block))).bind fun r =>
      match r with
      | .inl _ => .ok none
      | .inr (_, r) =>
        (s.chunks v r.va r.size true).bind fun _ => .ok (some (c, r, 1 - r.cur c.siltlg it.block, it.layer, it.block))
  | _, _ => .ok none

/-- Whole and split mode over a capture set. -/
def State.attnSet (s : State) (m : MatQ) (cs : Bool) (set : CapSet) (d : List Word) (ins outs : List Place)
    (target : Option (Ctx × KRec × Nat × Nat × Nat)) (kt k : Chunks) : AOut :=
  let dd := 2 ^ set.hdlg
  let r := atR d
  let head := atHead d
  let sigma := val32 (atSigma d)
  let eps := val32 (atEps d)
  let (bs, bad, s) := s.readPieces (consumed r dd set.shift ins)
  let fs := f32s (bs.length / 4) bs
  let qs := (List.range r).map fun i => (fs.drop (r + i * dd)).take dd
  let freq := (fs.drop (r + r * dd)).take (dd / 2)
  let poss := (List.range r).map fun i => (BitVec.ofNat 32 (fs.getD i 0)).toInt
  let skips := !eps.isZero
  let envs := if skips then set.blocks.map fun b => s.blkEnv k set b head else []
  let vmax := maxOf (envs.map (·.vabs))
  let keys := s.capKeys k set head freq
  let rows : List (Tri × Nat × Option Trap) := (qs.zip poss).map fun (q, pos) =>
    let xs : List Nat × Nat := if skips then
        skipSet eps vmax (((List.range envs.length).zip (set.blocks.zip envs)).map
          fun (y : Nat × Captured × BlkEnv) => skipOf sigma (q.map val32) pos y.1 y.2.1 y.2.2)
      else ([], 0)
    let ks : List KeyD := keys.filter fun (y : KeyD) => y.pos ≤ pos && !xs.1.contains y.blk
    (attnRow (atSigma d) dd q (ks.map fun y => (y.key, y.val)), xs.2, ks.findSome? (·.bad))
  let poison := (bad.or (if skips then set.blocks.findSome? fun b => s.envPoison k set b head else none)).or
    (rows.findSome? (·.2.2))
  match poison with
  | some t => .trap (s.matNone m) t
  | none =>
    let busy := match target with | some (_, r, area, _, _) => s.readersOf r.fn r.va area != 0 | none => false
    match busy, target with
    | true, some (_, r, area, _, _) => .readers r.fn r.va area
    | _, _ =>
      let out := if atMode d = 0 then rows.flatMap fun y => y.1.out else rows.flatMap fun y => rowRecord y.1 y.2.1
      let q := match target with
        | some (_, r, area, _, _) => queryEWs kt r area head (atSigma d) qs (rows.map (·.1))
        | none => []
      let s := match target with
        | some (c, r, _, l, b) => s.clearStage kt c l b r
        | none => s
      let s := match target with
        | some (c, r, area, _, _) => s.setCtx c.h fun c => { c with qrecs := ((r.va, area, head) :: c.qrecs).eraseDups }
        | none => s
      let s := s.attnPut m (q ++ f32EWs outs out)
      let s := (s.releaseSet set).putCap cs none
      let beta := rne32 (maxOf (rows.map fun y => val32 y.2.1))
      .done (s.upd fun t => { t with lastbeta := some (BitVec.ofNat 32 beta) }) 0 0 r

/-- Performs ATTN. [DEDUCED, log 37] -/
def perfAttn (x : AttnA) (m : MatQ) (s : State) : AOut :=
  let d := m.frame.take 8
  let v := s.viewOf m
  let wr : Vx (List Place × List Place) :=
    (vxAll (s.piece v m false) m.a).bind fun i => (vxAll (s.piece v m true) m.b).bind fun o => .ok (i, o)
  let none_ (code detail : Nat) : AOut := .done (s.matNone m) code detail 0
  if atMode d = 2 then
    match s.ctxFor v.fn (atCtx d) with
    | none => none_ 3 0
    | some c =>
      if c.kvhm1 < atHead d then none_ 21 1
      else match wr with
        | .page s w => .page s w
        | .bad t => .trap (s.matNone m) t
        | .ok (i, o) => s.attnCombine m d c.d i o
  else
    match s.capSet x.cs with
    | none => none_ 20 0
    | some set =>
      if set.kvhm1 < atHead d then none_ 21 1
      else
        let v := { v with leaves := set.leaves }
        let wr : Vx (List Place × List Place) :=
          (vxAll (s.piece v m false) m.a).bind fun i => (vxAll (s.piece v m true) m.b).bind fun o => .ok (i, o)
        let heads := vxAll (fun b : Captured => vxAll (fun a =>
          let r := b.rec' set
          s.chunks v (r.head a (atHead d)) (kvHead r.d r.fmt) false) b.areas) set.blocks
        let plan := (if atRec d then s.recTarget v m set d else .ok none).bind fun t =>
          if atRec d && t.isNone then .ok none
          else
            wr.bind fun (i, o) => heads.bind fun h =>
            (match t with
             | some (_, r, _, _, _) => s.chunks v r.va r.size true
             | none => .ok []).bind fun kt => .ok (some (i, o, t, kt, (h.flatten).flatten))
        match plan with
        | .page s w => .page s w
        | .bad t => .trap (s.matNone m) t
        | .ok none => none_ 12 0
        | .ok (some (i, o, t, kt, h)) =>
          let s := if atRec d then s.freshRec v m.epoch [tdEntry (m.frame.drop 8) (atRtidx d)] else s
          s.attnSet m x.cs set d i o t kt h

/-! ## ATTN_RETIRE, ATEDRAIN and ATBOUND -/

/-- The oldest ATTN of a thread at its engine, behind the thread's earlier matrix instructions (15 R371). -/
def State.attnHead (s : State) (thr : Nat) : Option MatQ :=
  match s.matq.filter fun m => m.thr == thr && !m.matrix with
  | [] => none
  | m :: t =>
    let m := t.foldl (fun a b => if b.order < a.order then b else a) m
    if s.matq.any fun y => y.thr == thr && y.matrix && y.order < m.order && !y.performed then none else some m

/-- Performs a step on behalf of a thread. -/
def State.asThread (s : State) (thr : Nat) : State := { s with cur := some thr }

/-- A speculative lane's ATTN waits while an earlier lane may write what it reads, and for room in its side buffer (07 R195,
R196). -/
def State.attnSpec (s : State) (m : MatQ) : Bool :=
  let s := s.asThread m.thr
  let ks (wr : Bool) (l : List SegA) : List Nat := l.flatMap fun a => match s.piece (s.viewOf m) m wr a with
    | .ok p => p.keys 64
    | _ => []
  !s.me.spec || (!s.earlierWrites (ks false m.a) && !s.me.bufFull (ks false m.a ++ ks true m.b))

/-- What it waits for has come. -/
def State.attnReady (s : State) (m : MatQ) : Bool :=
  s.attnSpec m && (match m.page with | some w => w.woken | none => true) &&
  (match m.rdr with | some (fn, va, area) => s.readersOf fn va area == 0 | none => true)

/-- The result of a window of a thread has come. -/
def State.arrive (s : State) (thr wid : Nat) (r : WRes) : State :=
  s.updT thr fun t => { t with windows := t.windows.map fun w => if w.wid == wid then { w with res := r } else w }

/-- Changes an entry of the engines' queues. -/
def State.setMat (s : State) (order : Nat) (f : MatQ → MatQ) : State :=
  { s with matq := s.matq.map fun m => if m.order == order then f m else m }

/-- ATTN_RETIRE: performs the thread's oldest ATTN and retires it. -/
def execAttnRetire (s : State) : Out1 :=
  match s.attnHead s.op.thr with
  | none => .fault .notEnabled
  | some m =>
    if !s.attnReady m then .fault .notEnabled
    else
      let back (s' : State) : State := { s' with cur := s.cur }
      let drop (s : State) : State := { s with matq := s.matq.filter fun y => y.order != m.order }
      match m.i with
      | .attn x =>
        match perfAttn x m (s.asThread m.thr) with
        | .done s c d n => .next (back ((drop s).arrive m.thr (m.wid.getD 0) (.regs [.g x.x.d (resWord c d n)])))
        | .trap s t => .next (back ((drop s).arrive m.thr (m.wid.getD 0) (.fault t)))
        | .page s w => .next (back (s.setMat m.order fun m => { m with page := some w }))
        | .readers fn va area => .next (s.setMat m.order fun m => { m with rdr := some (fn, va, area) })
      | _ => .fault .notEnabled

/-- The thread's ATTNs and its earlier GATHBs are over. -/
def State.attnsOver (s : State) (t : Thread) (wid : Option Nat) : Bool :=
  !(s.matq.any fun m => m.thr == t.uid && !m.matrix) &&
  !(t.windows.any fun w => (match wid with | some n => w.wid < n | none => true) && (match w.res with
    | .wait (.defer _ (.gathb _) _) => true
    | _ => false))

/-- Performs ATEDRAIN once the thread's ATTNs have retired. -/
def perfAtedrain (d : R5) (mask : BitVec 2) (done : Bool) (s : State) : Perf :=
  if !done then .later s .attns
  else
    let take (cs : Bool) (a : Nat × State) : Nat × State :=
      if mask.toNat.testBit (b2n cs) then
        match a.2.capSet cs with
        | some c => (a.1 + c.blocks.length, (a.2.releaseSet c).putCap cs none)
        | none => a
      else a
    let (n, s) := take true (take false (0, s))
    .now s (.regs [.g d (w64 n)])

/-- Performs ATBOUND. -/
def perfAtbound (d : R5) (done : Bool) (s : State) : Perf :=
  if !done then .later s .attns else .now s (.regs [.g d (((s.me.lastbeta).getD 0).setWidth 64)])

/-- ATEDRAIN. -/
def execAtedrain (look : BitVec 4) (d : R5) (mask : BitVec 2) (s : State) : Out1 := run s fun s =>
  (serialise s).bind fun _ s =>
  openPerf (.atedrain look d mask) look 12 false false (perfAtedrain d mask (s.attnsOver s.me none) s)

/-- ATBOUND. -/
def execAtbound (look : BitVec 4) (d : R5) (s : State) : Out1 := run s fun s =>
  (serialise s).bind fun _ s =>
  openPerf (.atbound look d) look 12 false false (perfAtbound d (s.attnsOver s.me none) s)

end Sys2Proof.Machine
end

