-- ==== Sys2Proof/Machine/Fetch.lean ====
section
/-!
DEFINITION. Instruction fetch through sg0 (02 R47; 10 R235 to R237), the decoding of what was fetched with its traps (10 R253,
R254), and the classes of R249.
-/
namespace Sys2Proof.Machine

/-- What a fetch gives. -/
inductive Fetched where
  | bytes (l : List Byte)
  | seg (reason : Nat)
  | page (w : PageWait) (s : State)
  | failed

/-- Fetches one word of the current thread's instruction. -/
def State.fetchWord (s : State) (pc : Word) : Fetched :=
  match segCheck (s.me.sg[0]) 0 pc.toNat 4 4 needEX with
  | .bad r => .seg r
  | .ok a =>
    if a.space != 0 then .seg 8
    else
      match s.trans a false true 0 with
      | .ok p => .bytes (s.readP p 4)
      | .page w s => .page w s
      | .failed => .failed
      | .lc => .seg 8

/-- Fetches words in address order. -/
def State.fetchWords (s : State) : Nat → Word → Fetched
  | 0, _ => .bytes []
  | n + 1, pc =>
    match s.fetchWord pc with
    | .bytes l =>
      match s.fetchWords n (pc + 4) with
      | .bytes m => .bytes (l ++ m)
      | x => x
    | x => x

/-- Fetches the instruction at an offset: its base word, and the others where the base word has no fault. -/
def State.fetch (s : State) (pc : Word) : Fetched :=
  match s.fetchWord pc with
  | .bytes l =>
    match decodeHead ((wordsOfBytes l).getD 0 0) with
    | .words n =>
      match s.fetchWords (n - 1) (pc + 4) with
      | .bytes m => .bytes (l ++ m)
      | x => x
    | _ => .bytes l
  | x => x

/-- The length in bytes of the instruction that bytes begin with. -/
def lenOfBytes (l : List Byte) : Nat :=
  match decodeHead ((wordsOfBytes l).getD 0 0) with
  | .words n => 4 * n
  | _ => 4

/-- The trap of an illegal instruction, or of a reserved field (10 R254). -/
def badTrap (l : List Byte) (code word : Nat) : Trap :=
  if code = 0 then ⟨1, ((wordsOfBytes l).getD 0 0).setWidth 64, none⟩ else ⟨2, w64 (code + 256 * word), none⟩

/-- Classes (10 R249). -/
inductive Class where
  | scalar
  | vector
  | control
  | solo
deriving DecidableEq, Repr

end Sys2Proof.Machine
end

