-- ==== Sys2Proof/Machine/System.lean ====
section
/-!
DEFINITION. NOP, YIELD, HALT, TRAP, BKPT, GETS, SETS, STEPGO, ERET and the illegal instruction (11 R266 to R276; 06 R184; 07 R205).
-/
namespace Sys2Proof.Machine

/-- NOP. -/
def execNop (s : State) : Out1 := run s (finish 4)

/-- YIELD. -/
def execYield (s : State) : Out1 := run s fun s => finish 4 (s.upd fun t => { t with skip := true })

/-- Every window is due. -/
def State.dueAll (s : State) : State := s.upd fun t => { t with windows := t.windows.map fun w => { w with rem := 0 } }

/-- Engine commands of the current thread that have not completed. -/
def State.enginesBusy (s : State) : Bool := s.cmds.any fun c => c.thr == s.me.agent && c.st != .finished

/-- The thread's commands fold and are over for it, in the order of their issue (08 R213). -/
def State.absorbAll (s : State) : State :=
  (s.cmds.filter fun c => c.thr == s.me.agent).foldl (fun s c => s.absorbCmd c.id) s

/-- What a thread holds is given back: its capture sets (06 R168), and its work item's entry (05 R145). -/
def State.giveBack (s : State) : State :=
  let s := s.me.caps.toList.foldl (fun s x => match x with | some c => s.releaseSet c | none => s) s
  match s.me.item with
  | some it => if it.committed then s else s.itemGone s.me.uid it
  | none => s

/-- The thread ends. -/
def State.haltNow (s : State) : R Unit := .ok () (s.giveBack.upd fun t => { t with runnels := [] }).endThread

/-- HALT (11 R267). -/
def execHalt (s : State) : Out1 := run s fun s =>
  (serialise s).bind fun _ s =>
  if s.me.looping then raiseR 8 4 s
  else
    let s := s.upd fun t => { t with halting := true }
    s.dueAll.boundary.bind fun _ s =>
    (verdictGate s).bind fun _ s =>
    if s.enginesBusy then parkR .engines s
    else
      match s.me.runnels.find? fun y => y.pushed != [] with
      | some y => parkR (.runnel y.v true) s
      | none => s.absorbAll.haltNow

/-- TRAP and BKPT. -/
def trapOp (code : Nat) (b : BOp) (s : State) : R Unit :=
  (serialise s).bind fun _ s => (needRegs (bRegs b) s).bind fun _ s => (readB b s).bind fun b s => raiseR code b s

/-- TRAP. -/
def execTrap (b : BOp) (s : State) : Out1 := run s (trapOp 9 b)
/-- BKPT. -/
def execBkpt (b : BOp) (s : State) : Out1 := run s (trapOp 10 b)

/-! ## System registers (11 R275) -/

/-- Numbers of the registers that task mode may name, and of those of firmware mode. -/
def sysTask (n : Nat) : Bool := n ≤ 0x0C || n == 0x10 || n == 0x11 || n == 0x12
def sysFirmware (n : Nat) : Bool := n == 0x80 || n == 0x81 || n == 0x82

/-- The number names a register that the thread may name (11 R269). -/
def sysR (n : BitVec 8) (s : State) : R Unit :=
  if sysTask n.toNat || (sysFirmware n.toNat && s.me.fwm) then .ok () s else illegalR (n.setWidth 64) s

/-- Registers 0x00 to 0x0C are held at the host core (02 R53). -/
def sysHome (n : BitVec 8) (s : State) : R Unit := if n.toNat ≤ 0x0C then homeGate s else .ok () s

/-- TSTAT (11 R276). -/
def State.tstat (s : State) : Word := w64 (b2n s.me.fwm * 4 + b2n (s.det s.me) * 2 + b2n s.me.inh)

/-- The value of a system register; write-only fields read zero. -/
def State.sysReg (s : State) (n : Nat) : Word :=
  let t := s.me
  match n with
  | 0x00 => t.tcause
  | 0x01 => t.tpc
  | 0x02 => t.tval
  | 0x03 => t.topc
  | 0x04 => s.tstat
  | 0x05 => t.tvec
  | 0x06 => t.tscr0
  | 0x07 => t.tscr1
  | 0x08 => w64 s.agentT.gtid
  | 0x09 => t.vlive.setWidth 64
  | 0x0A => (s.vcore t.vu).ringhd.setWidth 64
  | 0x0B => (s.vcore t.vu).ringtl.setWidth 64
  | 0x0C => t.mmxsrc.setWidth 64
  | 0x10 => if s.det t then 0 else Config.cycle s.tick
  | 0x11 => if s.det t then 0 else t.icount
  | 0x80 => (s.die (t.fw.getD 0)).split
  | 0x81 => (s.die (t.fw.getD 0)).leeptr
  | 0x82 => (s.die (t.fw.getD 0)).attcfg
  | _ => 0

/-- GETS. -/
def execGets (d : R5) (n : BitVec 8) (s : State) : Out1 := run s fun s =>
  (sysR n s).bind fun _ s =>
  (destOk d s).bind fun _ s =>
  (sysHome n s).bind fun _ s =>
  let x := s.sysReg n.toNat
  finish 4 ((if n.toNat = 0x10 then s.next else s).setG d x)

/-- Writes the RW fields of a system register. -/
def State.setSysReg (s : State) (n : Nat) (x : Word) : State :=
  match n with
  | 0x00 => s.upd fun t => { t with tcause := x &&& 0x80FF }
  | 0x01 => s.upd fun t => { t with tpc := x }
  | 0x02 => s.upd fun t => { t with tval := x }
  | 0x03 => s.upd fun t => { t with topc := x }
  | 0x05 => s.upd fun t => { t with tvec := x }
  | 0x06 => s.upd fun t => { t with tscr0 := x }
  | 0x07 => s.upd fun t => { t with tscr1 := x }
  | 0x09 => s.upd fun t => { t with vlive := x.setWidth 39 }
  | 0x80 => s.setDie (s.me.fw.getD 0) fun d => { d with split := x &&& 0xFF }
  | 0x81 => s.setDie (s.me.fw.getD 0) fun d => { d with leeptr := x }
  | 0x82 => s.setDie (s.me.fw.getD 0) fun d => { d with attcfg := x &&& 0xFFFFFF }
  | _ => s

/-- Hands a step descriptor to the builder of the thread's die (06 R184). -/
def handStep (x : Word) (s : State) : R Unit :=
  let die := s.me.die
  if x.toNat % 32 ≠ 0 then illegalR x s
  else
    (verdictGate s).bind fun _ s =>
    if 8 ≤ (s.die die).steps.length then parkR (.builder die) s
    else
      let (c, s) := s.release false
      let q : StepReq := { fn := s.fnOf s.me, task := s.me.task, addr := x.toNat % 2 ^ 52, clock := c, host := bit (s.die die).split 2 }
      finish 4 (s.setDie die fun d => { d with steps := d.steps ++ [q] })

/-- SETS. -/
def execSets (n : BitVec 8) (a : R5) (s : State) : Out1 := run s fun s =>
  (serialise s).bind fun _ s =>
  (sysR n s).bind fun _ s =>
  (needRegs [a] s).bind fun _ s =>
  (sysHome n s).bind fun _ s =>
  if n.toNat = 0x12 then handStep (s.me.gr a) s else finish 4 (s.setSysReg n.toNat (s.me.gr a))

/-- STEPGO: SETS of register 0x12. [DEDUCED, log 48] -/
def execStepgo (a : R5) (s : State) : Out1 := run s fun s =>
  (serialise s).bind fun _ s => (needRegs [a] s).bind fun _ s => handStep (s.me.gr a) s

/-! ## ERET and the illegal instruction -/

/-- The length of the instruction at an offset, for ERET's check; one that cannot be fetched counts as one word. -/
def State.lenAt (s : State) (pc : Word) : Nat := match s.fetch pc with | .bytes l => lenOfBytes l | _ => 4

/-- ERET (11 R270, 07 R205). [DEDUCED, log 73] -/
def execEret (s : State) : Out1 := run s fun s =>
  if !s.me.inh then illegalR 0 s
  else if s.me.looping && s.me.tpc != s.me.tpcd && s.me.tpc != s.me.tpcd + w64 (s.lenAt s.me.tpcd) then raiseR 8 4 s
  else .ok () s.eret

/-- A word that is no instruction (10 R253, R254). -/
def execIllegalInstruction (w : BitVec 32) (s : State) : Out1 := run s fun s => raiseR 1 (w.setWidth 64) s

end Sys2Proof.Machine
end

