-- ==== Sys2Proof/Machine/Wake.lean ====
section
/-!
DEFINITION. When a parked thread wakes (01 R39, R40) and the arrivals that it waits for: THREAD_WAKE, MIGRATION_ARRIVAL (02 R54),
STORE_VERDICT (03 R83) and FENCE_ECHO (03 R88).
-/
namespace Sys2Proof.Machine

/-- The results that a thread waits for at a close have arrived: those of the windows that close, or, where none does, of all. -/
def Thread.arrived (t : Thread) : Bool :=
  if t.windows.any (·.rem == 0) then !(t.windows.any fun w => w.rem == 0 && w.waiting) else !(t.windows.any Window.waiting)

/-- A runnel lets its thread go on: everything pushed is stored, or an element is there or will never come, or there is room. -/
def State.runnelFree (s : State) (t : Thread) (r : Nat) (all : Bool) : Bool :=
  match t.runnel r with
  | none => true
  | some y =>
    if all then y.pushed == []
    else if y.write then y.pushed.length < 8
    else y.ahead != [] || (y.wait.map (·.failed)).getD false ||
      (match s.elemAt t y y.taken with | .bad _ => true | .ok _ => false)

/-- The next element of a read runnel is at hand, or it is known that it waits for a page or will never come (14 R353). -/
def State.elementHere (s : State) (t : Thread) (r : Nat) : Bool :=
  match t.runnel r with
  | none => true
  | some y => y.ahead != [] || y.wait.isSome || (match s.elemAt t y y.taken with | .bad _ => true | .ok _ => false)

/-- A flume stage is open, or with none the flume may be released. -/
def State.flumeFree (s : State) (t : Thread) (f : Nat) (st : Option Nat) : Bool :=
  match st, (s.vcore t.vu).flumes.find? fun x => x.f == f with
  | none, _ => !s.flumeBusy t.vu f
  | some _, none => true
  | some n, some x => x.opened (s.slotOf t) n

/-- The cause of a park no longer holds. Migrations and forecast lanes are woken by steps of their own. -/
def State.parkOver (s : State) (t : Thread) : Park → Bool
  | .windows => t.arrived
  | .status c => ((s.cmd? c).map fun k => k.st == .finished).getD true
  | .stf p _ _ => !s.full p.loc && ({ s with cur := some t.uid }).firstAt (p.loc / 8) t.ticket false
  | .message => ((s.thread? t.agent).map fun x => x.msg.isNone).getD true
  | .page w => w.woken && s.heldFirst t w
  | .fence need => need == 0
  | .verdicts => t.verdicts.all (·.returned)
  | .accesses => !t.windows.any Window.unmade
  | .element r => s.elementHere t r
  | .bar l i gen => gen < ((s.task t.task).barOf l i).gen
  | .flume f st => s.flumeFree t f st
  | .runnel r all => s.runnelFree t r all
  | .drain p n => !s.drainWaits t.vu p n
  | .matrix => !(s.matq.any fun m => m.thr == t.uid && m.matrix)
  | .syncWindow all => !(t.windows.any fun w => (w.acq || (all && w.sync)) && w.waiting)
  | .queue cl => s.queued cl < 64
  | .engines => !(s.cmds.any fun c => c.thr == t.agent && c.st != .finished)
  | .gather => !t.gathering
  | .builder d => (s.die d).steps.length < 8
  | .moving _ _ => false
  | .lane => false
  | .posted d => !s.posting d

/-- The thread can be woken. -/
def State.wakes (s : State) (t : Thread) : Bool := match t.park with | some p => s.parkOver t p | none => false

/-- A wake of a thread that waited longer on the same barrier comes first (01 R40). -/
def Park.same : Park → Park → Bool
  | .bar a b _, .bar c d _ => a == c && b == d
  | _, _ => false

/-- A thread with an earlier ticket is to be woken before. -/
def State.wakeFirst (s : State) (t : Thread) : Bool :=
  match t.park with
  | none => false
  | some p => s.threads.all fun x => match x.park with
    | some q => !(p.same q && x.task == t.task && x.ticket < t.ticket && s.parkOver x q)
    | none => true

/-- THREAD_WAKE: the thread is ready; STF, BAR, DRAIN and the read of a status register are performed now, every other instruction
is issued again. -/
def execThreadWake (s : State) : Out1 :=
  match s.thread? s.op.thr with
  | none => .fault .notEnabled
  | some t =>
    if !(s.wakes t && s.wakeFirst t) then .fault .notEnabled
    else
      let s0 := { s.updT t.uid fun t => { t with park := none } with cur := some t.uid }
      let s1 := match t.park with
        | some (.stf p x n) => (s0.stfPut p x).retire n
        | some (.bar l i _) => ((s0.joinClk ((s0.task t.task).barOf l i).last).synced).retire 4
        | some (.status c) => s0.statusRead c
        | some (.drain p n) => s0.drainDone p n
        | some (.page w) => if w.failed then s0.upd fun t => { t with failed := (w.die, w.page) :: t.failed } else s0
        | _ => s0
      .next { s1 with cur := s.cur }

/-- MIGRATION_ARRIVAL: the context, with every result that was pending, is in its new slot (02 R50, R53, R54). Where the slot
has gone meanwhile, the thread stays and its access is issued again. -/
def execMigrationArrival (s : State) : Out1 :=
  match s.thread? s.op.thr with
  | none => .fault .notEnabled
  | some t =>
    match t.park with
    | some (.moving core home) =>
      if t.windows.any Window.waiting then .fault .notEnabled
      else if home then .next (s.updT t.uid fun t => { t.ship core t.home with park := none })
      else
        match s.freeSlots core with
        | i :: _ => .next (s.updT t.uid fun t => { t.ship core i with park := none })
        | [] => .next (s.updT t.uid fun t => { t with park := none })
    | _ => .fault .notEnabled

/-- STORE_VERDICT: the verdict on the thread's oldest store whose verdict is outstanding returns. -/
def execStoreVerdict (s : State) : Out1 :=
  match s.thread? s.op.thr with
  | none => .fault .notEnabled
  | some t =>
    match t.verdicts.findIdx? fun v => !v.returned with
    | none => .fault .notEnabled
    | some i => .next (s.updT t.uid fun t => { t with
        verdicts := (t.verdicts.zip (List.range t.verdicts.length)).map fun v =>
          if v.2 = i then { v.1 with returned := true } else v.1 })

/-- A slice leaves a mask. -/
def clearSlice (m : BitVec 128) (x : Nat) : BitVec 128 := m &&& ~~~(1#128 <<< x)

/-- The slices whose echoes a thread waits for. -/
def Thread.echoes (t : Thread) : BitVec 128 :=
  let p := match t.park with | some (.fence need) => need | _ => 0
  t.windows.foldl (fun m w => match w.res with
    | .wait (.defer (.fence need) _ _) => m ||| need
    | _ => m) p

/-- FENCE_ECHO: a slice answers a probe; its bit leaves the touched mask (03 R87, R88). -/
def execFenceEcho (s : State) : Out1 :=
  match s.thread? s.op.thr with
  | none => .fault .notEnabled
  | some t =>
    let x := s.op.wid
    if !t.echoes.toNat.testBit x then .fault .notEnabled
    else .next (s.updT t.uid fun t =>
      { t with
        touched := clearSlice t.touched x, fenced := t.fenced.filter fun y => y.1 != x,
        park := match t.park with
          | some (.fence need) => some (.fence (clearSlice need x))
          | p => p,
        windows := t.windows.map fun w => match w.res with
          | .wait (.defer (.fence need) i sh) => { w with res := .wait (.defer (.fence (clearSlice need x)) i sh) }
          | _ => w })

end Sys2Proof.Machine
end

