-- ==== Sys2Proof/Machine/Engine.lean ====
section
/-!
DEFINITION. The matrix engine's own steps: MATRIX_DISPATCH, MATRIX_RETIRE and MMA_REPLAY (14 R341 to R344, R349, R353).
-/
namespace Sys2Proof.Machine

/-- The weight tile that an MMA reads or a WLD writes. -/
def MatQ.tileOf (m : MatQ) : Option Nat := match m.i with
  | .mma x => some x.tile.toNat
  | .wld x => some x.tile.toNat
  | _ => none

/-- The entry is an MMA of a tile of the vcore. -/
def MatQ.reads (m : MatQ) (vu tile : Nat) : Bool :=
  match m.i with | .mma x => m.vu == vu && x.tile.toNat == tile | _ => false

/-- The units that an entry loads and stores in AB. -/
def MatQ.loads (m : MatQ) : List (Nat × SegA) :=
  match m.i with
  | .mma _ => sized 1 m.a
  | .msacc _ => sized 4 m.a
  | .mlda _ => sized 8 m.a
  | .mstq x => if x.derive then [] else sized 4 m.b
  | .mstqKv _ => sized 256 m.b
  | _ => []
def MatQ.stores (m : MatQ) : List (Nat × SegA) :=
  match m.i with
  | .mst _ => sized 8 m.a
  | .mstq x => (if x.derive then sized 4 m.b else []) ++ sized 1 m.a
  | _ => []

/-- A speculative lane's entry waits, as its loads and stores do at issue: for an earlier lane's buffered store, and for its own
side buffer (07 R195, R196). -/
def State.matSpec (s : State) (m : MatQ) : Bool :=
  let s := s.asThread m.thr
  let ks (l : List (Nat × SegA)) : List Nat := l.flatMap fun x => (m.place x.2).keys x.1
  !s.me.spec || (!m.full && !s.earlierWrites (ks m.loads) && !s.me.bufFull (ks m.loads ++ ks m.stores))

/-- Nothing that the entry waits for outside the queue is outstanding: its page, its element, a reader count, a fill of its
tile, its lane's turn. [DEDUCED, log 28] -/
def State.matFree (s : State) (m : MatQ) : Bool :=
  !m.replay && (match m.page with | some w => w.woken | none => true) &&
  (match m.rdr with | some (fn, va, area) => s.readersOf fn va area == 0 | none => true) &&
  (match m.i with | .mma x => !(s.fills.any fun f => f.vu == m.vu && f.tile == x.tile.toNat) | _ => true) && s.matSpec m

/-- The entry may start: no older entry of the core that has at least its priority could. Ageing only raises the older
ones (14 R343). -/
def State.matReady (s : State) (m : MatQ) : Bool :=
  m.matrix && !m.performed && s.matFree m &&
  s.matq.all fun y => !(y.core == m.core && y.matrix && !y.performed && y.order < m.order && m.prio ≤ y.prio &&
    (s.matFree y || (match m.i with | .wld x => y.reads m.vu x.tile.toNat | _ => false)))

/-- Performs a matrix instruction. -/
def matPerform (m : MatQ) (s : State) : MOut :=
  let two (r : State × Option Trap) : MOut := .done r.1 r.2
  match m.i with
  | .mma x => two (perfMma x m s)
  | .msacc x => two (perfMsacc x m s)
  | .mzero t => two (perfMzero t m s)
  | .mst x => two (perfMst x m s)
  | .mlda x => two (perfMlda x m s)
  | .mstq x => two (perfMstq x m s)
  | .mstqKv x => perfMstqKv x m s
  | .wld x => .done { s with fills := s.fills ++ [⟨m.vu, x.tile.toNat, m.order, m⟩] } none
  | _ => .done s none

/-- The thread's matrix instruction. -/
def State.matOf (s : State) (thr : Nat) : Option MatQ := s.matq.find? fun m => m.thr == thr && m.matrix

/-- MATRIX_DISPATCH: the engine performs the thread's matrix instruction, whole. -/
def execMatrixDispatch (s : State) : Out1 :=
  match s.matOf s.op.thr with
  | none => .fault .notEnabled
  | some m =>
    if !s.matReady m then .fault .notEnabled
    else
      let back (s' : State) : State := { s' with cur := s.cur }
      match matPerform m (s.asThread m.thr) with
      | .done s' t => .next (back (s'.setMat m.order fun m => { m with performed := true, trap := t, page := none, rdr := none }))
      | .page s' w => .next (back (s'.setMat m.order fun m => { m with page := some w }))
      | .readers fn va area => .next (s.setMat m.order fun m => { m with rdr := some (fn, va, area) })
      | .full => .next (s.setMat m.order fun m => { m with full := true })

/-- MATRIX_RETIRE: the instruction has landed; its window's result has come (14 R342). -/
def execMatrixRetire (s : State) : Out1 :=
  match s.matOf s.op.thr with
  | none => .fault .notEnabled
  | some m =>
    if !m.performed then .fault .notEnabled
    else
      let s := { s with matq := s.matq.filter fun y => y.order != m.order }
      .next (match m.wid with
        | some w => s.arrive m.thr w (match m.trap with | some t => .fault t | none => .regs m.res)
        | none => s)

/-- An element whose page has come may be fetched again. -/
def MatQ.mayReplay (m : MatQ) : Bool := m.replay && (match m.page with | some w => w.woken | none => true)

/-- MMA_REPLAY: the engine takes the element at the checkpoint, of the stream as it was bound then, and the MMA starts again from
row 0 (14 R353). [DEDUCED, log 30] -/
def execMmaReplay (s : State) : Out1 :=
  match s.matOf s.op.thr, s.thread? s.op.thr with
  | some m, some t =>
    if !m.mayReplay then .fault .notEnabled
    else
      match m.check with
      | none => .fault .notEnabled
      | some (y, n) =>
        let got (s : State) (x : VReg) (b : Option Trap) : Out1 :=
          .next (s.setMat m.order fun m => { m with elem := some x, trap := b, replay := false, page := none })
        if (m.page.map (·.failed)).getD false then got s 0 (some failTrap)
        else
          match s.elemAt t y n with
          | .bad c => got s 0 (some ⟨4, segTval c y.segNo, none⟩)
          | .ok a =>
            match s.elemPlaces t y a with
            | .inr ps =>
              let s0 := s.asThread t.uid
              let x := s.elemValue ps
              let poison := (s.elemPoison ps).map fun w => (⟨6, w, none⟩ : Trap)
              if !y.fresh then got { s0.elemSeen ps s.tick with cur := s.cur } x poison
              else
                match s0.elemClash ps false with
                | some c => got s x (some c)
                | none => got { s0.elemRecord ps with cur := s.cur } x poison
            | .inl (e, c) =>
              let (s, w) := s.fault t.die 4 (s.fnOf t) (e / 2 ^ 16) c t.gtid
              .next (s.setMat m.order fun m => { m with page := some w })
  | _, _ => .fault .notEnabled

/-- An MMA that a link retry or a pre-emption rewinds: it has not been performed, and takes its element again (14 R353). -/
def MatQ.rewound (m : MatQ) : MatQ :=
  if m.check.isSome && !m.performed && !m.replay then { m with replay := true, elem := none, trap := none, page := none } else m

end Sys2Proof.Machine
end

