-- ==== Sys2Proof/Machine/Confluence.lean ====
section
/-!
DEFINITION. The confluence engine: CSTEP and CCHAIN, their steps, and what arrives from peers (12 R307 to R309; 19 R393 to R395).
-/
namespace Sys2Proof.Machine

/-! ## Step records (12 R307) -/

/-- Fields of a step record. -/
def stOp (r : List Word) : Nat := bits (r.getD 0 0) 62 60
def stIfmt (r : List Word) : Nat := bits (r.getD 0 0) 59 58
def stRfmt (r : List Word) : Nat := bits (r.getD 0 0) 57 56
def stRop (r : List Word) : Nat := bits (r.getD 0 0) 55 54
def stPeer (r : List Word) : Nat := bits (r.getD 0 0) 53 38
def stTag (r : List Word) : Nat := bits (r.getD 4 0) 63 32
def stCount (r : List Word) : Nat := bits (r.getD 4 0) 31 0

/-- Bytes of an element of a format. -/
def stSize (fmt : Nat) : Nat := if fmt = 0 then 4 else 2

/-- The step sends LOC, lands an operand, forms RES. -/
def stSends (r : List Word) : Bool := stOp r != 3
def stLands (r : List Word) : Bool := stOp r != 2
def stForms (r : List Word) : Bool := stOp r < 2

/-- The modules of a task's peer group (01 R23). -/
def Task.peerCount (k : Task) : Nat := ((k.levels.find? fun l => l.domain == 5).map (·.count)).getD 1

/-- Two ranges overlap. -/
def overlaps (a n b m : Nat) : Bool := a < b + m && b < a + n

/-- The doubleword that makes a step record invalid. -/
def stBad (k : Task) (r : List Word) : Option Nat :=
  let d := fun i => r.getD i 0
  let off := fun i => bits (d i) 51 0
  let n := stCount r * stSize (stIfmt r)
  let m := stCount r * stSize (stRfmt r)
  if bits (d 0) 37 0 != 0 || 3 < stOp r || 1 < stIfmt r || 1 < stRfmt r || stRop r == 3 || stPeer r == k.peerix ||
     k.peerCount ≤ stPeer r then some 0
  else
    match [1, 2, 3].find? fun i => bits (d i) 63 52 != 0 with
    | some i => some i
    | none =>
      if stCount r = 0 then some 4
      else if d 5 != 0 then some 5
      else if d 6 != 0 then some 6
      else if bits (d 7) 62 52 != 0 then some 7
      else if stForms r && overlaps (off 2) n (off 1) n then some 2
      else if stForms r && (overlaps (off 3) m (off 1) n || overlaps (off 3) m (off 2) n) then some 3
      else none

/-- The checked elements of a buffer: read only, or written too. -/
def State.stBuf (s : State) (c : Cmd) (slot : Option Nat) (b size n : Nat) (wr : Bool) : Ck (List SegA) :=
  ckAll (fun i => s.engAddr c slot c.seg ((b + size * i : Nat) : Int) size size (needRD + needWR + needEN) wr) (List.range n)

/-- The buffers that a step uses: LOC, which it only reads, LAND and RES; at the issue for a thread's slot. -/
def State.stBufsAt (s : State) (c : Cmd) (slot : Option Nat) (r : List Word) : Ck (List SegA × List SegA × List SegA) :=
  let n := stCount r
  let i := stSize (stIfmt r)
  let get (u : Bool) (k size : Nat) (wr : Bool) : Ck (List SegA) :=
    if u then s.stBuf c slot (bits (r.getD k 0) 51 0) size n wr else .good []
  (get (stSends r) 1 i false).bind fun a => (get (stLands r) 2 i true).bind fun b =>
  (get (stForms r) 3 (stSize (stRfmt r)) true).bind fun c => .good (a, b, c)

/-- The buffers of a step that runs. -/
def State.stBufs (s : State) (c : Cmd) (r : List Word) : Ck (List SegA × List SegA × List SegA) := s.stBufsAt c none r

/-! ## Issue -/

/-- CSTEP: reads its record at issue (12 R309). -/
def execCstep (x : XCmd) (s : State) : Out1 := run s fun s =>
  let len := bLenX x.b
  (recIssue x len 64 64 s).bind fun ap s =>
    match s.recIn ap.2 8 with
    | .bad t s => openFault x.look len t s
    | .words r s =>
      let c := { s.draft .cstep with seg := x.seg.toNat, flumes := [] }
      (if namesAb c [x.seg.toNat] then homeGate s else .ok () s).bind fun _ s =>
      let slot := some (s.slotOf s.me)
      let c := { s.draft .cstep with seg := x.seg.toNat, record := r, flumes := [] }
      let enter (c : Cmd) (s : State) : R Unit := s |> orHold (.cstep x) len r fun s => enterCmd x len c s
      match stBad (s.task s.me.task) r with
      | some d => enter { c with code := ccRecord, detail := d } s
      | none =>
        match s.stBufsAt { c with flumes := allFlumes } slot r with
        | .bad 1 5 => segvR 5 x.seg.toNat s
        | .bad code d => enter { c with code := code, detail := d } s
        | .closed f st => closedR f st s
        | .good (a, b, e) =>
          enter { c with flumes := s.flumesOf s.me.vu (a ++ b ++ e),
                         paths := if stLands r then [segPath (s.me.seg x.seg)] else [] } s

/-- CCHAIN: one is active per vcore (12 R309). -/
def execCchain (x : XCmd) (s : State) : Out1 := run s fun s =>
  (headIssue x s).bind fun off s =>
  s |> orHold (.cchain x) (bLenX x.b) [] fun s =>
    let vu := s.me.vu
    enterChain x off .cchain (s.walking fun c => c.kind == .cchain && c.vu == vu) s

/-! ## Steps (12 R308) -/

/-- Elements of `size` bytes from bytes. -/
def elemsOf (size : Nat) : Nat → List Byte → List Nat
  | 0, _ => []
  | n + 1, l => natOfBytes (l.take size) :: elemsOf size n (l.drop size)

/-- An operand widened to FP32. -/
def stWide (ifmt x : Nat) : Nat := if ifmt = 0 then x else ofBf x

/-- The result of an element: `l` of the lower-indexed module. -/
def stRes (r : List Word) (l x : Nat) : Nat :=
  let v := if stOp r = 1 then x
    else match stRop r with
      | 0 => add32 l x
      | 1 => rne32 ((val32 l).maxF (val32 x))
      | _ => rne32 ((val32 l).minF (val32 x))
  if stRfmt r = 0 then v else toBf .rne v

/-- What a peer's step brought is for a step of a task. -/
def stFor (x : PeerStep) (c : Cmd) (r : List Word) : Bool :=
  x.peer == stPeer r && x.tag == stTag r && x.task == c.task && c.stepNo == some x.no

/-- What arrived for an active step, on either die: the operand of the peer's step that matches it (19 R393). [DEDUCED, log 27] -/
def State.arrived (s : State) (c : Cmd) (r : List Word) : Option (Nat × PeerStep) :=
  ([0, 1].flatMap fun d => (s.die d).ingress.map (d, ·)).find? fun x => stFor x.2 c r

/-- Takes what arrived for a step off the ingress of a die. -/
def State.dropArrived (s : State) (die : Nat) (c : Cmd) (r : List Word) : State :=
  s.setDie die fun d => { d with ingress := d.ingress.filter fun x => !stFor x c r }

/-- The partner's operation that a step's operation matches. -/
def stPartner : Nat → Nat
  | 2 => 3
  | 3 => 2
  | n => n

/-- The record of an active step: its own, or the one at its chain's head. -/
def State.stRecord (s : State) (c : Cmd) : List Word := if c.record != [] then c.record else
  match s.headOf c 3 with | .at _ r => r | _ => []

/-- Ends a step with a code: a single step's command, or its chain. -/
def State.stEnd (s : State) (c : Cmd) (code detail : Nat) : State := s.endCmd c.id code detail

/-- A step of a command has completed. -/
def State.stDone (s : State) (c : Cmd) (r : List Word) : State :=
  match c.kind with
  | .cchain =>
    match s.headOf c 3 with
    | .at p _ => s.nextRec c p r c.stepW
    | _ => s.endCmd c.id ccSegment 1
  | _ => (s.setCmd c.id fun c => { c with recs := 1, writes := c.stepW }).endCmd c.id 0 0

/-- The step goes on once it has landed what it lands and its operand has been acknowledged. -/
def Cmd.stReady (c : Cmd) (r : List Word) : Bool := (!stLands r || c.landed) && (!stSends r || c.acked)

/-- How many steps under a peer and tag have become active in a task. -/
def Task.stepNo (k : Task) (peer tag : Nat) : Nat :=
  ((k.stepNos.find? fun x => x.1 == peer && x.2.1 == tag).map (·.2.2)).getD 0

/-- Counts a step that becomes active. -/
def Task.countStep (k : Task) (peer tag : Nat) : Task :=
  { k with stepNos := (peer, tag, k.stepNo peer tag + 1) :: k.stepNos.filter fun x => !(x.1 == peer && x.2.1 == tag) }

/-- The number of a step that becomes active; a step that is replayed keeps its own (12 R308). -/
def State.stNumber (s : State) (c : Cmd) (r : List Word) : Nat :=
  c.stepNo.getD ((s.task c.task).stepNo (stPeer r) (stTag r))

/-- The operand as it leaves for the partner. -/
def stOperand (no : Nat) (r : List Word) (data : List Byte) : Out :=
  .operand (stPeer r) (stTag r) no (stOp r) (stCount r) (stIfmt r) data

/-- A step becomes active: its checks, its pages, and its operand sent. -/
def State.stBegin (s : State) (c : Cmd) (r : List Word) : State :=
  match stBad (s.task c.task) r with
  | some d => s.stEnd c ccRecord d
  | none =>
    if !Config.reachable s.tick (stPeer r) then s.next.stEnd c ccPeer 0
    else
      match s.stBufs c r with
      | .bad a d => s.stEnd c a d
      | .closed _ _ => s.stEnd c ccSegment 6
      | .good (a, b, e) =>
        match s.engPlaces c 3 (a.map (·, false) ++ (b ++ e).map (·, true)) with
        | .page s w => s.setCmd c.id fun c => { c with st := .page w }
        | .lc => s.stEnd c ccSegment 8
        | .ok pl =>
          let i := stSize (stIfmt r)
          let data := (pl.take a.length).flatMap fun p => s.readP p i
          let no := s.stNumber c r
          let s := if stSends r then { s with out := stOperand no r data :: s.out } else s
          let s := if c.stepNo.isSome then s else s.setTask c.task fun k => k.countStep (stPeer r) (stTag r)
          (s.setCmd c.id fun c => { c with st := .active, live := true, actv := s.order, stepNo := some no }).stamp

/-- The places of a step's LOC, LAND and RES, or how it goes on without them. -/
def State.stPlaces (s : State) (c : Cmd) (r : List Word) (k : List Place → List Place → List Place → State) : State :=
  match s.stBufs c r with
  | .bad a d => s.stEnd c a d
  | .closed _ _ => s.stEnd c ccSegment 6
  | .good (a, b, e) =>
    match s.engPlaces c 3 (a.map (·, false) ++ (b ++ e).map (·, true)) with
    | .page s w => s.setCmd c.id fun c => { c with st := .page w }
    | .lc => s.stEnd c ccSegment 8
    | .ok pl => k (pl.take a.length) ((pl.drop a.length).take b.length) (pl.drop (a.length + b.length))

/-- Writes words for a step, each whole. -/
def State.stWrite (s : State) (c : Cmd) (ws : List EW) : State :=
  let ws := ws.foldr putEW []
  let (s, w) := s.putEWs c.clock ws
  (s.spoilCmd c ws).setCmd c.id fun c => { c with st := .active, stepW := c.stepW ++ w }

/-- Lands the operand of a partner, acknowledges it, and takes it off the ingress; a page that is missing leaves it there
(12 R308: none of it is lost). -/
def State.stLand (s : State) (c : Cmd) (r : List Word) (die : Nat) (x : PeerStep) : State :=
  s.stPlaces c r fun _ lands _ =>
    let i := stSize (stIfmt r)
    let s := s.stWrite c ((lands.zip (elemsOf i (stCount r) x.data)).map fun y => elemEW y.1 0 (8 * i) y.2 false)
    let s := { s with out := .ack (stPeer r) (stTag r) x.no :: s.out }
    (s.setCmd c.id fun c => { c with landed := true }).dropArrived die c r

/-- The words of RES, formed from LOC and LAND (12 R308). -/
def State.stResW (s : State) (c : Cmd) (r : List Word) (locs lands ress : List Place) : List EW :=
  let i := stSize (stIfmt r)
  let lower := (s.task c.task).peerix < stPeer r
  ((locs.zip lands).zip ress).map fun y =>
    let l := stWide (stIfmt r) (s.numP y.1.1 i)
    let x := stWide (stIfmt r) (s.numP y.1.2 i)
    let v := if lower || stOp r == 1 then stRes r l x else stRes r x l
    elemEW y.2 0 (8 * stSize (stRfmt r)) v (s.badAt y.1.2 i || (stOp r == 0 && s.badAt y.1.1 i))

/-- A step that has landed and been acknowledged forms its RES, where it has one, and completes. -/
def State.stFinish (s : State) (c : Cmd) (r : List Word) : State :=
  if !stForms r then s.stDone c r
  else s.stPlaces c r fun locs lands ress =>
    let s := s.stWrite c (s.stResW c r locs lands ress)
    match s.cmd? c.id with
    | some c => s.stDone c r
    | none => s

/-- The next thing that a step can do, if any. -/
def State.confReady (s : State) (c : Cmd) : Bool :=
  (match c.kind with | .cstep => true | .cchain => true | _ => false) &&
  (match c.st with
   | .queued => true
   | .page w => w.woken
   | .active =>
     if !c.live then true
     else
       let r := s.stRecord c
       c.stReady r || (!c.landed && (s.arrived c r).isSome)
   | _ => false)

/-- A live step goes on: it completes, or takes what has come for it, which must match it. -/
def State.stGoOn (s : State) (c : Cmd) (r : List Word) : Out1 :=
  if c.stReady r then .next (s.stFinish c r)
  else
    match s.arrived c r with
    | none => .fault .notEnabled
    | some (d, x) =>
      if x.op ≠ stPartner (stOp r) || x.count ≠ stCount r || x.ifmt ≠ stIfmt r then .next ((s.dropArrived d c r).stEnd c ccPeer 1)
      else if !stLands r then .next ((s.dropArrived d c r).setCmd c.id fun c => { c with landed := true })
      else .next (s.stLand c r d x)

/-- CONFLUENCE_STEP: a step begins, or lands what has come, or completes. -/
def execConfluenceStep (s : State) : Out1 :=
  match s.cmd? s.op.cmd with
  | none => .fault .notEnabled
  | some c =>
    if !s.confReady c then .fault .notEnabled
    else if c.pageFailed then .next (s.stEnd c ccSegment 3)
    else if c.live then s.stGoOn c (s.stRecord c)
    else
      match c.kind with
      | .cstep => .next (if c.code ≠ 0 then s.stEnd c c.code c.detail else s.stBegin c c.record)
      | _ =>
        match s.headOf c 3 with
        | .bad d => .next (s.stEnd c ccSegment d)
        | .page s w => .next (s.setCmd c.id fun c => { c with st := .page w })
        | .at p r =>
          if !bit (r.getD 0 0) 63 then .next (s.setCmd c.id fun c => { c with st := .sleeping })
          else
            let c := { s.ownClk c p with record := r }
            let s := s.setCmd c.id fun x => { x with clock := c.clock, record := r }
            .next (s.stBegin c r)

/-! ## The links (12 R308; 19 R393 to R395) -/

/-- A step of this module that is active under an operand's tag waits for it: the operand is not early. -/
def State.stWaits (s : State) (x : PeerStep) : Bool :=
  s.cmds.any fun c => c.live && !c.landed && stFor x c (s.stRecord c)

/-- The ingress of a die has room for what a peer sends: up to 64 KiB of early data for each source module (19 R395). -/
def State.ingressRoom (s : State) (die : Nat) (x : PeerStep) : Bool :=
  s.stWaits x ||
    (((s.die die).ingress.filter fun y => y.peer == x.peer && !s.stWaits y).foldl (fun n y => n + y.data.length) x.data.length
      ≤ 65536)

/-- STEP_DATA_ARRIVAL: what a peer's step sends is held at the ingress, in per-source order; beyond its room link flow control keeps
it at the sender. -/
def execStepDataArrival (s : State) : Out1 :=
  if !s.ingressRoom s.op.die s.op.peer then .fault .notEnabled
  else .next (s.setDie s.op.die fun d => { d with ingress := d.ingress ++ [s.op.peer] })

/-- The active step that an acknowledgement answers. -/
def State.awaiting (s : State) (x : PeerStep) : Option Cmd :=
  s.cmds.find? fun c => c.live && !c.acked && stSends (s.stRecord c) && stFor x c (s.stRecord c)

/-- STEP_ACKNOWLEDGE: the partner has taken the operand, or its step does not match (12 R308). -/
def execStepAcknowledge (s : State) : Out1 :=
  match s.awaiting s.op.peer with
  | none => .next s
  | some c =>
    if s.op.flag then .next (s.setCmd c.id fun c => { c with acked := true })
    else .next (s.stEnd c ccPeer 1)

/-- A step is sent again after a link retry; the same bits land once (12 R308). -/
def State.resend (s : State) (c : Cmd) : State :=
  if c.live && !c.acked then
    let r := s.stRecord c
    match s.stBufs c r with
    | .good (a, _, _) =>
      match s.engPlaces c 3 (a.map (·, false)) with
      | .ok pl =>
        let data := pl.flatMap fun p => s.readP p (stSize (stIfmt r))
        if stSends r then { s with out := stOperand (s.stNumber c r) r data :: s.out } else s
      | _ => s
    | _ => s
  else s

/-- The runnel data of a thread is fetched again: elements ahead are discarded, and an MMA that has not been performed rewinds
(02 R74, 14 R353). -/
def State.refetch (s : State) (thr : Nat) : State :=
  { s.updT thr fun t => { t with runnels := t.runnels.map fun y => { y with ahead := [] } } with
    matq := s.matq.map fun m => if m.thr == thr then m.rewound else m }

/-- LINK_RETRY: a confluence step is sent again, or the transfer unit fetches the runnel data of a thread again. -/
def execLinkRetry (s : State) : Out1 :=
  if s.op.flag then .next (s.refetch s.op.thr)
  else
    match s.cmd? s.op.cmd with
    | none => .next s
    | some c => .next (s.resend c)

end Sys2Proof.Machine
end

