-- ==== Sys2Proof/Machine/Forecast.lean ====
section
/-!
DEFINITION. Forecast loops: FCST, FACC and FEND, the rounds, the guesses, and the acceptance of lanes (07; 15 R387).
-/
namespace Sys2Proof.Machine

/-! ## The descriptor (07 R187, R188) -/

/-- The carry registers in use. -/
def fcCarries (d : Word) : List R5 :=
  ([bits d 16 12, bits d 21 17, bits d 26 22, bits d 31 27].map (BitVec.ofNat 5)).take (bits d 11 9)

/-- The checks of R188. -/
def fcOk (d0 d1 : Word) : Bool :=
  let n := bits d0 11 9
  let cs := fcCarries d0
  let all := [bits d0 16 12, bits d0 21 17, bits d0 26 22, bits d0 31 27]
  n ≤ 4 && cs.all (· != 0) && cs.eraseDups.length == cs.length && (all.drop n).all (· == 0) && !bit d0 0 &&
  (bit d0 1 || d1 == 0) && !(bit d0 1 && bits d0 5 2 == 0)

/-! ## What a lane starts from (07 R189, R204) -/

/-- The system registers of a thread that an iteration starts with. -/
def Thread.sysKey (t : Thread) : SysRegs :=
  ⟨t.tcause, t.tpc, t.tpcd, t.tval, t.topc, t.tvec, t.tscr0, t.tscr1, t.vlive, t.mmxsrc, t.mpri⟩

/-- The thread with the system registers of an iteration's start. -/
def Thread.withSys (t : Thread) (x : SysRegs) : Thread :=
  { t with tcause := x.tcause, tpc := x.tpc, tpcd := x.tpcd, tval := x.tval, topc := x.topc, tvec := x.tvec, tscr0 := x.tscr0,
           tscr1 := x.tscr1, vlive := x.vlive, mmxsrc := x.mmxsrc, mpri := x.mpri }

/-- The general registers with the carries in place. -/
def withCarries (g : Vector Word 32) : List R5 → List Word → Vector Word 32
  | r :: rs, x :: xs => withCarries (g.set r.toNat x (r.isLt)) rs xs
  | _, _ => g

/-- The values of the carry registers. -/
def Thread.carriesOf (t : Thread) (rs : List R5) : List Word := rs.map t.gr

/-- A lane stands at the start of an iteration: a value that a body left in any register but a carry is lost (07 R189). [DEDUCED, log 50] -/
def Thread.startBody (t : Thread) (l : Loop) (carries : List Word) : Thread :=
  { t.withSys l.start.sys with
           sg := l.start.sg, g := withCarries l.start.g l.carries carries, v := l.start.v, p := l.start.p, windows := [], pend := [],
           shadow := none, again := false, pc := l.bodyPc, park := none }

/-- A lane other than lane 0 as its round starts: it has lane 0's segment and system registers and nothing of its own. -/
def Thread.newLane (t0 : Thread) (uid slot core pslot home : Nat) (l : Lane) : Thread :=
  ({ t0 with uid := uid, slot := slot, core := core, pslot := pslot, home := home, lane := some l, loop := none, item := none,
             msg := none, dig := 0, folded := 0, folds := [], clock := [], skip := false, again := false,
             failed := [] } : Thread).resetLane

/-- The thread is the lane of a loop with an index. -/
def Thread.laneOf (t : Thread) (loop idx : Nat) : Bool :=
  match t.lane with | some l => l.loopOf == loop && l.index == idx | none => false

/-- The thread of a lane. -/
def State.laneAt (s : State) (loop idx : Nat) : Option Thread := s.threads.find? fun t => t.laneOf loop idx

/-- The guess routine of a lane starts, with the incoming carries of the lane below (07 R191). -/
def State.startGuess (s : State) (loop idx : Nat) (carries : List Word) : State :=
  match (s.thread? loop).bind (·.loop), s.laneAt loop idx with
  | some l, some x =>
    if (match x.lane with | some y => y.phase != LanePhase.idle | none => true) then s
    else s.updT x.uid fun t => if t.laneOf loop idx then
      { (t.startBody l carries) with pc := l.guessPc, lane := t.lane.map fun (y : Lane) => { y with phase := .guess } } else t
  | _, _ => s

/-- The first lanes of a round start: with no carries every lane starts its body at once (07 R191). -/
def State.startLanes (s : State) (loop : Nat) (l : Loop) : State :=
  if l.carries = [] then
    l.lanes.foldl (fun s u => s.updT u fun t => if t.lane.isSome then
      { (t.startBody l []) with lane := t.lane.map fun (y : Lane) => { y with phase := .body, guess := some [] } } else t) s
  else s.startGuess loop 1 (l.carries.map fun r => l.start.g[r.toNat]'(r.isLt))

/-- An append of a loop's round has its place for good. -/
def SlotRec.sealed (x : SlotRec) (loop : Nat) : SlotRec :=
  if x.ix.any (fun y => y.1 == loop) then { x with ix := none } else x

/-- The appends of a loop's round have their places for good. -/
def State.sealRound (s : State) (loop : Nat) : State :=
  { s with ctxs := s.ctxs.map fun (c : Ctx) => { c with slots := c.slots.map fun x => x.sealed loop } }

/-! ## Acceptance (07 R193, R195, R199, R200) -/

/-- What a lane did, as it is released: an access, an MSTQ with the KV epilogue, the place in the digest of a matrix
instruction or ATTN that is still at its engine. -/
inductive RelEv where
  | access (b : BufW)
  | app (p : Prov)
  | hole (h order : Nat)
deriving DecidableEq, Repr

/-- The place of a release in program order. -/
def RelEv.seq : RelEv → Nat
  | .access b => b.seq
  | .app p => p.seq
  | .hole h _ => h

/-- Puts a release behind those of earlier instructions and of its own. -/
def insertRel (x : RelEv) : List RelEv → List RelEv
  | [] => [x]
  | y :: t => if x.seq < y.seq then x :: y :: t else y :: insertRel x t

/-- A matrix instruction or ATTN that writes memory. -/
def MatQ.writes (m : MatQ) : Bool :=
  match m.i with
  | .mst _ | .mstq _ | .mstqKv _ | .attn _ => true
  | _ => false

/-- The releases of a lane in program order. -/
def State.releases (s : State) (u : Nat) (l : Lane) : List RelEv :=
  let evs := l.provs.map RelEv.app ++
    (s.matq.filter fun m => m.thr == u && !m.performed && m.writes).map fun m => RelEv.hole m.seq m.order
  (l.buf.map RelEv.access ++ evs).foldl (fun a x => insertRel x a) []

/-- A verdict on a released access; an instruction has one. -/
def State.relVerdict (s : State) (b : BufW) (x : Option Trap) : State :=
  match x with
  | none => s
  | some t => s.upd fun me =>
      if me.verdicts.any fun v => v.late.seq == b.seq + 1 then me
      else { me with verdicts := me.verdicts ++ [⟨⟨b.seq + 1, b.pc, t⟩, false⟩] }

/-- Releases one access of the current lane (07 R195). -/
def State.relAccess (s : State) (b : BufW) : State :=
  if b.write then
    if b.recd then
      let (s, x) := s.storeWord b.p b.mask b.x
      s.relVerdict b x
    else
      let (c, s) := s.release false
      let s := s.engWord b.p b.mask b.x false c
      if b.p.space = 1 then s.foldMe [digBlock 0 1 b.mask.toNat b.p.digAddr (maskedWord b.mask b.x)] else s
  else if b.recd then
    match s.clashP b.p 1 false false with
    | some x => s.relVerdict b (some x)
    | none => s.recordP b.p 1 false false
  else s

/-- Releases an MSTQ (07 R199): its envelope entries widen, its digest folds, and its slots' appends take effect. -/
def State.relApp (s : State) (p : Prov) : State :=
  let (c, s) := s.release false
  let (s, es) := p.env.foldl (fun (a : State × List CmdW) e =>
    let new := widen e.2.1 (a.1.numP e.1 4) e.2.2.toNat
    let (s, w) := a.1.putEWs c [elemEW e.1 0 32 new false]
    (s, a.2 ++ w)) (s, [])
  let s := s.foldMe ((mergeWords (p.words ++ es)).map fun w => digBlock 0 w.space w.mask.toNat w.addr (maskedWord w.mask w.x))
  let s := p.fin.foldl (fun s x => s.setCtx p.ctx fun c => c.appended p.layer x.1) s
  match p.next with
  | some (q, x) => s.engWord q 0xFF x false c
  | none => s

/-- Releases everything of the current lane, in program order. -/
def State.relAll (s : State) (l : List RelEv) : State :=
  l.foldl (fun s e =>
    match e with
    | .access b => s.relAccess b
    | .app p => s.relApp p
    | .hole _ o =>
      let (c, s) := s.release false
      let h := s.order
      let s := s.updT s.me.agent fun t => { t with folds := t.folds ++ [.hole h] }
      ({ s with matq := s.matq.map fun m => if m.thr == s.me.uid && m.order == o then { m with clk := c, hole := h } else m } :
          State).stamp) s

/-- Lanes that wait look again: a side buffer has been released, or a store is no longer in one. -/
def State.wakeLanes (s : State) (loop : Nat) : State :=
  { s with threads := s.threads.map fun t =>
      match t.lane with
      | some l => if l.loopOf == loop && t.park == some .lane && (l.phase == .guess || l.phase == .body)
          then { t with park := none } else t
      | none => t }

/-- The capture sets of a lane that is accepted: its own, and those that the lane below leaves open. -/
def capsOver (own below : Vector (Option CapSet) 2) : Vector (Option CapSet) 2 :=
  Vector.ofFn fun i => (own[i]).or below[i]

/-- A lane is accepted: `prev` is the accepted lane below it, whose touched slices and counts it takes on, and its bindings, open
capture sets, late faults and handler (07 R193). [DEDUCED, log 50] -/
def State.acceptLane (s : State) (u : Nat) (prev : Thread) : State :=
  match (s.thread? u).bind (·.lane) with
  | none => s
  | some l =>
    let evs := s.releases u l
    let cur := s.cur
    let s : State := { s with cur := some u }
    let s := s.upd fun t =>
      { t with
        runnels := prev.runnels, caps := capsOver t.caps prev.caps, late := prev.late ++ t.late, inh := prev.inh,
        displace := prev.displace, icount := t.icount + prev.icount, lastbeta := t.lastbeta.or prev.lastbeta,
        sgw := t.sgw ||| prev.sgw, touched := t.touched ||| prev.touched,
        fenced := prev.fenced ++ t.fenced.filter (fun x => !prev.touched.toNat.testBit x.1),
        lane := some { l with accepted := true, buf := [], provs := [] } }
    let s := s.relAll evs
    let s := l.provs.foldl (fun s p => s.setCtx p.ctx fun c => p.slots.foldl Ctx.confirm c) s
    ({ s with cur := cur } : State).wakeLanes l.loopOf

/-- A lane is accepted where the carries that it latched are those that the lane below leaves, bit for bit (07 R193). -/
def laneFits (x : Thread) (out : List Word) : Bool :=
  match x.lane with
  | some y => y.phase == .body && y.guess == some out
  | none => false

/-! ## Rounds (07 R194) -/

/-- What goes from the lane that ran last to lane 0, beside the registers. -/
def Thread.inherit (t src : Thread) : Thread :=
  { t with
    tcause := src.tcause, tpc := src.tpc, tpcd := src.tpcd, tval := src.tval, topc := src.topc, tvec := src.tvec,
    tscr0 := src.tscr0, tscr1 := src.tscr1, inh := src.inh, vlive := src.vlive, mmxsrc := src.mmxsrc, icount := src.icount,
    mpri := src.mpri, displace := src.displace, sg := src.sg, sgw := src.sgw, touched := src.touched,
    fenced := src.fenced, caps := src.caps, lastbeta := src.lastbeta, runnels := src.runnels, late := src.late,
    verdicts := src.verdicts }

/-- A thread that a thermal displacement moves: at once, or after the handler's ERET (11 R272). -/
def State.displaceTo (s : State) (u core : Nat) : State :=
  s.updT u fun t => if t.inh then { t with displace := some core } else { t with park := some (.moving core false), ticket := s.order }

/-- A round starts: lane 0 runs the next iteration with true carries, and the lanes wait for their guesses. -/
def State.startRound (s : State) (out : List Word) (iter : Nat) (app : Option (Nat × Nat × Nat × Nat)) : State :=
  let src := s.me
  let u := src.agent
  match (s.thread? u).bind (·.loop) with
  | none => s
  | some l =>
    let lanes := if l.displaced.isSome then [] else l.lanes
    let l' : Loop := { l with iter := iter, lanes := lanes, done := false, apps := 0, app := app,
                              displaced := none,
                              start := { l.start with g := withCarries l.start.g l.carries out } }
    let s := s.sealRound u
    let s := s.setVcore src.vu fun v => (List.range (l.lanes.length + 1)).foldl Vcore.clearBand v
    let s := s.updT u fun t => { ((t.inherit src).startBody l' out) with loop := some l' }
    let t0 := (s.thread? u).getD src
    let s : State := { s with threads := (s.threads.filter fun t => !(t.lane.isSome && l.lanes.contains t.uid && !lanes.contains t.uid)).map fun (t : Thread) =>
        match t.lane with
        | some y => if y.loopOf == u then
            t0.newLane t.uid t.slot t.core t.pslot t.home { loopOf := u, index := y.index, iter := iter + y.index, phase := .idle }
          else t
        | none => t }
    match l.displaced with
    | some c => s.displaceTo u c
    | none => s.startLanes u l'

/-- The loop ends (07 R194): the lane that ran last hands its registers to lane 0, which goes on at the loop exit. -/
def State.endLoop (s : State) : State :=
  let u := s.me.agent
  let s := s.rejectAbove u 0
  let src := s.me
  match (s.thread? u).bind (·.loop) with
  | none => s
  | some l =>
    let s := (s.sealRound u).setVcore src.vu Vcore.clearTiles
    let s := s.updT u fun t =>
      { (t.inherit src) with
        g := src.g, p := src.p, v := Vector.ofFn fun i => if src.vlive.toNat.testBit i.val then src.v[i] else 0,
        pend := src.pend, windows := [], shadow := none, again := false, pc := src.pc, loop := none, park := none }
    let s := match l.displaced with
      | some c => s.displaceTo u c
      | none => s
    { s with threads := s.threads.filter fun t => !(t.lane.isSome && l.lanes.contains t.uid) }

/-! ## The instructions -/

/-- NEXT and TIDX of the append region's descriptor, where the loop has one (07 R197). -/
def appR (len : Nat) (app : Option (Nat × Nat)) (s : State) : R (Option (Nat × Nat × Nat × Nat)) :=
  match app with
  | none => .ok none s
  | some (h, a) =>
    (transR len ⟨0, 0, a + 24, 8⟩ false true 0 s).bind fun p s =>
    match s.recBoth p 1 with
    | (_, some t, s) => .stop (lateShort len t s)
    | (ws, none, s) => .ok (some (h, a, bits (ws.getD 0 0) 55 36, bits (ws.getD 0 0) 35 20)) s

/-- FCST. -/
def execFcst (x : XCmd) (s : State) : Out1 := run s fun s =>
  let len := bLenX x.b
  (serialise s).bind fun _ s =>
  (needRegs (x.a :: bRegs x.b) s).bind fun _ s =>
  if s.me.looping then raiseR 8 2 s
  else
    (accessGate s).bind fun _ s =>
    (readB x.b s).bind fun b s =>
    (segR x.seg ((s.me.gr x.a).toInt + b.toInt) 16 16 needRD false s).bind fun a s =>
    (stageR a 16 s).bind fun a s =>
    (transR len a false true 0 s).bind fun p s =>
    let (ws, bad, s) := s.recBoth p 2
    let d0 := ws.getD 0 0
    let d1 := ws.getD 1 0
    if !fcOk d0 d1 then illegalR 0 s
    else
      match bad with
      | some t => .stop (lateShort len t s)
      | none =>
        (homeGate s).bind fun _ s =>
        s.dueAll.boundary.bind fun _ s =>
        (needRegs (s.me.pend.map (·.1)) s).bind fun _ s =>
        (appR len (if bit d0 1 then some (bits d1 63 52, bits d1 51 0) else none) s).bind fun app s =>
        let k := s.task s.me.task
        let vu := s.me.vu
        let w := if k.rerun || k.serial then 0
          else Nat.min (bits d0 8 6) (Nat.min (s.freeLogical vu).length (s.freePhysical vu).length)
        let places := ((s.freeLogical vu).take w).zip ((s.freePhysical vu).take w)
        let u := s.me.uid
        let base := s.nextUid
        let s := s.retire len
        let me := s.me
        let l : Loop :=
          { carries := fcCarries d0, guessPc := w64 (bits d0 63 32), bodyPc := me.pc, appn := bits d0 5 2, app := app,
            iter := 0, lanes := (List.range w).map (base + ·),
            start := { g := me.g, p := me.p, sys := me.sysKey, sg := me.sg,
                       v := Vector.ofFn fun i => if me.vlive.toNat.testBit i.val then me.v[i] else 0 } }
        let s := s.setVcore vu Vcore.clearTiles
        let s := s.upd fun t => { (t.startBody l (me.carriesOf l.carries)) with loop := some l }
        let t0 := s.me
        let s : State := { s with
          nextUid := base + w,
          threads := s.threads ++ ((List.range w).zip places).map fun (i, slot, pslot) =>
            t0.newLane (base + i) slot t0.core pslot pslot { loopOf := u, index := i + 1, iter := i + 1, phase := .idle } }
        .ok () (s.startLanes u l)

/-- FACC. -/
def execFacc (_look : BitVec 4) (a : R5) (s : State) : Out1 := run s fun s =>
  (needRegs [a] s).bind fun _ s =>
  if !s.me.looping then raiseR 8 1 s
  else if s.me.spec then .stop s.hold
  else
    match s.agentT.loop with
    | none => raiseR 8 1 s
    | some l =>
      s.dueAll.boundary.bind fun _ s =>
      (needRegs (a :: l.carries) s).bind fun _ s =>
      (verdictGate s).bind fun _ s =>
      let u := s.me.agent
      let idx := s.me.laneIndex
      if s.me.gr a != 0 then .ok () (s.retire 12).endLoop
      else
        let out := s.me.carriesOf l.carries
        let short := l.app.isSome && s.appsMade < l.appn
        let next := if short then none else (s.laneAt u (idx + 1)).filter fun x => laneFits x out
        match next with
        | some x =>
          let s := (s.retire 12).upd fun t =>
            { t with lane := t.lane.map fun y => { y with phase := .done }, loop := t.loop.map fun y => { y with done := true } }
          .ok () ((s.acceptLane x.uid s.me).parkMe .lane)
        | none =>
          (appR 12 (l.app.map fun x => (x.1, x.2.1)) s).bind fun app s =>
          .ok () (((s.rejectAbove u idx).retire 12).startRound out (l.iter + idx + 1) app)

/-- FEND. -/
def execFend (_look : BitVec 4) (s : State) : Out1 := run s fun s =>
  if !s.me.guessing then raiseR 8 1 s
  else
    match s.agentT.loop with
    | none => raiseR 8 1 s
    | some l =>
      s.dueAll.boundary.bind fun _ s =>
      let g := s.me.carriesOf l.carries
      let u := s.me.agent
      let idx := s.me.laneIndex
      let s := ((s.retire 12).setVcore s.me.vu fun v => v.clearBand idx).upd fun t =>
        { (t.startBody l g) with lane := t.lane.map fun (y : Lane) => { y with phase := .body, guess := some g } }
      .ok () (s.startGuess u (idx + 1) g)

end Sys2Proof.Machine
end

