-- ==== Sys2Proof/Machine/Contexts.lean ====
section
/-!
DEFINITION. Editing of contexts: EDINS, EDDEL, EDSUB, REPACK, SETTLE, CTXRD, SILT, CTXREG and the release (15
R373 to R383; 05 R126 to R157), with EDIT_ARBITRATION and CONTEXT_RELEASE_COMPLETE.
-/
namespace Sys2Proof.Machine

/-! ## Edits (15 R373 to R376) -/

/-- The result word of an edit. -/
def editWord (code num slot : Nat) : Word :=
  if code = 0 then w64 (num * 2 ^ 32 + slot * 2 ^ 12) else w64 code

/-- Sends an edit to the arbiter of its context. -/
def sendEdit (look : BitVec 4) (len : Nat) (d : R5) (h : Nat) (e : EditOp) (s : State) : R Unit :=
  (syncGate s).bind fun _ s =>
  (fenceGate 5 s).bind fun _ s =>
  match s.ctxFor (s.fnOf s.me) h with
  | none => openRegs look len [.g d (editWord 3 0 0)] s
  | some _ =>
    let (clk, s) := s.synced.release false
    let pc := s.me.pc
    let s := (s.retire len).upd fun t => t.openWin look.toNat pc (.wait .edit) true true
    .ok () (s.setCtx h fun c => { c with edits := c.edits ++ [⟨s.me.uid, s.me.seq, d, e, clk⟩] })

/-- An edit with a slot word: `bad` says that the word breaks its layout. -/
def editOp (x : EditA) (bad : Word → Bool) (mk : Word → BitVec 32 → EditOp) (s : State) : R Unit :=
  (serialise s).bind fun _ s =>
  (needRegs (x.a :: x.t :: bRegs x.b) s).bind fun _ s =>
  (readB x.b s).bind fun b s =>
  if 4096 ≤ (s.me.gr x.a).toNat || bad b then illegalR b s
  else sendEdit x.look (bLenX x.b) x.d (s.me.gr x.a).toNat (mk b ((s.me.gr x.t).setWidth 32)) s

/-- EDINS. -/
def execEdins (x : EditA) (s : State) : Out1 := run s <|
  editOp x (fun b => bits b 63 38 != 0 || (bit b 20 && bits b 19 0 != 0)) fun b t =>
    .ins (bit b 20) (bits b 19 0) (if bit b 37 then some (bits b 36 21) else none) t
/-- EDDEL. -/
def execEddel (x : EditA) (s : State) : Out1 := run s <|
  editOp x (fun b => bits b 63 20 != 0) fun b _ => .del (bits b 19 0)
/-- EDSUB. -/
def execEdsub (x : EditA) (s : State) : Out1 := run s <|
  editOp x (fun b => bits b 63 20 != 0) fun b t => .sub (bits b 19 0) t

/-- REPACK. -/
def execRepack (look : BitVec 4) (d a : R5) (s : State) : Out1 := run s fun s =>
  (serialise s).bind fun _ s =>
  (needRegs [a] s).bind fun _ s => sendEdit look 12 d (s.me.gr a).toNat .repack s

/-- The arbiter holds the edits of a deterministic context until the edit before has settled (05 R156). -/
def Ctx.editReady (c : Ctx) : Bool := c.edits != [] && (!c.det || c.releasing.isSome || !c.outFor c.a)

/-- EDIT_ARBITRATION: the context's arbiter takes its first edit. -/
def execEditArbitration (s : State) : Out1 :=
  match s.ctx? s.op.ctx with
  | none => .fault .notEnabled
  | some c =>
    match c.edits with
    | [] => .fault .notEnabled
    | r :: rest =>
      if !c.editReady then .fault .notEnabled
      else
        let (code, n, slot, c') := c.edit r.e
        let s := s.setCtx c.h fun _ =>
          { c' with edits := rest, editClk := if code = 0 then c'.editClk.join r.clock else c'.editClk }
        .next (s.arrive r.thr r.wid (.regs [.g r.d (editWord code n slot)]))

/-! ## SETTLE and SILT (15 R377, R380) -/

/-- Joins the clocks of the commits that a filter takes (03 R81). -/
def State.joinCommits (s : State) (c : Ctx) (p : Nat × Nat × Nat → Bool) : State :=
  (c.commits.filter fun x => p (x.1, x.2.1, x.2.2.1)).foldl (fun s x => s.joinClk x.2.2.2) s

/-- Edit n is numbered, and no entry is outstanding for it (05 R153). -/
def Ctx.settled (c : Ctx) (n : Nat) : Bool := n ≤ c.a && !c.outFor n

/-- Performs SETTLE. -/
def perfSettle (d : R5) (h n : Nat) (s : State) : Perf :=
  let res (s : State) (code : Nat) : Perf := .now s (.regs [.g d (resWord code 0 n)])
  match s.ctxFor (s.fnOf s.me) h with
  | none => res s 3
  | some c =>
    if n = 0 then res s.synced 0
    else if c.releasing.isSome then res s 5
    else if c.settled n then res (s.joinCommits c fun x => n ≤ x.1).synced 0
    else .later s (.settle h n)

/-- SETTLE. -/
def execSettle (x : LongAlu) (s : State) : Out1 := run s fun s =>
  (serialise s).bind fun _ s =>
  (needRegs (x.a :: bRegs x.b) s).bind fun _ s =>
  (readB x.b s).bind fun b s =>
  if bits b 63 32 != 0 then illegalR b s
  else
    (syncGate s).bind fun _ s =>
    (verdictGate s).bind fun _ s =>
    openPerf (.settle x) x.look (bLenX x.b) true true (perfSettle x.d (s.me.gr x.a).toNat b.toNat s)

/-- The two doublewords of an entry (05 R139). -/
def Silt.dw0 (e : Silt) : Word := w64 (e.first * 2 ^ 32 + e.stamp)
def Silt.dw1 (e : Silt) : Word := w64 (e.pfirst * 2 ^ 32 + b2n e.force * 16 + e.remark * 4 + e.state)

/-- SILT. -/
def execSilt (x : LongAlu) (s : State) : Out1 := run s fun s =>
  (serialise s).bind fun _ s =>
  (needRegs (x.a :: bRegs x.b) s).bind fun _ s =>
  (readB x.b s).bind fun b s =>
  let two (p q : Word) : R Unit := openRegs x.look (bLenX x.b) [.g x.d p, .g (x.d + 1) q] s
  if bits b 63 28 != 0 then illegalR b s
  else
    match s.ctxFor (s.fnOf s.me) (s.me.gr x.a).toNat with
    | none => two (BitVec.allOnes 64) (BitVec.allOnes 64)
    | some c =>
      if c.nlm1 < bits b 27 20 || c.nsb ≤ bits b 19 0 then illegalR b s
      else let e := c.entry (bits b 27 20) (bits b 19 0); two e.dw0 e.dw1

/-! ## Hidden outputs (15 R382) -/

/-- HW, and the bytes of a row. -/
def Ctx.rowBytes (c : Ctx) : Nat := 64 * c.hw64 * 4

/-- The checkpoint layers below ℓ. -/
def Ctx.ckpts (c : Ctx) (l : Nat) : List Nat := (List.range l).filter c.checkpoint

/-- Where the hidden version v of (ℓ, b) lies. -/
def Ctx.hidden (c : Ctx) (l b v : Nat) : Nat :=
  c.hpool + (((c.ckpts l).length * c.nsb + b) * 2 + v) * 2 ^ c.siltlg * c.rowBytes

/-! ## CTXRD (15 R378, R379) -/

/-- Fields of the read block. -/
def rbCtx (d : List Word) : Nat := bits (d.getD 0 0) 63 52
def rbDest (d : List Word) : Nat := bits (d.getD 0 0) 51 0
def rbTidx (d : List Word) : Nat := bits (d.getD 2 0) 63 48
def rbHead (d : List Word) : Nat := bits (d.getD 2 0) 47 40
def rbWhat (d : List Word) : Nat := bits (d.getD 2 0) 39 38
def rbBlk (d : List Word) : Nat := bits (d.getD 2 0) 19 0
def rbN (d : List Word) : Nat := bits (d.getD 3 0) 63 32

/-- The table descriptor that stands behind the read block, and its layer. -/
def rbTd (d : List Word) : List Word := d.drop 4
def rbLayer (d : List Word) : Nat := bits (d.getD 5 0) 59 52

/-- The doubleword of an invalid field. -/
def rbBad (c : Ctx) (d : List Word) : Option Nat :=
  if rbWhat d == 3 || (rbWhat d != 2 && c.kvhm1 < rbHead d) || (rbWhat d == 2 && !c.checkpoint (rbLayer d)) then some 2
  else if bits (d.getD 1 0) 63 52 != 0 then some 1
  else if bits (d.getD 2 0) 37 20 != 0 then some 2
  else if bits (d.getD 3 0) 31 0 != 0 then some 3
  else none

/-- The bytes of the copy. -/
def rbSize (c : Ctx) (d : List Word) (r : KRec) : Nat :=
  if rbWhat d = 2 then 2 ^ c.siltlg * c.rowBytes
  else 2 ^ c.siltlg * (kvCodes r.d r.fmt / 16 + 4 * kvStrips r.d)

/-- The bytes of a version (15 R379). -/
def State.versionBytes (s : State) (v : View) (c : Ctx) (d : List Word) (r : KRec) (area : Nat) : Vx (List Byte) :=
  let n := 2 ^ c.siltlg
  let b := rbBlk d
  if rbWhat d = 2 then s.vaBytes v (c.hidden (rbLayer d) b area) (n * c.rowBytes)
  else
    let part (size : Nat) (at_ : Nat → Nat) : Vx (List Byte) :=
      (vxAll (fun i =>
        let slot := b * n + i
        if r.stored area slot then s.vaBytes v (at_ slot) size else .ok (List.replicate size 0)) (List.range n)).bind
        fun l => .ok l.flatten
    (part (kvCodes r.d r.fmt / 16) fun slot => (r.code area (rbHead d) (rbWhat d) slot 0).1).bind fun x =>
    (part (4 * kvStrips r.d) fun slot => r.scale area (rbHead d) (rbWhat d) slot 0).bind fun y => .ok (x ++ y)

/-- The two register writes of CTXRD; where both name one register, which stands last is open, and in a deterministic task the
same each time (08 R207). [DESIGN CHOICE, log 41] -/
def ctxrdRegs (x : CtxrdA) (w first : Word) (s : State) : List RegW :=
  if x.x.d = x.e && Config.either (if s.det s.me then 0 else s.tick) then [.g x.e first, .g x.x.d w] else [.g x.x.d w, .g x.e first]

/-- What CTXRD finds before it copies: a code with its detail, or context, record and size of the copy. -/
def State.ctxrdFind (s : State) (d : List Word) : Vx (Nat × Nat ⊕ (Ctx × KRec × Nat)) :=
  match s.ctxFor (s.fnOf s.me) (rbCtx d) with
  | none => .ok (.inl (3, 0))
  | some c =>
    if c.releasing.isSome then .ok (.inl (5, 0))
    else
      (s.tableEntry s.view c (rbTd d) (rbTidx d) (rbLayer d) (some (c.blkOf (rbBlk d)))).bind fun r =>
      match r with
      | .inl code => .ok (.inl (code, rbTidx d % 256))
      | .inr (_, r) =>
        match rbBad c d with
        | some k => .ok (.inl (21, k))
        | none => .ok (.inr (c, r, rbSize c d r))

/-- Pieces of 64 bytes of a range in a segment, checked. -/
def destR (seg : BitVec 3) (dest size : Nat) (s : State) : R (List SegA) :=
  (units64 (dest : Int) size).foldl (fun (r : R (List SegA)) u =>
    r.bind fun l s => (segR seg u.1 u.2 64 needWR true s).bind fun a s => (stageR a u.2 s).bind fun a s => .ok (l ++ [a]) s)
    (.ok [] s)

/-- The same once the instruction waits no more for the page of its table or record: the pieces, or the reason of the violation.
A flume region is taken at the stage of then. [DEDUCED, log 92] -/
def State.destLate (s : State) (seg : BitVec 3) (dest size : Nat) : Nat ⊕ List SegA :=
  (units64 (dest : Int) size).foldl (fun (r : Nat ⊕ List SegA) u => match r with
    | .inl c => .inl c
    | .inr l => match s.unit seg u.1 u.2 64 needWR true with
      | .bad c => .inl c
      | .ok a =>
        let b := if a.space = 1 then (match (s.vcore s.me.vu).stageAt s.agentT.spt a.addr u.2 with
          | some (_, _, off) => { a with addr := off }
          | none => a) else a
        .inr (l ++ [b])) (.inr [])

/-- A place that the device writes for the current thread. -/
def State.ownPlace (s : State) (v : View) (a : SegA) : Vx Place :=
  match a.space with
  | 1 => .ok { space := 1, addr := a.addr, loc := abBase s.me.vu + a.addr, slice := none }
  | 2 => .ok { space := 2, addr := a.addr, loc := cistBase a.slice + a.addr, slice := some a.slice }
  | _ => s.vaAt v a.addr true

/-- Stores the copy at its pieces, as engine writes. -/
def State.copyOut (s : State) (clk : Clock) (ps : List Place) (bs : List Byte) : State × List CmdW :=
  ((List.range ps.length).zip ps).foldl (fun (a : State × List CmdW) y =>
    let (s, w) := a.1.engStore y.2 (((bs.drop (64 * y.1)).take 64).map some) false clk
    (s, a.2 ++ w)) (s, [])

/-- The digest place of a CTXRD, behind the read block and the table descriptor. -/
def rbHole (d : List Word) : Nat := (d.getD 6 0).toNat

/-- Performs CTXRD with the read block, the table descriptor and the digest place of its issue, and the places of its copy. -/
def perfCtxrd (x : CtxrdA) (at_ : Bool) (d : List Word) (dest : List SegA) (clk : Clock) (s : State) : Perf :=
  let v := s.view
  let u := s.me.agent
  let res (s : State) (w : Word) (first : Nat) (ws : List CmdW) : Perf :=
    .now (s.fillHole u (rbHole d) (threadBlocks ws)) (.regs (ctxrdRegs x w (w64 first) s))
  let bad (s : State) (t : Trap) : Perf := .now (s.fillHole u (rbHole d) []) (.fault t)
  let read (s : State) : State := s.freshNow v [tdEntry (rbTd d) (rbTidx d)]
  match s.ctxrdFind d with
  | .page s w => .later s (.page w)
  | .bad t => bad s t
  | .ok (.inl (code, k)) => res (if code = 3 || code = 5 || code = 16 then s else read s) (resWord code k 0) 0 []
  | .ok (.inr (c, r, size)) =>
    let s := read s
    let l := rbLayer d
    let b := rbBlk d
    let e := c.entry l b
    let eff := c.effStamp l b
    let cur := r.cur c.siltlg b
    let word (code : Nat) : Word := w64 (eff * 2 ^ 32 + e.state * 256 + code)
    let pick : Option (Nat × Nat) :=
      if !at_ || e.first ≤ rbN d then some (cur, e.first)
      else if e.pfirst != 0 && e.pfirst ≤ rbN d then some (1 - cur, e.pfirst) else none
    if at_ && eff < rbN d then .later s (.version c.h l b (rbN d))
    else
      match pick with
      | none => res s (word 11) 0 []
      | some (area, first) =>
        match (s.versionBytes v c d r area).bind fun bs =>
          (match if dest = [] then s.destLate x.x.seg (rbDest d) size else .inr dest with
           | .inl why => Vx.bad ⟨4, segTval why x.x.seg.toNat, none⟩
           | .inr dest => vxAll (s.ownPlace v) dest).bind fun ps => .ok (bs, ps) with
        | .page s w => .later s (.page w)
        | .bad t => bad s t
        | .ok (bs, ps) =>
          let s := if at_ then (s.joinCommits c fun x => rbN d ≤ x.1 && x.2.1 == l && x.2.2 == b).synced else s
          let (s, ws) := s.copyOut clk ps bs
          res s (word 0) first ws

/-- The issue of CTXRD: its two blocks are read, and the places of its copy are checked where it will make one. -/
def ctxrdOp (i : Instr) (x : CtxrdA) (at_ : Bool) (s : State) : R Unit :=
  let len := bLenX x.x.b
  (serialise s).bind fun _ s =>
  (needRegs (x.x.a :: bRegs x.x.b) s).bind fun _ s =>
  (accessGate s).bind fun _ s =>
  (if at_ then syncGate s else .ok () s).bind fun _ s =>
  (readB x.x.b s).bind fun b s =>
  let block (e : Int) (n align : Nat) (s : State) : R (List Word × Option Trap) :=
    (segR x.x.seg e (8 * n) align needRD false s).bind fun a s =>
    (stageR a (8 * n) s).bind fun a s =>
    (transR len a false true 0 s).bind fun p s => let (l, bad, s) := s.recBoth p n; .ok (l, bad) s
  (block ((s.me.gr x.x.a).toInt + b.toInt) 4 32 s).bind fun (rb, bad) s =>
  (block (bits (rb.getD 1 0) 51 0 : Nat) 2 16 s).bind fun (td, bad') s =>
  (if at_ then verdictGate s else .ok () s).bind fun _ s =>
  (match s.ctxrdFind (rb ++ td) with
   | .ok (.inr (_, _, n)) => destR x.x.seg (rbDest rb) n s
   | _ => .ok [] s).bind fun dest s =>
  if tdBad td then raiseR 2 5 s
  else (match bad.or bad' with | some t => R.stop (lateLong x.x.look len t s) | none => .ok () s).bind fun _ s =>
  let (clk, s) := s.release false
  let hole := s.order
  let s := (s.updT s.me.agent fun t => { t with folds := t.folds ++ [Fold.hole hole] }).stamp
  let d := rb ++ td ++ [w64 hole]
  let s := s.upd fun t => { t with shadow := some { t.snap with desc := d, dest := dest, clk := some clk } }
  match perfCtxrd x at_ d dest clk s with
  | .now s r => openPerf i x.x.look len at_ at_ (.now s r)
  | .later s w =>
    let sh := s.me.snap
    let pc := s.me.pc
    .ok () ((s.retire len).upd fun t => t.openWin x.x.look.toNat pc (.wait (.defer w i sh)) at_ at_)

/-- CTXRD.now. -/
def execCtxrdNow (x : CtxrdA) (s : State) : Out1 := run s (ctxrdOp (.ctxrdNow x) x false)
/-- CTXRD.at. -/
def execCtxrdAt (x : CtxrdA) (s : State) : Out1 := run s (ctxrdOp (.ctxrdAt x) x true)

/-! ## CTXREG (15 R381 to R383; 05 R126, R127, R157) -/

/-- The bytes that R129 requires of a context store. -/
def storeNeed (nb siltlg nl : Nat) : Nat :=
  (64 * 1024 + 32 * nb + 256 * nb + 16 * nl * (16 * nb / 2 ^ siltlg) + 65535) / 65536 * 65536

/-- A reserved or misaligned field of the registration block (15 R382). -/
def regBad (r : List Word) : Bool :=
  let w (i : Nat) : Word := r.getD i 0
  bits (w 0) 63 52 != 0 || bits (w 1) 63 52 != 0 || bits (w 2) 63 48 != 0 || w 3 != 0 || (w 0).toNat % 16 != 0 ||
  (w 1).toNat % 512 != 0 || bits (w 2) 47 32 == 0 || 256 < bits (w 2) 47 32

/-- A model header that R127 refuses. -/
def modelBad (m : List Word) : Bool :=
  let w (i : Nat) : Word := m.getD i 0
  let nl := bits (w 0) 7 0 + 1
  bits (w 0) 63 36 != 0 || bits (w 1) 63 16 != 0 || bits (w 3) 63 52 != 0 || bits (w 4) 63 52 != 0 ||
  bits (w 5) 63 32 != 0 || w 6 != 0 || w 7 != 0 || bits (w 0) 35 32 < 6 || 8 < bits (w 0) 35 32 ||
  (nfmt? (bits (w 0) 22 20)).isNone || 4 < bits (w 0) 18 16 || bits (w 0) 15 8 == 0 || nl < bits (w 0) 15 8 ||
  (w 3).toNat % 16 != 0 || (w 4).toNat % 65536 != 0 ||
  bits (w 5) 31 0 * 65536 < storeNeed (bits (w 1) 15 0 + 1) (bits (w 0) 18 16) nl

/-- τ or G that R127 refuses. -/
def f32Bad (x : Nat) : Bool := match val32 x with | .fin n m _ => n && m != 0 | _ => true

/-- A layer entry that R127 refuses. -/
def layerBad (a b : Word) : Bool :=
  f32Bad (bits a 63 32) || bits a 31 0 % 4 != 0 || bits b 63 32 != 0 || f32Bad (bits b 31 0)

/-- The handle that a new context takes. -/
def State.freeHandle (s : State) : Option Nat :=
  (((List.range 4095).map (· + 1)) ++ [0]).find? fun h => (s.ctx? h).isNone

/-- A new context (05 R127). -/
def newCtx (h fn die : Nat) (r m lay : List Word) : Ctx :=
  let w (i : Nat) : Word := m.getD i 0
  let nl := bits (w 0) 7 0 + 1
  let at_ (i : Nat) : Word := lay.getD i 0
  { h := h, fn := fn, nlm1 := nl - 1, cstride := bits (w 0) 15 8, siltlg := bits (w 0) 18 16, shift := bit (w 0) 19,
    det := bit (w 0) 23, kvfmt := bits (w 0) 22 20, kvhm1 := bits (w 0) 31 24, hdlg := bits (w 0) 35 32,
    maxbm1 := bits (w 1) 15 0, seed := (w 2).toNat, store := (w 4).toNat, stsz := bits (w 5) 31 0 * 65536,
    entries := (List.range nl).map fun i => bits (at_ (2 * i)) 31 0,
    tau := (List.range nl).map fun i => BitVec.ofNat 32 (bits (at_ (2 * i)) 63 32),
    gain := (List.range nl).map fun i => BitVec.ofNat 32 (bits (at_ (2 * i + 1)) 31 0),
    hpool := bits (r.getD 1 0) 51 0, hw64 := bits (r.getD 2 0) 47 32, tasktag := BitVec.ofNat 32 (bits (r.getD 2 0) 31 0),
    die := die }

/-- Performs CTXREG with the registration block and the model of its issue. -/
def perfCtxreg (d : R5) (r m : List Word) (s : State) : Perf :=
  let res (s : State) (code h : Nat) : Perf := .now s (.regs [.g d (resWord code 0 h)])
  if regBad r || modelBad m then res s 1 0
  else
    let nl := bits (m.getD 0 0) 7 0 + 1
    match (s.vaWords s.view (m.getD 3 0).toNat (2 * nl)).bind fun lay =>
      (s.vaAt s.view (m.getD 4 0).toNat false).bind fun p => .ok (lay, p) with
    | .page s w => .later s (.page w)
    | .bad t => .now s (.fault t)
    | .ok (lay, p) =>
      if (List.range nl).any fun i => layerBad (lay.getD (2 * i) 0) (lay.getD (2 * i + 1) 0) then res s 1 0
      else
        match s.freeHandle with
        | none => res s 2 0
        | some h => res { s with ctxs := s.ctxs ++ [newCtx h (s.fnOf s.me) ((p.slice.getD 0) / 64) r m lay] } 0 h

/-- CTXREG. -/
def execCtxreg (x : XCmd) (s : State) : Out1 := run s fun s =>
  let len := bLenX x.b
  (serialise s).bind fun _ s =>
  (needRegs (x.a :: bRegs x.b) s).bind fun _ s =>
  (accessGate s).bind fun _ s =>
  (readB x.b s).bind fun b s =>
  let block (e : Int) (n align : Nat) (s : State) : R (List Word × Option Trap) :=
    (segR x.seg e (8 * n) align needRD false s).bind fun a s =>
    (stageR a (8 * n) s).bind fun a s =>
    (transR len a false true 0 s).bind fun p s => let (l, bad, s) := s.recBoth p n; .ok (l, bad) s
  (block ((s.me.gr x.a).toInt + b.toInt) 4 32 s).bind fun (r, bad) s =>
  (if regBad r then .ok ([], none) s else block (bits (r.getD 0 0) 51 0 : Nat) 8 16 s).bind fun (m, bad') s =>
  (match bad.or bad' with | some t => R.stop (lateLong x.look len t s) | none => .ok () s).bind fun _ s =>
  let s := s.upd fun t => { t with shadow := some { t.snap with desc := r ++ m } }
  openPerf (.ctxreg x) x.look len false false (perfCtxreg x.d r m s)

/-- The result of a wait of SETTLE or CTXRD.at for a context that is being released (05 R157). -/
def endedRegs (c : Ctx) (why : Why) (i : Instr) (s : State) : Option (List RegW) :=
  match why, i with
  | .settle _ n, .settle x => some [.g x.d (resWord 5 0 n)]
  | .version _ l b _, .ctxrdAt x =>
    some (ctxrdRegs x (w64 (c.effStamp l b * 2 ^ 32 + (c.entry l b).state * 256 + 5)) 0 s)
  | _, _ => none

/-- The context that a wait names. -/
def Why.ctx : Why → Option Nat
  | .settle h _ => some h
  | .version h _ _ _ => some h
  | _ => none

/-- The window waits for a context that ends: what its close writes. -/
def Window.ended (w : Window) (c : Ctx) (s : State) : Window :=
  match w.res with
  | .wait (.defer why i _) =>
    if why.ctx = some c.h then (match endedRegs c why i s with | some l => { w with res := .regs l } | none => w) else w
  | _ => w

/-- The waits for a context end, and the digest places of its reads hold nothing. -/
def State.endWaits (s : State) (c : Ctx) : State :=
  let holes := s.threads.flatMap fun t => t.windows.filterMap fun w => match w.res with
    | .wait (.defer (.version h _ _ _) _ sh) => if h = c.h then some (t.agent, rbHole sh.desc) else none
    | _ => none
  let s' := { s with threads := s.threads.map fun t => { t with windows := t.windows.map fun w => w.ended c s } }
  holes.foldl (fun s x => s.fillHole x.1 x.2 []) s'

/-- CTXREG.rel. -/
def execCtxregRel (look : BitVec 4) (d a : R5) (s : State) : Out1 := run s fun s =>
  (serialise s).bind fun _ s =>
  (needRegs [a] s).bind fun _ s =>
  match (s.ctxFor (s.fnOf s.me) (s.me.gr a).toNat).filter fun c => c.releasing.isNone with
  | none => openRegs look 12 [.g d (resWord 3 0 0)] s
  | some c =>
    let pc := s.me.pc
    let s := (s.retire 12).upd fun t => t.openWin look.toNat pc (.wait (.release d)) false false
    let s := s.endWaits c
    .ok () (s.setCtx c.h fun c => { c with
      releasing := some (s.me.uid, s.me.seq),
      silt := c.silt.map fun e => if e.state == 1 || e.state == 2 then { e with state := 0 } else e })

/-- The release of a context has nothing left to wait for. -/
def Ctx.released (c : Ctx) : Bool := c.releasing.isSome && c.edits == [] && !(c.silt.any fun e => e.state == 3)

/-- CONTEXT_RELEASE_COMPLETE. -/
def execContextReleaseComplete (s : State) : Out1 :=
  match s.ctx? s.op.ctx with
  | none => .fault .notEnabled
  | some c =>
    match c.releasing with
    | none => .fault .notEnabled
    | some (u, w) =>
      if !c.released then .fault .notEnabled
      else
        let s := { s with ctxs := s.ctxs.filter fun x => x.h != c.h }
        .next (s.updT u fun t => { t with windows := t.windows.map fun x => match x.res with
          | .wait (.release d) => if x.wid = w then { x with res := .regs [.g d (resWord 0 0 0)] } else x
          | _ => x })

end Sys2Proof.Machine
end

