-- ==== Sys2Proof/Machine/Commit.lean ====
section
/-!
DEFINITION. COMMITB, COMMITB.skip and PROBE (15 R384, R385; 05 R145 to R150; 06 R161, R175).
-/
namespace Sys2Proof.Machine

/-! ## The work item that the thread is -/

/-- The item of the current thread with its context, its PENDING entry and the dispatch. -/
def State.itemNow (s : State) : Option (Item × Ctx × Silt × Disp) :=
  s.agentT.item.bind fun it => (s.ctxFor (s.fnOf s.me) it.ctx).bind fun c =>
    (c.itemOf s.agentT.uid it).map fun (e, d) => (it, c, e, d)

/-- Changes the item of the current thread. -/
def State.updItem (s : State) (f : Item → Item) : State :=
  s.updT s.me.agent fun t => { t with item := t.item.map f }

/-! ## The comparison (05 R147) -/

/-- The difference of two elements as FP32 bits. -/
def diff32 (a b : Nat) : Fp :=
  let x := val32 a
  let y := val32 b
  if x.finite && y.finite then (x.add y.neg).absF
  else if x.isNan && y.isNan then .fin false 0 0
  else if x == y then .fin false 0 0
  else .inf false

/-- The elements of a slot in an area: keys and values of every head. -/
def State.slotElems (s : State) (k : Chunks) (c : Ctx) (r : KRec) (layer area slot : Nat) : List Nat :=
  (List.range r.nh).flatMap fun h => [0, 1].flatMap fun val => (List.range r.d).map fun ch =>
    s.kvElem k r c.seed layer area h val slot ch

/-- The trap of a poisoned code or scale of a slot in an area. -/
def State.slotPoison (s : State) (k : Chunks) (r : KRec) (area slot : Nat) : Option Trap :=
  (List.range r.nh).findSome? fun h => [0, 1].findSome? fun val =>
    (s.cPoison k (r.code area h val slot 0).1 (kvCodes r.d r.fmt / 16)).or
      (s.cPoison k (r.scale area h val slot 0) (4 * kvStrips r.d))

/-- A hidden row of a version as FP32 bits. -/
def State.hiddenRow (s : State) (v : View) (c : Ctx) (l b area slot : Nat) : Vx (List Nat) :=
  (s.vaBytes v (c.hidden l b area + slot % 2 ^ c.siltlg * c.rowBytes) c.rowBytes).bind fun bs =>
    .ok (f32s (64 * c.hw64) bs)

/-- The greatest difference of two lists of elements. -/
def maxDiff (a b : List Nat) : Fp := ((a.zip b).map fun y => diff32 y.1 y.2).foldl Fp.maxF (.fin false 0 0)

/-- D over the slots compared. -/
def State.commitDiff (s : State) (v : View) (c : Ctx) (r : KRec) (l b cur : Nat) (slots : List Nat) : Vx Fp :=
  (s.chunks v r.va r.size false).bind fun k =>
  match slots.findSome? fun x => (s.slotPoison k r cur x).or (s.slotPoison k r (1 - cur) x) with
  | some t => .bad t
  | none =>
    let d := slots.foldl (fun d x =>
      d.maxF (maxDiff (s.slotElems k c r l (1 - cur) x) (s.slotElems k c r l cur x))) (.fin false 0 0)
    if !c.checkpoint l then .ok d
    else
      (vxAll (fun x => (s.hiddenRow v c l b (1 - cur) x).bind fun p => (s.hiddenRow v c l b cur x).bind fun q =>
        .ok (maxDiff p q)) slots).bind fun ds => .ok (ds.foldl Fp.maxF d)

/-- τ of a layer, and G. -/
def Ctx.tauOf (c : Ctx) (l : Nat) : Fp := val32 (c.tau.getD l 0).toNat
def Ctx.gainOf (c : Ctx) (l : Nat) : Fp := val32 (c.gain.getD l 0).toNat

/-- a ≤ b, of numbers that are no NaN. -/
def Fp.leq (a b : Fp) : Bool := !(b.lt a)

/-! ## COMMITB -/

/-- Where a dispatch's clearing of the staging area has not been made and nothing reads that area, it is made before the item is
over (05 R150). -/
def State.clearIdle (s : State) (v : View) (c : Ctx) (it : Item) (d : Disp) (r : KRec) : State :=
  if d.cleared || s.readersOf r.fn r.va (1 - r.cur c.siltlg it.block) != 0 then s
  else match s.chunks v r.va 192 true with
    | .ok k => s.clearStage k c it.layer it.block r
    | _ => s

/-- The commit's step: the silt entry, the marks, and that the item has committed (05 R141, R142). -/
def State.commitNow (s : State) (c : Ctx) (it : Item) (d : Disp) (write : Bool) : State :=
  let clk := ((s.me.shadow.bind (·.clk))).getD []
  let s := s.setCtx c.h fun c =>
    let c := c.commit it.layer it.block d.stamp write d.force
    { c with commits := (d.stamp, it.layer, it.block, clk) :: c.commits }
  s.updItem fun it => { it with committed := true }

/-- Flips CUR of a silt block in its record's header (06 R161). -/
def State.flipCur (s : State) (k : Chunks) (c : Ctx) (b cur : Nat) (r : KRec) : State :=
  s.setBit16 (k.at r.va).loc (cbit c.siltlg b) (cur == 0)

/-- Performs COMMITB with the table descriptor and the order of its issue. -/
def perfCommitb (x : CommitA) (skip : Bool) (td : List Word) (before : Nat) (gx : Nat) (s : State) : Perf :=
  let res (s : State) (code detail val : Nat) (wrote : Bool) : Perf :=
    .now s (.regs [.g x.x.d (resWord code (if code = 0 then b2n wrote else detail) val)])
  let v := s.view
  if (s.matq.any fun m => m.thr == s.me.uid && m.matrix) || s.drainWaits s.me.vu .ab before ||
     s.drainWaits s.me.vu .mem before then .later s .drained
  else if (s.agentT.item.map (·.committed)).getD false then res s 13 0 0 false
  else
    match s.itemNow with
    | none => res s 12 0 0 false
    | some (it, c, _, d) =>
      if c.releasing.isSome then res s 5 0 0 false
      else
        match s.tableEntry v c td gx it.layer (some (c.blkOf it.block)) with
        | .page s w => .later s (.page w)
        | .bad t => .now s (.fault t)
        | .ok (.inl code) => res s code gx 0 false
        | .ok (.inr (_, r)) =>
          let s := s.freshNow v [tdEntry td gx]
          let l := it.layer
          let b := it.block
          let cur := r.cur c.siltlg b
          if skip then
            match it.probe with
            | some p => if (val32 p.toNat).leq (c.tauOf l) then
                          res ((s.clearIdle v c it d r).commitNow c it d false) 0 0 p.toNat false
                        else res s 14 0 0 false
            | none => res s 14 0 0 false
          else
            let slots := (d.slots.map Prod.fst).filter (c.same d.stamp)
            if slots.any fun y => !(d.cleared && r.stored (1 - cur) y) then res s 15 0 0 false
            else
              let forced := d.force || slots.any fun y => !(r.stored cur y && (c.occ y).any fun z => z.holds l false)
              match (if forced then .ok (.inf false) else s.commitDiff v c r l b cur slots).bind fun dd =>
                (s.chunks v r.va 192 true).bind fun k => .ok (dd, k) with
              | .page s w => .later s (.page w)
              | .bad t => .now s (.fault t)
              | .ok (dd, k) =>
                let write := forced || (c.tauOf l).lt dd
                let val := f32.enc .rup false dd
                if write && !d.cleared && s.readersOf r.fn r.va (1 - cur) != 0 then
                  .later s (.readers r.fn r.va (1 - cur))
                else
                  let s := if write then (s.clearStage k c l b r).flipCur k c b cur r else s.clearIdle v c it d r
                  res (s.commitNow c it d write) 0 0 val write

/-- The issue of COMMITB and PROBE: `n` doublewords of table descriptors, with none where none is read. -/
def commitIssue (i : Instr) (x : CommitA) (fence : Bool) (reads : State → Bool) (n : Nat)
    (perf : List Word → Nat → Nat → State → Perf) (s : State) : R Unit :=
  let len := bLenX x.x.b
  (serialise s).bind fun _ s =>
  (needRegs (x.x.a :: x.gx :: bRegs x.x.b) s).bind fun _ s =>
  (accessGate s).bind fun _ s =>
  (readB x.x.b s).bind fun b s =>
  (if !reads s then .ok ([], none) s
   else
    (segR x.x.seg ((s.me.gr x.x.a).toInt + b.toInt) (8 * n) 16 needRD false s).bind fun a s =>
    (stageR a (8 * n) s).bind fun a s =>
    (transR len a false true 0 s).bind fun p s => let (l, bad, s) := s.recBoth p n; .ok (l, bad) s).bind fun (td, bad) s =>
  if 2 ^ 16 ≤ (s.me.gr x.gx).toNat then illegalR (s.me.gr x.gx) s
  else if tdBad (td.take 2) || tdBad (td.drop 2) then raiseR 2 5 s
  else
    (if fence then fenceGate 5 s else .ok () s).bind fun _ s =>
    (match bad with | some t => R.stop (lateLong x.x.look len t s) | none => .ok () s).bind fun _ s =>
    let before := s.order
    let (clk, s) := if fence then s.release false else ([], s)
    let s := s.upd fun t => { t with shadow := some { t.snap with desc := w64 before :: td, clk := some clk } }
    openPerf i x.x.look len false false (perf td before (s.me.gr x.gx).toNat s)

/-- COMMITB. -/
def execCommitb (x : CommitA) (s : State) : Out1 := run s <|
  commitIssue (.commitb x) x true (fun _ => true) 2 (perfCommitb x false)
/-- COMMITB.skip. -/
def execCommitbSkip (x : CommitA) (s : State) : Out1 := run s <|
  commitIssue (.commitbSkip x) x true (fun _ => true) 2 (perfCommitb x true)

/-! ## PROBE (05 R146; 06 R175) -/

/-- B is +∞ whatever the tables hold. -/
def Ctx.probeInf (c : Ctx) (it : Item) (e : Silt) (d : Disp) : Bool :=
  d.state == 2 || d.force ||
  (c.shift && c.blocks.any fun y => e.stamp < y.shiftn &&
    (match c.orderOf y.blk, c.orderOf (c.blkOf it.block) with
     | some i, some j => i ≤ j
     | _, _ => y.blk == c.blkOf it.block))

/-- PROBE reads its descriptors. -/
def State.probeReads (s : State) : Bool :=
  match s.itemNow with
  | none => true
  | some (it, c, e, d) => it.layer != 0 && !c.probeInf it e d

/-- The upstream entries of the second table from index 0 through the item's block; a failure with its code and index. -/
def State.upstreamRecs (s : State) (v : View) (c : Ctx) (td : List Word) (layer blk : Nat) :
    Nat → Nat → Vx (Nat × Nat ⊕ List KRec)
  | 0, k => .ok (.inl (16, k))
  | n + 1, k =>
    (s.tableEntry v c td k layer none).bind fun r =>
    match r with
    | .inl code => .ok (.inl (code, k))
    | .inr (w, r) =>
      if teBlk w = blk then .ok (.inr [r])
      else (s.upstreamRecs v c td layer blk n (k + 1)).bind fun l => match l with
        | .inl x => .ok (.inl x)
        | .inr l => .ok (.inr (r :: l))

/-- The query record of a head in an area: its box, σ and LAMBDA; none where ATTN has written none. -/
structure QRec where
  lo : List Fp
  hi : List Fp
  sigma : Fp
  lambda : Fp

/-- Reads it. -/
def State.queryRec (s : State) (v : View) (c : Ctx) (r : KRec) (area head : Nat) : Vx (Option QRec) :=
  if !c.qrecs.contains (r.va, area, head) then .ok none
  else
    (s.vaBytes v (r.env area head 3 0) (8 * r.d + 8)).bind fun bs =>
      let l := (f32s (2 * r.d + 2) bs).map val32
      .ok (some ⟨l.take r.d, (l.drop r.d).take r.d, l.getD (2 * r.d) (.fin false 0 0), l.getD (2 * r.d + 1) (.fin false 0 0)⟩)

/-- Sums of FP32 bits rounded upwards. -/
def addUp (a b : Nat) : Nat := up32 ((val32 a).add (val32 b))

/-- The envelope of a kind over areas, from the bytes of one head of each. -/
def envOf (r : KRec) (kind : Nat) (areas : List (List Byte)) : List Fp :=
  (List.range r.d).map fun ch =>
    let vals := areas.map fun bs => val32 (natOfBytes ((bs.drop (4 * (r.d * kind + ch))).take 4))
    if kind = 0 then minOf vals else maxOf vals

/-- The contribution of silt block x of a record at one head: 2 × V × n × exp(U − LAMBDA), rounded upwards. -/
def contribHead (c : Ctx) (r : KRec) (e : Silt) (areas : List Nat) (q : Option QRec) (envs : List (List Byte)) : Nat :=
  match q with
  | none => f32.enc .rup false (.inf false)
  | some q =>
    let kmin := envOf r 0 envs
    let kmax := envOf r 1 envs
    let rot := c.shift && (c.inSilt e.blk).any fun y => areas.any fun a =>
      r.stored a y.slot && (c.posOf y - hdrPos r.hdr a y.slot) / 256 != 0
    let (u, _) := if rot then pairBounds q.sigma q.lo q.hi kmin kmax else boxBounds q.sigma q.lo q.hi kmin kmax
    let n := (c.inSilt e.blk).length
    let x := ((Fp.fin false 2 0).mul (maxOf (envOf r 2 envs))).mul
      ((Fp.fin false n 0).mul (((val32 u).add q.lambda.neg).expWide))
    if x.isNan then f32.enc .rup false (.inf false) else up32 x

/-- The areas that x's versions stand in. -/
def xAreas (c : Ctx) (r : KRec) (e : Silt) : List Nat :=
  let cur := r.cur c.siltlg e.blk
  if e.pfirst = 0 then [cur] else [cur, 1 - cur]

/-- The contribution of x over all heads. -/
def State.contrib (s : State) (v : View) (c : Ctx) (r : KRec) (e : Silt) (qs : List (Option QRec)) : Vx Nat :=
  let areas := xAreas c r e
  (vxAll (fun (y : Nat × Option QRec) =>
    (vxAll (fun a => s.vaBytes v (r.env a y.1 0 0) (12 * r.d)) areas).bind fun envs =>
      .ok (contribHead c r e areas y.2 envs)) ((List.range r.nh).zip qs)).bind fun l => .ok (l.foldl addUp 0)

/-- B over the upstream records. -/
def State.probeSum (s : State) (v : View) (c : Ctx) (it : Item) (e : Silt) (r : KRec) (rs : List KRec) : Vx Nat :=
  let area := r.cur c.siltlg it.block
  (vxAll (s.queryRec v c r area) (List.range r.nh)).bind fun qs =>
  let xs := rs.flatMap fun r => (List.range (16 / 2 ^ c.siltlg)).filterMap fun j =>
    let b := bits (hdrWord r.hdr 0) 31 16 * (16 / 2 ^ c.siltlg) + j
    let x := c.entry (it.layer - 1) b
    if e.stamp < x.first then some (r, x) else none
  (vxAll (fun (y : KRec × Silt) => s.contrib v c y.1 y.2 qs) xs).bind fun l =>
    if l.any fun y => !(val32 y).finite then .ok (f32.enc .rup false (.inf false))
    else if (c.gainOf it.layer).isZero then .ok 0
    else .ok (up32 ((c.gainOf it.layer).mul (val32 (l.foldl addUp 0))))

/-- Performs PROBE with the two table descriptors of its issue. -/
def perfProbe (x : CommitA) (td : List Word) (gx : Nat) (s : State) : Perf :=
  let res (s : State) (code detail val : Nat) : Perf := .now s (.regs [.g x.x.d (resWord code detail val)])
  let ok (s : State) (b : Nat) : Perf := res (s.updItem fun it => { it with probe := some (BitVec.ofNat 32 b) }) 0 0 b
  match s.itemNow with
  | none => res s 12 0 0
  | some (it, c, e, d) =>
    if c.probeInf it e d then ok s (f32.enc .rup false (.inf false))
    else if it.layer = 0 then ok s 0
    else
      let v := s.view
      let blk := c.blkOf it.block
      let own := tdEntry td gx
      let up (n : Nat) : List Nat := (List.range n).map (tdEntry (td.drop 2))
      match (s.tableEntry v c td gx it.layer (some blk)).bind fun r => match r with
        | .inl code => .ok (Sum.inl (code, gx, []))
        | .inr (_, r) =>
          (s.upstreamRecs v c (td.drop 2) (it.layer - 1) blk (bits (td.getD 3 0) 51 0 / 8 + 1) 0).bind fun l => match l with
            | .inl y => .ok (.inl (y.1, y.2, own :: up y.2))
            | .inr rs => (s.probeSum v c it e r rs).bind fun b => .ok (.inr (b, own :: up rs.length)) with
      | .page s w => .later s (.page w)
      | .bad t => .now s (.fault t)
      | .ok (.inl (code, k, seen)) => res (s.freshNow v seen) code k 0
      | .ok (.inr (b, seen)) => ok (s.freshNow v seen) b

/-- PROBE. -/
def execProbe (x : CommitA) (s : State) : Out1 := run s <|
  commitIssue (.probe x) x false State.probeReads 4 fun td _ gx s => perfProbe x td gx s

end Sys2Proof.Machine
end

