-- ==== Sys2Proof/Machine/Device.lean ====
section
/-!
DEFINITION. What the device does on its own account: STF of a word (12 R281), engine writes at device virtual addresses, and
the free lists of granules (21 R437, R438).
-/
namespace Sys2Proof.Machine

/-! ## Words -/

/-- The device performs STF on an empty word: it is written, full, and its writer's clock goes with it. -/
def State.devStf (s : State) (p : Place) (x : Word) (clk : Clock) : State :=
  let r := s.wordRec p.loc
  ((s.putWord p 0xFF x).setFull p.loc true).setRec p.loc fun w =>
    { w with syn := (w.syn.join clk).join r.take, synLive := true, take := [], eng := [] }

/-- The clock that an acquiring read of a word joins (03 R81). -/
def State.acqClk (s : State) (a : Nat) : Clock :=
  let r := s.wordRec a
  (if r.synLive then r.syn else []).join r.eng

/-- The device writes one doubleword as an engine write. -/
def State.devWord (s : State) (p : Place) (x : Word) (clk : Clock) : State := s.engWord (p.word 0) 0xFF x false clk

/-! ## Free lists (21 R437) -/

/-- The die whose memory a physical address is in: HBM4E by its channel, the LPDDR-6 tier by its half. -/
def dieOfPa (pa : Nat) : Nat := if pa.testBit 40 then pa / 2 ^ 39 % 2 else pa / 2 ^ 38 % 2

/-- A free list of a die. -/
def Die.list (d : Die) (i : Nat) : FreeList := d.free.getD i {}

/-- Entries that a list holds, and what its low-water mark is compared with. -/
def FreeList.count (f : FreeList) : Nat := (f.prod + 2 ^ 32 - f.cons) % 2 ^ 32
def FreeList.room (f : FreeList) : Nat := 2 ^ f.lg - f.count
def FreeList.level (f : FreeList) (i : Nat) : Nat := if i = 0 then f.room else f.count

/-- Changes a list; one that falls below its mark raises one event, which a host-assisted die posts (21 R437, R450). -/
def State.setList (s : State) (die i : Nat) (f : FreeList → FreeList) : State :=
  let x := f ((s.die die).list i)
  let below := x.en && x.level i < x.lowat
  let s := s.setDie die fun d => { d with free := d.free.setIfInBounds i { x with low := below } }
  if below && !x.low && bit (s.die die).split 6 then s.assist 0 ⟨7, die, [w64 i, w64 x.count]⟩ else s

/-- The place of entry `n` of a ring. -/
def FreeList.entry (f : FreeList) (n : Nat) : Nat := f.base + 8 * (n % 2 ^ f.lg)

/-- The return ring of a die takes `k` more allocations. -/
def State.mayReturn (s : State) (die k : Nat) : Bool := let f := (s.die die).list 0; f.en && k ≤ f.room

/-- An allocation of `n` granules goes to the return ring. -/
def State.giveGranules (s : State) (die pa n : Nat) : State :=
  let f := (s.die die).list 0
  (s.setNum (f.entry f.prod) 8 (pa + (n - 1) * 2 ^ 61)).setList die 0 fun f => { f with prod := (f.prod + 1) % 2 ^ 32 }

/-- The non-empty list with the least size of at least `n` granules. -/
def Die.listFor (d : Die) (n : Nat) : Option Nat :=
  ((List.range 9).filter fun i => n ≤ i && i != 0).find? fun i => (d.list i).en && (d.list i).count != 0

/-- Takes the oldest allocation of a list. -/
def State.takeGranules (s : State) (die i : Nat) : Nat × State :=
  let f := (s.die die).list i
  (bits (s.dword (f.entry f.cons)) 40 0, s.setList die i fun f => { f with cons := (f.cons + 1) % 2 ^ 32 })

end Sys2Proof.Machine
end

