-- ==== Sys2Proof/Machine/Surge.lean ====
section
/-!
DEFINITION. The surge scheduler (05 R143, R144, R158), background requantisation and tier migration (06 R179; 04 R118), and the step
builder (06 R181 to R186).
-/
namespace Sys2Proof.Machine

/-! ## Work items -/

/-- The serving task of a context: its function's running task with the tag (15 R382). -/
def State.servingTask (s : State) (c : Ctx) : Option Task :=
  s.tasks.find? fun k => k.fn == c.fn && k.tag == c.tasktag && (k.st == .running || k.st == .rerun)

/-- The lowest-numbered vcore of the serving task with a free logical and physical slot. -/
def State.itemVcore (s : State) (c : Ctx) : Option (Task × Vcore) :=
  (s.servingTask c).bind fun k =>
    let l := s.vcores.filter fun v => v.task == k.tid && v.placed && !v.ended && s.freeLogical v.vu != [] &&
      s.freePhysical v.vu != []
    (l.foldl (fun (a : Option Vcore) v => match a with
      | some x => if v.idx < x.idx then some v else a
      | none => some v) none).map fun v => (k, v)

/-- g1 to g6 of a work item (05 R144). -/
def Ctx.itemArgs (c : Ctx) (l b stamp state : Nat) (force : Bool) : List Word :=
  [w64 c.h, w64 l, w64 b, w64 stamp,
   match (c.ckpts l).getLast? with | some k => w64 k | none => BitVec.allOnes 64,
   w64 (state + 4 * b2n force)]

/-- A work item's thread starts, with the entry's dispatch already made. -/
def State.startItem (s : State) (k : Task) (v : Vcore) (c : Ctx) (l b : Nat) (d : Disp) : State :=
  match s.freeLogical v.vu, s.freePhysical v.vu with
  | slot :: _, p :: _ =>
    let u := s.nextUid
    let t := s.fresh k.tid v.vu slot p
    let args := c.itemArgs l b d.stamp d.state d.force
    let t := (List.range 6).foldl (fun (t : Thread) i => t.wg (BitVec.ofNat 5 (i + 1)) (args.getD i 0)) t
    let t := { t.wg 7 (BitVec.allOnes 64) with
      child := true, pc := w64 (c.entries.getD l 0), clock := t.clock.join c.editClk,
      item := some { ctx := c.h, layer := l, block := b, stamp := d.stamp } }
    let s := { s with threads := s.threads ++ [t], nextUid := u + 1 }
    s.setCtx c.h fun c =>
      let e := c.entry l b
      c.setEntry { e with disp := some { (e.disp.getD d) with thr := some u, go := false } }
  | _, _ => s

/-- Surge dispatch is host-assisted on the die of the context's store (20 R419). -/
def State.surgeHost (s : State) (c : Ctx) : Bool := bit (s.die c.die).split 1

/-- Dispatches an entry: its thread starts, or the host is told (05 R158). -/
def State.dispatchEntry (s : State) (c : Ctx) (e : Silt) : State :=
  let s1 := (s.setCtx c.h fun c => c.dispatch e none).dispatched c.h e.layer e.blk
  let d := ((c.dispatch e none).entry e.layer e.blk).disp
  match d with
  | none => s
  | some d =>
    if s.surgeHost c then
      s1.assist c.fn ⟨2, c.die, c.itemArgs e.layer e.blk d.stamp d.state d.force⟩
    else
      match s.itemVcore c with
      | some (k, v) => s1.startItem k v c e.layer e.blk d
      | none => s

/-- The first entry that the host has launched and that has not started. -/
def Ctx.launched (c : Ctx) : Option (Silt × Disp) :=
  (c.firstOf (c.silt.filter fun e => e.state == 3 && ((e.disp.map (·.go)).getD false))).bind fun e => e.disp.map fun d => (e, d)

/-- What the scheduler of a context can do now. -/
def State.surgeReady (s : State) (c : Ctx) : Bool :=
  (c.launched.isSome && (s.itemVcore c).isSome) ||
  (c.nextDispatch.isSome && (s.surgeHost c || (s.itemVcore c).isSome))

/-- SURGE_DISPATCH: the scheduler starts a work item, or posts it. -/
def execSurgeDispatch (s : State) : Out1 :=
  match s.ctx? s.op.ctx with
  | none => .fault .notEnabled
  | some c =>
    if !s.surgeReady c then .fault .notEnabled
    else
      match c.launched, s.itemVcore c with
      | some (e, d), some (k, v) => .next (s.startItem k v c e.layer e.blk d)
      | _, _ =>
        match c.nextDispatch with
        | some e => .next (s.dispatchEntry c e)
        | none => .fault .notEnabled

/-- WORKITEM's entry: posted to the function, not launched, with the stamp (20 R401). -/
def Ctx.posted (c : Ctx) (l b stamp : Nat) : Option Disp :=
  let e := c.entry l b
  if e.state == 3 then e.disp.filter fun d => d.thr.isNone && !d.go && d.stamp == stamp else none

/-! ## Requantisation and tier migration (06 R179) -/

/-- A KV block may be moved: no work item of it at the layer is outstanding until its entry is VALID again. The model selects no
block in which a speculative lane's append stands. [DEDUCED, log 43] -/
def Ctx.movable (c : Ctx) (l blk : Nat) : Bool :=
  !(c.silt.any fun e => e.layer == l && c.blkOf e.blk == blk && (e.state == 3 || e.busy)) &&
  !((c.inBlock blk).any (·.prov))

/-- The address of entry `k` of a table of one of the context's append regions at a layer (06 R165). -/
def Ctx.ownsEntry (c : Ctx) (l va : Nat) : Bool :=
  c.regions.any fun x => x.1 == l && x.2 ≤ va && (va - x.2) % 8 == 0 && (va - x.2) / 8 < 2 ^ 16

/-- The slots of a block's attention set that stand in an area. -/
def attSlots (c : Ctx) (r : KRec) (blk area : Nat) : List Nat :=
  ((c.inBlock blk).map (·.slot)).filter fun x => r.cur c.siltlg (c.siltOf x) == area && r.stored area x

/-- The slots whose codes a requantisation writes: those that are stored, and those whose row has not been finished. -/
def keptSlots (c : Ctx) (r : KRec) (blk area : Nat) : List Nat :=
  (List.range 16).filter fun i => r.stored area i || (c.occ (16 * blk + i)).isSome

/-- One strip of one slot requantised: its scale is derived from its values. [DESIGN CHOICE, log 42] -/
def State.moveStrip (s : State) (k kn : Chunks) (c : Ctx) (layer : Nat) (r n : KRec) (area head val slot strip : Nat) : State :=
  let chs := (List.range (Nat.min 128 (r.d - 128 * strip))).map (128 * strip + ·)
  let vals := chs.map fun ch => s.kvElem k r c.seed layer area head val slot ch
  let sc := qscale n.fmt vals
  let s := s.devNum (kn.at (n.scale area head val slot strip)).loc 4 sc
  (chs.zip vals).foldl (fun s y =>
    let (na, sh) := n.code area head val slot y.1
    let a := (kn.at na).loc
    let old := (s.byte a).toNat
    let keep := old - old / 2 ^ sh % 2 ^ n.fmt.bits * 2 ^ sh
    s.devNum a 1 (keep + quantStore n.fmt y.2 sc (kvDither c.seed layer head val slot y.1) * 2 ^ sh)) s

/-- Codes and scales of one head of an area, requantised (04 R118), and its query record as it was. -/
def State.moveCodes (s : State) (k kn : Chunks) (c : Ctx) (layer blk : Nat) (r n : KRec) (area head : Nat) : State :=
  let s := (keptSlots c r blk area).foldl (fun s i => [0, 1].foldl (fun s val => (List.range (kvStrips r.d)).foldl (fun s strip =>
    s.moveStrip k kn c layer r n area head val (16 * blk + i) strip) s) s) s
  (List.range (2 * r.d + 2)).foldl (fun s i =>
    s.devNum (kn.at (n.env area head 3 0 + 4 * i)).loc 4 (s.cNum k (r.env area head 3 0 + 4 * i) 4)) s

/-- The envelopes of one head of an area, rebuilt from the attention set (06 R162). [DESIGN CHOICE, log 42] -/
def State.moveEnv (s : State) (kn : Chunks) (c : Ctx) (layer blk : Nat) (r n : KRec) (area head : Nat) : State :=
  let att := attSlots c r blk area
  (List.range r.d).foldl (fun s ch =>
    let vals (val : Nat) : List Fp := att.map fun slot => val32 (s.kvElem kn n c.seed layer area head val slot ch)
    let ent (kind : Nat) : Nat :=
      if att = [] then (Config.emptyEnvelope s.tick).toNat
      else rne32 (match kind with
        | 0 => minOf (vals 0)
        | 1 => maxOf (vals 0)
        | _ => maxOf ((vals 1).map Fp.absF))
    [0, 1, 2].foldl (fun s kind => s.devNum (kn.at (n.env area head kind ch)).loc 4 (ent kind)) s) s

/-- The words of a record as they are, with their poison, FE bits and access records (03 R83). -/
def State.copyRecord (s : State) (k kn : Chunks) (r n : KRec) : State :=
  (List.range (r.size / 8)).foldl (fun s i =>
    let a := (kn.at (n.va + 8 * i)).loc
    let w := s.pageWord (k.at (r.va + 8 * i)).loc
    let s := s.keepOld a
    s.setPageWord a { w with olds := s.pastOf (a / 8) }) s

/-- The header of a new record. -/
def State.moveHeader (s : State) (kn : Chunks) (r n : KRec) (enc : Nat) : State :=
  let h0 := (hdrWord r.hdr 0).toNat
  let h0 := h0 - bits (hdrWord r.hdr 0) 53 52 * 2 ^ 52 + enc * 2 ^ 52
  let hdr := w64 h0 :: r.hdr.drop 1
  (List.range 24).foldl (fun s i => s.devNum (kn.at (n.va + 8 * i)).loc 8 (hdrWord hdr i).toNat) s

/-- The new record, whole: for a migration a plain copy, for a requantisation header, areas and heads; envelopes rebuilt. -/
def State.moveRecord (s : State) (k kn : Chunks) (c : Ctx) (layer blk : Nat) (r n : KRec) (enc : Nat) (plain : Bool) : State :=
  let s := if plain then s.copyRecord k kn r n else s.moveHeader kn r n enc
  [0, 1].foldl (fun s area => (List.range r.nh).foldl (fun s head =>
    (if plain then s else s.moveCodes k kn c layer blk r n area head).moveEnv kn c layer blk r n area head) s) s

/-- The new table entry. -/
def movedEntry (e : Word) (enc paddr : Nat) (tier : Bool) : Word :=
  w64 (bits e 63 63 * 2 ^ 63 + b2n tier * 2 ^ 62 + enc * 2 ^ 60 + bits e 59 59 * 2 ^ 59 + bits e 58 43 * 2 ^ 43 + paddr)

/-- A move of the block that a table entry names: a new record elsewhere in the pool, the entry swapped, the old header
RETIRED. One that may not be made is not made. -/
def State.moveBlock (s : State) (m : MoveReq) (enc : Option Nat) : State :=
  match s.ctx? m.ctx with
  | none => s
  | some c =>
    let v : View := ⟨c.die, c.fn, 0, [], 6, []⟩
    let find : Vx (Option (Word × Place × KRec × Chunks × Chunks × KRec × Nat)) :=
      (s.vaWords v m.entry 1).bind fun w =>
      let e := w.headD 0
      (s.entryCheck v c c.h m.layer none e m.pool (2 ^ 52)).bind fun r => match r with
        | .inl _ => .ok none
        | .inr r =>
          let code := enc.getD (bits e 61 60)
          match nfmt? code with
          | none => .ok none
          | some f =>
            let n : KRec := { r with va := m.pool + 512 * m.paddr, fmt := f, hdr := [] }
            (s.vaAt v m.entry true).bind fun pe =>
            (s.chunks v r.va r.size true).bind fun k =>
            (s.chunks v n.va n.size true).bind fun kn => .ok (some (e, pe, r, k, kn, n, code))
    match find with
    | .page s _ => s
    | .bad _ => s
    | .ok none => s
    | .ok (some (e, pe, r, k, kn, n, code)) =>
      if c.releasing.isSome || !c.movable m.layer (teBlk e) || !c.ownsEntry m.layer m.entry || (enc.isSome && c.det) then s
      else
        let s := s.moveRecord k kn c m.layer (teBlk e) r n code enc.isNone
        let tier := if enc.isSome then bit e 62 else m.tier
        let s : State := s.devWord pe (movedEntry e code m.paddr tier) []
        let hd := (k.at r.va).loc
        let s := s.devNum (hd + 6) 1 (s.num (hd + 6) 1 ||| 0x40)
        let s : State := { s with retired := s.retired ++ [⟨c.h, c.fn, r.va, r.size⟩] }
        s.setCtx c.h fun c => { c with
          fmts := if code = c.kvfmt || c.fmts.contains code then c.fmts else c.fmts ++ [code],
          homes := c.homes.map fun y => if y.1 == m.layer && y.2.2 == r.va then (y.1, y.2.1, n.va) else y,
          toClear := c.toClear.map fun y => if y.2.2.1 == r.va then (y.1, y.2.1, n.va, y.2.2.2) else y,
          qrecs := c.qrecs ++ (c.qrecs.filter fun (q : Nat × Nat × Nat) => q.1 == r.va).map fun (q : Nat × Nat × Nat) => (n.va, q.2.1, q.2.2) }

/-- REQUANTISATION: on the device, or posted as a candidate (20 R419, R420). -/
def execRequantisation (s : State) : Out1 :=
  let m := s.op.move
  match s.ctx? m.ctx with
  | none => .next s
  | some c =>
    if bit (s.die c.die).split 7 then
      .next (if c.det then s else s.assist c.fn ⟨8, c.die, [w64 (c.h + m.layer * 2 ^ 12), w64 m.entry]⟩)
    else .next (s.moveBlock m (some m.fmt))

/-- TIER_MIGRATION. -/
def execTierMigration (s : State) : Out1 := .next (s.moveBlock s.op.move none)

/-- The chunks of 4 KiB that a record stands in: their places in memory, with their granules. -/
def recordGranules (va size : Nat) : List (Nat × Nat) :=
  (List.range ((va + size - 1) / 4096 - va / 4096 + 1)).map fun i =>
    let lo := Nat.max va (4096 * (va / 4096 + i))
    let hi := Nat.min (va + size) (4096 * (va / 4096 + i + 1))
    (lo, (hi - lo) / 512)

/-- A retired record whose readers are gone, with its physical granules; those of compressible pages stay with their maps. -/
def State.freeable (s : State) (x : Retired) : Option (List (Nat × Nat)) :=
  if s.readersOf x.fn x.va 0 != 0 || s.readersOf x.fn x.va 1 != 0 then none
  else
    let l := (recordGranules x.va x.size).filterMap fun y => match s.xlate 0 x.fn y.1 false with
      | .ok p _ => if p.blk.isSome then none else some (p.loc, y.2)
      | .fault _ => none
    if [0, 1].all fun d => (l.filter fun y => dieOfPa y.1 == d) == [] || s.mayReturn d (l.filter fun y => dieOfPa y.1 == d).length
    then some l else none

/-- RECORD_FREE. [DEDUCED, log 44] -/
def execRecordFree (s : State) : Out1 :=
  match s.retired.find? fun x => x.va == s.op.addr && x.fn == s.op.fn with
  | none => .fault .notEnabled
  | some x =>
    match s.freeable x with
    | none => .fault .notEnabled
    | some l =>
      let s := l.foldl (fun s y => s.giveGranules (dieOfPa y.1) y.1 y.2) s
      .next { s with retired := s.retired.filter fun y => !(y.va == x.va && y.fn == x.fn) }

/-! ## The step builder (06 R181 to R186) -/

/-- Fields of a step descriptor. -/
def sdBudget (d : List Word) : Nat := bits (d.getD 0 0) 63 32
def sdMax (d : List Word) : Nat := bits (d.getD 0 0) 31 16
def sdSlice (d : List Word) : Nat := bits (d.getD 0 0) 15 0
def sdDecq (d : List Word) : Nat := bits (d.getD 1 0) 51 0
def sdPreq (d : List Word) : Nat := bits (d.getD 2 0) 51 0
def sdList (d : List Word) : Nat := bits (d.getD 3 0) 51 0

/-- A descriptor that the builder refuses (06 R184). -/
def sdBad (d : List Word) : Bool :=
  bits (d.getD 1 0) 63 52 != 0 || bits (d.getD 2 0) 63 52 != 0 || bits (d.getD 3 0) 63 52 != 0 || sdBudget d == 0 ||
  sdSlice d < 16 || sdDecq d % 32 != 0 || sdPreq d % 32 != 0

/-- A queue that the builder reads (06 R185). -/
structure StepQ where
  head : Nat
  base : Nat
  lg : Nat
  prod : Nat
  cons : Nat
deriving DecidableEq, Repr

/-- Entries queued. -/
def StepQ.count (q : StepQ) : Nat := (q.prod + 2 ^ 32 - q.cons) % 2 ^ 32

/-- The address of entry CONS + k. -/
def StepQ.entry (q : StepQ) (k : Nat) : Nat := q.base + 16 * ((q.cons + k) % 2 ^ (q.lg + 4))

/-- Reads a queue's header, with the clock of its PROD. -/
def State.stepQueue (s : State) (v : View) (va : Nat) : Vx (StepQ × Clock) :=
  (s.vaWords v va 4).bind fun w =>
  (s.vaAt v (va + 16) false).bind fun p =>
    .ok (⟨va, bits (w.getD 0 0) 51 0, bits (w.getD 1 0) 3 0, bits (w.getD 2 0) 31 0, bits (w.getD 3 0) 31 0⟩,
      s.acqClk p.loc)

/-- A step as it is built: the state that it reads, the state with the dispatches that it makes, tokens used, items in reverse,
and the writes to come: places with their doublewords. -/
structure Step where
  s : State
  s' : State
  used : Nat := 0
  items : List (Word × Word) := []
  writes : List (Place × Word) := []

/-- Adds an item. -/
def Step.add (b : Step) (kind ctx layer key tokens argw : Nat) : Step :=
  { b with
    used := b.used + tokens,
    items := (w64 (kind * 2 ^ 62 + ctx * 2 ^ 48 + layer * 2 ^ 40 + key), w64 (tokens * 2 ^ 32 + argw)) :: b.items }

/-- A queue entry that is taken without being placed (06 R185). -/
def stepBad (s : State) (fn : Nat) (prompt : Bool) (a b : Word) : Bool :=
  bits a 51 32 != 0 || (s.ctxFor fn (bits a 63 52)).isNone || (prompt && bits b 31 0 == 0)

/-- Takes decode entries: the step, and how many were taken. -/
def stepDecode (v : View) (q : StepQ) (budget : Nat) : Nat → Nat → Step → Vx (Step × Nat)
  | 0, k, b => .ok (b, k)
  | n + 1, k, b =>
    if budget ≤ b.used || 65536 ≤ b.items.length then .ok (b, k)
    else
      (b.s.vaWords v (q.entry k) 2).bind fun w =>
      let x := w.getD 0 0
      let bad := stepBad b.s v.fn false x (w.getD 1 0)
      stepDecode v q budget n (k + 1)
        (b.add (if bad then 3 else 0) (bits x 63 52) 0 (bits x 31 0) (if bad then 0 else 1) 0)

/-- The contexts whose items a builder places: its function's on its die, in ascending handle. -/
def State.stepCtxs (s : State) (die fn : Nat) : List Nat :=
  (List.range 4096).filter fun h => match s.ctx? h with | some c => c.fn == fn && c.die == die | none => false

/-- The next item of a context that can start. -/
def State.stepItem (s : State) (h : Nat) : Option (Ctx × Silt) :=
  (s.ctx? h).bind fun c => if s.surgeHost c || (s.itemVcore c).isSome then c.nextDispatch.map fun e => (c, e) else none

/-- The next item over contexts: the lowest layer first, then the lowest handle. -/
def State.stepNext (s : State) (hs : List Nat) : Option (Ctx × Silt) :=
  (hs.filterMap s.stepItem).foldl (fun (a : Option (Ctx × Silt)) x => match a with
    | none => some x
    | some y => if x.2.layer < y.2.layer then some x else a) none

/-- Places surge items: at most `n` further ones. -/
def stepSurge (budget : Nat) (hs : List Nat) : Nat → Step → Step
  | 0, b => b
  | n + 1, b =>
    match b.s'.stepNext hs with
    | none => b
    | some (c, e) =>
      let cost := ((c.inSilt e.blk).filter fun x => !x.prov).length
      if budget < b.used + cost || 65536 ≤ b.items.length then b
      else stepSurge budget hs n { (b.add 1 c.h e.layer e.blk cost c.a) with s' := b.s'.dispatchEntry c e }

/-- Places slices of prompts: the step, and how many entries were taken. -/
def stepPrompt (v : View) (q : StepQ) (budget slice : Nat) : Nat → Nat → Option Nat → Step → Vx (Step × Nat)
  | 0, k, _, b => .ok (b, k)
  | n + 1, k, done, b =>
    if budget ≤ b.used || 65536 ≤ b.items.length || q.count ≤ k then
      -- a prompt that is not finished keeps its DONE
      (match done with
       | none => .ok (b, k)
       | some d => (b.s.vaWords v (q.entry k) 2).bind fun w => (b.s.vaAt v (q.entry k + 8) true).bind fun p =>
          .ok ({ b with writes := b.writes ++ [(p, w64 (d * 2 ^ 32 + bits (w.getD 1 0) 31 0))] }, k))
    else
      (b.s.vaWords v (q.entry k) 2).bind fun w =>
      let x := w.getD 0 0
      let y := w.getD 1 0
      if done.isNone && stepBad b.s v.fn true x y then
        stepPrompt v q budget slice n (k + 1) none (b.add 3 (bits x 63 52) 0 (bits x 31 0) 0 0)
      else
        let d := done.getD (bits y 63 32)
        let len := bits y 31 0
        if len ≤ d then
          (b.s.vaAt v (q.entry k + 8) true).bind fun p =>
          stepPrompt v q budget slice n (k + 1) none { b with writes := b.writes ++ [(p, w64 (d * 2 ^ 32 + len))] }
        else
          let t := Nat.min slice (Nat.min (len - d) (budget - b.used))
          let b := b.add 2 (bits x 63 52) 0 (bits x 31 0) t d
          if d + t < len then stepPrompt v q budget slice n k (some (d + t)) b
          else
            (b.s.vaAt v (q.entry k + 8) true).bind fun p =>
            stepPrompt v q budget slice n (k + 1) none { b with writes := b.writes ++ [(p, w64 (len * 2 ^ 32 + len))] }

/-- What taking a descriptor comes to: nothing written, or a state with the list in place but its first doubleword, and
the place of that with its value and clock. [DEDUCED, log 49] -/
def State.buildStep (s : State) (v : View) (die : Nat) (clk : Clock) (d : List Word) : Vx (Option (State × Place × Word × Clock)) :=
  let n := (s.die die).taken
  if sdList d % 64 != 0 then .ok none
  else
    (s.vaAt v (sdList d) true).bind fun p0 =>
    let p1 : Place := { p0 with addr := p0.addr + 8, loc := p0.loc + 8 }
    if sdBad d then .ok (some (s.devWord p1 (w64 n) clk, p0, w64 (2 ^ 31), clk))
    else
      (s.stepQueue v (sdDecq d)).bind fun (dq, c1) =>
      (s.stepQueue v (sdPreq d)).bind fun (pq, c2) =>
      let clk := (clk.join c1).join c2
      (stepDecode v dq (sdBudget d) dq.count 0 { s := s, s' := s }).bind fun (b, kd) =>
      let b := stepSurge (sdBudget d) (s.stepCtxs die v.fn) (if sdMax d = 0 then 65536 else sdMax d) b
      (stepPrompt v pq (sdBudget d) (sdSlice d) (pq.count + 65537) 0 none b).bind fun (b, kp) =>
      (s.vaAt v (dq.head + 24) true).bind fun pd =>
      (s.vaAt v (pq.head + 24) true).bind fun pp =>
      let items := b.items.reverse
      (vxAll (fun i => s.vaAt v (sdList d + 16 + 8 * i) true) (List.range (2 * items.length))).bind fun ps =>
      let ws := items.flatMap fun y => [y.1, y.2]
      let s := (ps.zip ws).foldl (fun s y => s.devWord y.1 y.2 clk) b.s'
      let s := b.writes.foldl (fun s y => s.devWord y.1 y.2 clk) s
      let cons (q : StepQ) (k : Nat) : Word := w64 ((q.cons + k) % 2 ^ 32)
      let s := if kd = 0 then s else s.devWord pd (cons dq kd) clk
      let s := if kp = 0 then s else s.devWord pp (cons pq kp) clk
      .ok (some (s.devWord p1 (w64 n) clk, p0, w64 (b.used * 2 ^ 32 + items.length), clk))

/-- The builder of a die has a descriptor and what it waits for has come. -/
def State.stepReady (s : State) (die : Nat) : Bool :=
  match (s.die die).building with
  | none => (s.die die).steps != []
  | some q => (match q.wait with | some w => w.woken | none => true) && (match q.full with | some a => !s.full a | none => true)

/-- The builder takes its oldest descriptor, where it has none in hand. -/
def State.takeDesc (s : State) (die : Nat) : Option (StepReq × State) :=
  match (s.die die).building with
  | some q => some (q, s.setDie die fun d => { d with building := none })
  | none =>
    match (s.die die).steps with
    | [] => none
    | q :: rest => some (q, s.setDie die fun d => { d with steps := rest, taken := d.taken + 1 })

/-- The words of a descriptor, read once. -/
def State.stepDesc (s : State) (v : View) (q : StepReq) : Vx (List Word) :=
  if q.desc = [] then s.vaWords v q.addr 4 else .ok q.desc

/-- STEP_BUILD: the builder takes its oldest descriptor, reads it and writes the step list, its first doubleword last by STF, which
waits for that word to be empty; or posts it (06 R183, R184). -/
def execStepBuild (s : State) : Out1 :=
  let die := s.op.die
  match s.takeDesc die with
  | none => .fault .notEnabled
  | some (q, s1) =>
    if !s.stepReady die then .fault .notEnabled
    else if q.host then .next (s1.assist q.fn ⟨3, die, [w64 q.addr]⟩)
    else
      let hold (s : State) (q : StepReq) : Out1 := .next (s.setDie die fun d => { d with building := some q })
      let v : View := ⟨die, q.fn, 0, match q.wait with | some w => if w.failed then [(w.die, w.page)] else [] | none => [], 6, []⟩
      match s1.stepDesc v q with
      | .page s w => hold s { q with wait := some w }
      | .bad _ => .next s1
      | .ok d =>
        match s1.buildStep v die q.clock d with
        | .page s w => hold s { q with wait := some w, full := none, desc := d }
        | .bad _ => .next s1
        | .ok none => .next s1
        | .ok (some (s', p, w, clk)) =>
          if s.full p.loc then hold s1 { q with wait := none, full := some p.loc, desc := d }
          else .next (s'.devStf p w clk)

end Sys2Proof.Machine
end

