-- ==== Sys2Proof/Machine/Placement.lean ====
section
/-!
DEFINITION. The hierarchy of a task, where the distributor places the vcores of a gang, and what a vcore holds when it is
placed (01 R22 to R32; 20 R410; 21 R447).
-/
namespace Sys2Proof.Machine

/-! ## The hierarchy (01 R23, R24) -/

/-- A level descriptor. -/
def levelOf (w : Word) : Level :=
  { gang := bit w 23, vcl := bit w 22, scope := bits w 21 19, domain := bits w 18 16, count := bits w 15 0 }

/-- A level descriptor whose fields are valid, with the least scope for its domain. -/
def levelOk (w : Word) : Bool :=
  let l := levelOf w
  bits w 63 24 == 0 && l.scope ≤ 5 && l.domain ≤ 5 && 1 ≤ l.count && l.count ≤ 1024 && l.domain ≤ l.scope

/-- Domains do not increase inwards. -/
def domainsFall : List Level → Bool
  | a :: b :: t => b.domain ≤ a.domain && domainsFall (b :: t)
  | _ => true

/-- The hierarchy is accepted. -/
def hierOk (ws : List Word) : Bool :=
  let l := ws.map levelOf
  let vcls := (List.range l.length).filter fun i => (l.getD i ⟨false, false, 0, 0, 0⟩).vcl
  let v := vcls.headD 0
  let outer := l.take (v + 1)
  let inner := l.drop (v + 1)
  ws.all levelOk && vcls.length == 1 && (outer.getLast?.map (·.domain)) == some 1 &&
  (outer.filter fun x => x.domain != 5).foldl (fun a x => a * x.count) 1 == 1024 &&
  (l.drop 1).all (fun x => x.domain != 5) && domainsFall l &&
  inner.all (fun x => x.domain == 0) && inner.foldl (fun a x => a * x.count) 1 ≤ 8 &&
  (l.filter (·.gang)).length ≤ 1 && inner.all (fun x => !x.gang)

/-- The instance of level `n` that holds a vcore. -/
def Task.vcInst (k : Task) (n idx : Nat) : Nat :=
  match k.levels[n]? with
  | some l => if l.domain = 5 then 0 else idx / k.vcInside n
  | none => 0

/-- The coordinate of a vcore at level `n` (01 R24); zero inside the virtual-core level. -/
def Task.coord (k : Task) (n idx : Nat) : Nat :=
  match k.levels[n]? with
  | some l => if l.domain = 5 then k.peerix else if k.vclIdx < n then 0 else idx / k.vcInside n % l.count
  | none => 0

/-! ## Places of a gang (01 R25 to R29) -/

/-- A vcore's place: core, mode, physical slots and first units of its regions. -/
structure Spot where
  idx : Nat
  core : Nat
  mode : Mode
  pslots : List Nat
  abb : Nat := 0
  wbb : Nat := 0
  acb : Nat := 0
  ptb : Nat := 0
deriving DecidableEq, Repr

/-- The enabled cores of a function's partition. -/
def State.partCores (s : State) (fn : Nat) : List Nat :=
  (s.fn fn).part.flatMap fun c => ((List.range 16).map (16 * c + ·)).filter s.coreOn

/-- The lowest start of `size` units among `limit` that meets none of the used ranges. -/
def lowBase (size limit : Nat) (used : List (Nat × Nat)) : Option Nat :=
  if size = 0 then some 0
  else (List.range (limit + 1 - size)).find? fun b => used.all fun u => u.1 + u.2 ≤ b || b + size ≤ u.1

/-- How the distributor places the vcores of a gang: the mode, and whether several of them share a core. -/
structure Way where
  mode : Mode
  share : Bool
deriving DecidableEq, Repr

/-- A place beside vcores that run at the same time: slots, flume numbers and buffers fit together (01 R26, 02 R63). -/
def State.shareOn (s : State) (k : Task) (mode : Mode) (here : List Vcore) (own : List Spot) (core idx : Nat) : Option Spot :=
  let taken := here.flatMap (·.pslots) ++ own.flatMap (·.pslots)
  let free := (if mode = .sliced then List.range 8 else s.freeSlots core).filter fun i => !taken.contains i
  let used (first : Vcore → Nat) (size : Task → Nat) (first' : Spot → Nat) : List (Nat × Nat) :=
    (here.map fun v => (first v, size (s.task v.task))) ++ own.map fun x => (first' x, size k)
  if free.length < k.slots || 8 < (here.map fun v => (s.task v.task).flumes).sum + (own.length + 1) * k.flumes then none
  else
    (lowBase k.absz 48 (used (·.abb) (·.absz) (·.abb))).bind fun abb =>
    (lowBase k.nwb 8 (used (·.wbb) (·.nwb) (·.wbb))).bind fun wbb =>
    (lowBase k.nacc 2 (used (·.acb) (·.nacc) (·.acb))).bind fun acb =>
    (lowBase k.npt 2 (used (·.ptb) (·.npt) (·.ptb))).map fun ptb =>
      { idx := idx, core := core, mode := mode, pslots := free.take k.slots, abb := abb, wbb := wbb, acb := acb, ptb := ptb }

/-- A core takes turns with this task's vcores: it hosts only time-sliced ones, and a serialised task shares none (08 R216). -/
def State.slicesWith (s : State) (k : Task) (core : Nat) : Bool :=
  (s.onCore core).all fun v => v.mode == .sliced && (v.task == k.tid || !(k.inTurn || (s.task v.task).inTurn))

/-- A place for a further vcore of the task on a core, beside the vcores there and the gang's own. -/
def State.spotOn (s : State) (k : Task) (w : Way) (mine : List Spot) (core idx : Nat) : Option Spot :=
  let here := s.onCore core
  let own := mine.filter fun x => x.core == core
  match w.mode with
  | .sole =>
    if here = [] && own = [] && k.slots ≤ (s.freeSlots core).length then
      some { idx := idx, core := core, mode := .sole, pslots := List.range 8 } else none
  | .sliced =>
    if !s.slicesWith k core then none
    else if w.share then s.shareOn k .sliced [] own core idx
    else if own = [] then some { idx := idx, core := core, mode := .sliced, pslots := List.range 8 } else none
  | .partitioned =>
    if here.any fun v => v.mode != .partitioned then none else s.shareOn k .partitioned here own core idx

/-- How many more vcores of the task a core takes, at most `n`. -/
def State.roomOn (s : State) (k : Task) (mode : Way) (core : Nat) : Nat → List Spot → Nat
  | 0, _ => 0
  | n + 1, mine =>
    match s.spotOn k mode mine core 0 with
    | none => 0
    | some x => 1 + s.roomOn k mode core n (x :: mine)

/-- The unit of a domain that a core is in. -/
def domUnit (domain core : Nat) : Nat :=
  match domain with
  | 1 => core
  | 2 => core / 16
  | 3 => core / 1024
  | _ => 0

/-- Where the task's vcores stand, those of the gang included. -/
def State.standing (s : State) (k : Task) (mine : List Spot) : List (Nat × Nat) :=
  ((s.vcores.filter fun v => v.task == k.tid && v.placed).map fun v => (v.idx, v.core)) ++ mine.map fun x => (x.idx, x.core)

/-- The core keeps a vcore with the others of its instances, level by level (01 R24); a unit that opens an instance has room
for the gang's part of it. -/
def State.coreFits (s : State) (k : Task) (mode : Way) (cores : List Nat) (mine : List Spot) (idx core : Nat) : Bool :=
  (List.range k.vclIdx).all fun n =>
    let d := (k.levels.getD n ⟨false, false, 0, 5, 0⟩).domain
    if d = 0 || 4 ≤ d then true
    else
      let there := (s.standing k mine).filter fun x => k.vcInst n x.1 == k.vcInst n idx
      if there = [] then
        Nat.min (k.vcInside n) k.gangSize ≤
          (cores.filter fun c => domUnit d c == domUnit d core).foldl (fun a c => a + s.roomOn k mode c 8 mine) 0
      else there.all fun x => domUnit d x.2 == domUnit d core

/-- Places for the vcores of a gang, one after another. -/
def State.placeList (s : State) (k : Task) (mode : Way) (cores : List Nat) : List Nat → List Spot → Option (List Spot)
  | [], mine => some mine.reverse
  | i :: t, mine =>
    match (cores.filter fun c => s.coreFits k mode cores mine i c).findSome? fun c => s.spotOn k mode mine c i with
    | none => none
    | some x => s.placeList k mode cores t (x :: mine)

/-- Puts a core before those that host more vcores. -/
def State.insertCore (s : State) (c : Nat) : List Nat → List Nat
  | [] => [c]
  | d :: t => if (s.onCore c).length ≤ (s.onCore d).length then c :: d :: t else d :: s.insertCore c t

/-- Vcores of the task that fit an empty core together. -/
def Task.perCore (k : Task) : Nat :=
  let fit (limit size : Nat) : Nat := if size = 0 then 8 else limit / size
  [fit 8 k.slots, fit 8 k.flumes, fit 48 k.absz, fit 8 k.nwb, fit 2 k.nacc, fit 2 k.npt].foldl Nat.min 8

/-- The ways that the distributor tries for a gang, in order (01 R26, R29): with 1,024 cores each vcore stands alone, unless the
levels' domains leave no room for that. [DESIGN CHOICE, log 77] -/
def State.modes (s : State) (k : Task) (idxs : List Nat) : List Way :=
  let n := (s.partCores k.fn).length
  if 1024 ≤ n then
    let empty : State := { s with vcores := [], threads := [] }
    if (empty.placeList k ⟨.sole, false⟩ (s.partCores k.fn) idxs []).isSome then [⟨.sole, false⟩] else [⟨.partitioned, true⟩]
  else if 1024 ≤ n * k.perCore then [⟨.partitioned, true⟩]
  else [⟨.sliced, false⟩, ⟨.partitioned, true⟩, ⟨.sliced, true⟩]

/-- Places for the named vcores of one gang, all at once or none (01 R28, 20 R410). -/
def State.placeGang (s : State) (k : Task) (idxs : List Nat) : Option (List Spot) :=
  let cores := (s.partCores k.fn).foldr s.insertCore []
  (s.modes k idxs).findSome? fun m => s.placeList k m cores idxs []

/-- The partition can hold a gang at once (20 R405). -/
def State.holdsGang (s : State) (k : Task) : Bool :=
  (({ s with vcores := [], threads := [] } : State).placeGang k (k.gangVcores 0)).isSome

/-! ## A vcore is placed (01 R25, R31, R32) -/

/-- Coordinates of levels `a` to `a + 3` as a word. -/
def Task.coordWord (k : Task) (a idx : Nat) : Nat :=
  (List.range 4).foldl (fun x i => x + k.coord (a + i) idx * 2 ^ (16 * i)) 0

/-- Fills the constant window of a vcore. -/
def State.fillWindow (s : State) (k : Task) (v : Vcore) : State :=
  let s := s.setBytes (abBase v.vu) (k.image.take 1984)
  [(248, v.idx + k.vclIdx * 2 ^ 10 + (k.levels.length - 1) * 2 ^ 13 + k.slots * 2 ^ 16),
   (249, k.coordWord 0 v.idx), (250, k.coordWord 4 v.idx),
   (251, k.tag.toNat + k.fn * 2 ^ 32 + b2n k.det * 2 ^ 40 + k.prio * 2 ^ 41),
   (252, if k.peers = 0 then 0 else k.peerix + k.peers * 2 ^ 16), (253, s.physPos k v), (254, k.arg.toNat),
   (255, 2048)].foldl (fun s x => s.setIdent v.vu x.1 x.2) s

/-- Forgets the AB region of a vcore: bytes zero, words full, no poison, no records (01 R31, 08 R216). -/
def State.clearAb (s : State) (vu : Nat) : State :=
  let lo := abBase vu
  let hi := lo + 2 ^ 20
  { s with
    mem := s.mem.filter fun x => x.1 < lo || hi ≤ x.1,
    empty := s.empty.filter fun w => 8 * w < lo || hi ≤ 8 * w,
    poison := s.poison.filter fun w => 8 * w < lo || hi ≤ 8 * w,
    recs := s.recs.filter fun r => 8 * r.key < lo || hi ≤ 8 * r.key }

/-- A time-sliced vcore comes in turn, with its gang. -/
def startsResident (x : Spot) : Bool := x.mode != .sliced

/-- The physical slots for the threads of a vcore at a place: its own first, then slots that belong to no vcore beside it. -/
def State.slotsAt (s : State) (k : Task) (x : Spot) : List Nat :=
  match x.mode with
  | .sole => s.freeSlots x.core
  | .sliced =>
    let taken := x.pslots ++ ((s.onCore x.core).filter fun v => v.task == k.tid && k.gangOf v.idx == k.gangOf x.idx).flatMap (·.pslots)
    x.pslots ++ (List.range 8).filter fun i => !taken.contains i
  | .partitioned =>
    let taken := x.pslots ++ (s.onCore x.core).flatMap (·.pslots)
    x.pslots ++ (s.freeSlots x.core).filter fun i => !taken.contains i

/-- Places a fresh vcore and starts its launched threads. -/
def State.installVcore (s : State) (k : Task) (x : Spot) : State :=
  let v : Vcore :=
    { vu := k.tid * 1024 + x.idx, task := k.tid, idx := x.idx, placed := true, core := x.core, mode := x.mode,
      resident := startsResident x, pslots := x.pslots, abb := x.abb, wbb := x.wbb, acb := x.acb, ptb := x.ptb }
  let ps := s.slotsAt k x
  let s := s.clearAb v.vu
  let s : State := { s with vcores := s.vcores ++ [v] }
  let s := (s.fillWindow k v).remap v.vu
  ((List.range k.slots).zip ps).foldl (fun s y => s.startThread k.tid v.vu y.1 y.2) s

/-- A saved vcore comes back on a core, with its threads (20 R418). -/
def State.restoreVcore (s : State) (k : Task) (sv : Saved) (x : Spot) : State :=
  let v : Vcore :=
    { sv.vc with
      core := x.core, mode := x.mode, resident := startsResident x, pslots := x.pslots, abb := x.abb, wbb := x.wbb,
      acb := x.acb, ptb := x.ptb }
  let ps := s.slotsAt k x
  let s : State := { s with vcores := s.vcores ++ [v] }
  let s := s.remap v.vu
  let back (t : Thread) (p : Nat) : Thread :=
    { t with touched := t.touched ||| (1#128 <<< coreSlice t.core), core := x.core, pslot := p, home := p }
  { s with threads := s.threads ++ (sv.threads.zip ps).map fun y => back y.1 y.2,
           matq := s.matq.map fun m => if m.vu == v.vu then { m with core := x.core } else m }

/-- The vcores of a gang stand: the cores' counts are written, and gangs whose turn has come are resident. -/
def State.stand (s : State) (l : List Spot) : State := (s.recount (l.map (·.core)).eraseDups).refill

/-- The gang that is placed next, ascending. -/
def Task.nextGang (k : Task) : Option Nat := (List.range k.gangs).find? fun g => !k.placedGangs.contains g

/-- The gang of the lowest saved vcore, which is restored next: the saved vcores of it. -/
def Task.nextSaved (k : Task) : List Saved :=
  match (k.saved.map fun x => k.gangOf x.vc.idx).min? with
  | none => []
  | some g => k.saved.filter fun x => k.gangOf x.vc.idx == g

/-- The places that the distributor would give the task's next gang now. -/
def State.nextPlaces (s : State) (k : Task) : Option (List Spot) :=
  if k.saved != [] then
    (s.placeGang k (k.nextSaved.map (·.vc.idx))).filter fun l => (k.nextSaved.zip l).all fun y =>
      y.1.threads.length ≤ (s.slotsAt k y.2).length
  else k.nextGang.bind fun g => s.placeGang k (k.gangVcores g)

end Sys2Proof.Machine
end

