-- ==== Sys2Proof/Machine/Headgate.lean ====
section
/-!
DEFINITION. Launch queues, packets and the launch record: QUEUE_KICK, PACKET_FETCH_RETRY, DEVICE_QUEUE_KICK, QUEUE_ENABLE, LAUNCH,
TEARDOWN, SUSPEND, RESUME, WORKITEM and PUBLISH (20 R398 to R408, R411, R412).
-/
namespace Sys2Proof.Machine

/-! ## Queues (20 R399, R402) -/

/-- A queue of a function. -/
def State.queue (s : State) (fn q : Nat) : Queue := ((s.fn fn).queues[q]?).getD {}

/-- Changes a queue. -/
def State.setQueue (s : State) (fn q : Nat) (f : Queue → Queue) : State :=
  s.setFn fn fun x => { x with queues := x.queues.setIfInBounds q (f (s.queue fn q)) }

/-- Launches in the ready set, suspended tasks among them. -/
def State.readyCount (s : State) (fn : Nat) : Nat :=
  (s.tasks.filter fun k => k.fn == fn && k.status == 0 && (k.st == .ready || k.st == .suspended)).length

/-- The ready set is full (20 R408). -/
def State.queuesFull (s : State) (fn : Nat) : Bool := 64 ≤ s.readyCount fn

/-- Packets that have been announced and not accepted. -/
def Queue.due (q : Queue) : Bool :=
  let n := (q.kick + 2 ^ 32 - q.head) % 2 ^ 32
  q.en && !q.stale && 0 < n && n < 2 ^ 31

/-- What a wait has come to. -/
def waitOver (w : Option PageWait) : Bool := match w with | some w => w.woken | none => true

/-- The headgate's view of a function's memory; a page that was failed is not waited for again. -/
def State.gateView (s : State) (fn : Nat) (w : Option PageWait) : View :=
  ⟨s.gateDie fn, fn, 0, match w with | some w => if w.failed then [(w.die, w.page)] else [] | none => [], 7, []⟩

/-- The address of the packet at the head. -/
def Queue.at (q : Queue) : Nat := q.base.toNat + 64 * (q.head % 2 ^ q.qlg)

/-- Reads the packet at the head, as one read. -/
def State.readPacket (s : State) (fn q : Nat) : Vx (List Word) :=
  let x := s.queue fn q
  if x.dev then s.vaWords (s.gateView fn x.wait) (x.at % 2 ^ 52) 8 else .ok (s.dwords (hostBase + x.at) 8)

/-- The effect that an accepted packet asks for (20 R400, R401); none for a packet that is discarded. -/
def packetOf (fn q : Nat) (l : List Word) : Option Event :=
  let d0 := l.getD 0 0
  let d1 := l.getD 1 0
  let op : EvOp := { fn := fn, q := q }
  if ((l.take 7).drop 2).any (· != 0) || bits (l.getD 7 0) 63 32 != 0 then none
  else
    match bits d0 63 60 with
    | 0 => if bits d0 59 52 != 0 || bits d0 7 0 != 0 || d1 != 0 then none
           else some { i := .launch, op := { op with addr := bits d0 51 0 } }
    | 1 => if bits d0 59 32 != 0 || d1 != 0 then none else some { i := .teardown, op := { op with word := w64 (bits d0 31 0) } }
    | 2 => if bits d0 59 32 != 0 || d1 != 0 then none else some { i := .suspend, op := { op with word := w64 (bits d0 31 0) } }
    | 3 => if bits d0 59 32 != 0 || d1 != 0 then none else some { i := .resume, op := { op with word := w64 (bits d0 31 0) } }
    | 4 => if bits d0 39 20 != 0 || bits d1 63 32 != 0 then none
           else some { i := .workitem, op := { op with word := w64 (bits d0 59 0), val := d1 } }
    | 5 => if bits d0 59 52 != 0 || bits d0 2 0 != 0 then none
           else some { i := .publish, op := { op with addr := bits d0 51 0, val := d1 } }
    | _ => none

/-- A packet was refused (20 R401). [DEDUCED, log 61] -/
def State.badPacket (s : State) (fn q : Nat) : State := (s.setQueue fn q fun x => { x with badpkt := true }).msix fn 0

/-- The queue is parked (20 R402). -/
def State.parkQueue (s : State) (fn q : Nat) : State :=
  (s.setQueue fn q fun x => { x with stale := true, retries := 0, wait := none }).msix fn 0

/-- Fetches the packet at the head once, and accepts it where its stamp is the head's. -/
def State.fetchPacket (s : State) (fn q : Nat) : State :=
  let x := s.queue fn q
  match s.readPacket fn q with
  | .page s w => s.setQueue fn q fun x => { x with wait := some w }
  | .bad _ => s.parkQueue fn q
  | .ok l =>
    if bits (l.getD 7 0) 31 0 = x.head then
      let s := s.setQueue fn q fun x => { x with head := (x.head + 1) % 2 ^ 32, retries := 0, wait := none,
                                                 pkt := packetOf fn q l }
      if (packetOf fn q l).isNone then s.badPacket fn q else s
    else if x.retries = 4 then s.parkQueue fn q
    else s.setQueue fn q fun x => { x with retries := x.retries + 1, wait := none }

/-- The headgate may fetch from a queue now. -/
def State.mayFetch (s : State) (fn q : Nat) : Bool :=
  let x := s.queue fn q
  s.ready && x.due && x.pkt.isNone && waitOver x.wait && !s.queuesFull fn

/-- A kick with a count: a parked queue fetches again. -/
def State.kick (s : State) (fn q count : Nat) : State :=
  let idle := (s.queue fn q).retries == 0 && (s.queue fn q).wait.isNone
  let s := s.setQueue fn q fun x => { x with kick := count % 2 ^ 32, stale := false }
  if idle && s.mayFetch fn q then s.fetchPacket fn q else s

/-- QUEUE_KICK: a host write of QKICK; a device queue ignores it (20 R403). -/
def execQueueKick (s : State) : Out1 :=
  if (s.queue s.op.fn s.op.q).dev then .next s else .next (s.kick s.op.fn s.op.q s.op.word.toNat)

/-- PACKET_FETCH_RETRY. -/
def execPacketFetchRetry (s : State) : Out1 :=
  if s.mayFetch s.op.fn s.op.q then .next (s.fetchPacket s.op.fn s.op.q) else .fault .notEnabled

/-- The kick word of a device queue can be taken, or its page is to be asked for. -/
def State.mayTakeKick (s : State) (fn q : Nat) : Bool :=
  let x := s.queue fn q
  s.ready && x.en && x.dev && waitOver x.kwait && !((x.kwait.map (·.failed)).getD false) &&
  (match s.xlate (s.gateDie fn) fn x.kword false with
   | .ok p _ => s.full p.loc && s.firstAt (p.loc / 8) x.kticket true
   | .fault _ => true)

/-- DEVICE_QUEUE_KICK: the headgate takes the count from the kick word as LDF with take does (20 R403). -/
def execDeviceQueueKick (s : State) : Out1 :=
  let fn := s.op.fn
  let q := s.op.q
  let x := s.queue fn q
  if !s.mayTakeKick fn q then .fault .notEnabled
  else
    match s.vaAt (s.gateView fn none) x.kword false with
    | .page s w => .next (s.setQueue fn q fun x => { x with kwait := some w })
    | .bad _ => .next (s.parkQueue fn q)
    | .ok p =>
      let c := s.acqClk p.loc
      let n := s.order
      let count := (s.dword p.loc).toNat
      let s := (s.setFull p.loc false).stamp.setQueue fn q fun x =>
        { x with clock := x.clock.join c, kticket := n, kwait := none }
      .next (s.kick fn q count)

/-- A write of the queue's control register (20 R399). -/
def State.setQueueCtl (s : State) (fn q : Nat) (w : Word) : State :=
  let n := s.order
  (s.setQueue fn q fun x =>
    let x : Queue := { x with prio := bits w 61 59, en := bit w 63,
                              dev := if x.en then x.dev else bit w 62,
                              qlg := if x.en || bits w 51 48 < 4 || 12 < bits w 51 48 then x.qlg else bits w 51 48,
                              ended := if x.en then x.ended else false }
    if bit w 63 then { x with head := 0, kick := 0, retries := 0, wait := none, kwait := none, kticket := n } else x).stamp

/-- QUEUE_ENABLE. -/
def execQueueEnable (s : State) : Out1 := .next (s.setQueueCtl s.op.fn s.op.q (s.op.word ||| (1#64 <<< 63)))

/-! ## The launch record (20 R404, R405) -/

/-- The launch record as a task that joins the ready set. -/
def taskOf (tid fn q : Nat) (x : Queue) (since order pos : Nat) (w : List Word) : Task :=
  let d (i : Nat) : Word := w.getD i 0
  { tid := tid, fn := fn, tag := BitVec.ofNat 32 (bits (d 0) 63 32), q := q, prio := x.prio,
    devOwner := if x.dev then some x.owner else none, st := .ready, pos := pos, since := since, order := order,
    det := bit (d 0) 31, serial := bit (d 0) 30,
    expd := if bit (d 0) 29 then
        some (BitVec.ofNat 256 ((d 24).toNat + (d 25).toNat * 2 ^ 64 + (d 26).toNat * 2 ^ 128 + (d 27).toNat * 2 ^ 192))
      else none,
    trapv := w64 (bits (d 1) 63 32), entry := w64 (bits (d 1) 31 0), arg := d 2,
    levels := (List.range (bits (d 0) 28 26 + 1)).map fun i => levelOf (d (3 + i)),
    cimg := bits (d 11) 51 0, perslot := bit (d 12) 63, segset := bits (d 12) 51 0,
    ringlg := bits (d 13) 42 40, ringoff := 64 * bits (d 13) 39 28, flumes := bits (d 13) 27 24, absz := bits (d 13) 21 16,
    npt := bits (d 13) 7 6, nacc := bits (d 13) 5 4, nwb := bits (d 13) 3 0, save := bits (d 14) 51 0,
    cirq := bit (d 15) 63, compl := 64 * bits (d 15) 51 6,
    preq := ((List.range 8).filter fun i => bit (d (16 + i)) 63).map fun i => (bits (d (16 + i)) 51 0, false),
    rchain := if bit (d 28) 63 then some (bits (d 28) 51 0) else none, drep := bits (d 29) 51 0,
    peerix := bits (d 30) 15 0, clock := x.clock }

/-- A doubleword of a launch record breaks R404 or R405. -/
def recordDwBad (k : Task) (w : List Word) (i : Nat) : Bool :=
  let d := w.getD i 0
  let addr (align : Nat) : Bool := bits d 62 52 != 0 || bits d 51 0 % align != 0
  if i = 0 then bits d 25 0 != 0 || (bit d 29 && !bit d 31)
  else if i = 1 then bits d 33 32 != 0 || bits d 1 0 != 0
  else if 3 ≤ i && i ≤ 10 then k.levels.length ≤ i - 3 && d != 0
  else if i = 11 then bit d 63 || addr 64
  else if i = 12 then addr 128
  else if i = 13 then
    bits d 63 43 != 0 || bits d 23 22 != 0 || bits d 15 8 != 0 || 4 < k.ringlg || 8 < k.flumes || k.absz = 0 || 48 < k.absz ||
    2 < k.npt || 2 < k.nacc || 8 < k.nwb || k.ringoff < 2048 || k.absz * 4096 < k.ringoff + 64 * k.ringE
  else if i = 14 then bit d 63 || addr (2 ^ 21)
  else if i = 15 then addr 64
  else if 16 ≤ i && i ≤ 23 then addr 8
  else if i = 28 then addr 64
  else if i = 29 then bit d 63 || addr 8
  else if i = 30 then bits d 63 16 != 0 || (if k.peers = 0 then k.peerix != 0 else k.peers ≤ k.peerix)
  else if i = 31 then d != 0
  else false

/-- How the headgate refuses a record: status and DETAIL (20 R405, R412). -/
def State.refusal (s : State) (k : Task) (w : List Word) (ended : Bool) : Nat × Nat :=
  if ended then (4, 0)
  else if !hierOk ((w.drop 3).take k.levels.length) then (1, 0)
  else
    match (List.range 32).find? (recordDwBad k w) with
    | some i => (3, i)
    | none => if s.holdsGang k then (0, 0) else (2, 0)

/-- A packet's effect is over. -/
def State.packetDone (s : State) (fn q : Nat) : State := s.setQueue fn q fun x => { x with pkt := none, wait := none }

/-- The lowest ready-set position that no task of the function has. -/
def State.freePos (s : State) (fn : Nat) : Nat :=
  ((List.range 4096).find? fun i => !(s.tasks.any fun k => k.fn == fn && k.pos == i)).getD 0

/-- LAUNCH: the record is read once, the completion word becomes empty, and the task joins the ready set, or is refused
and completes at once (20 R404, R405, R407). -/
def execLaunch (s : State) : Out1 :=
  let fn := s.op.fn
  let q := s.op.q
  let x := s.queue fn q
  let v := s.gateView fn x.wait
  let read : Vx (List Word × Task × Place) :=
    (s.vaWords v s.op.addr 32).bind fun w =>
    let k := taskOf s.nextTask fn q x s.tick s.order (s.freePos fn) w
    (s.vaAt v k.compl true).bind fun p =>
    .ok (w, k, p)
  if s.queuesFull fn then .fault .notEnabled
  else match read with
  | .page s w => .next (s.setQueue fn q fun x => { x with wait := some w })
  | .bad _ => .next ((s.packetDone fn q).badPacket fn q)
  | .ok (w, k, p) =>
    let (st, detail) := s.refusal k w (x.dev && x.ended)
    let s := s.setFull p.loc false
    let s : State := { s with tasks := s.tasks ++ [{ k with status := st, detail := detail }], nextTask := s.nextTask + 1 }
    let s := s.stamp.packetDone fn q
    .next (if s.queuesFull fn then s.msix fn 0 else s)

/-! ## Teardown, suspension, work items, PUBLISH (20 R401, R411, R412) -/

/-- The task of a function with a launch tag that has not ended. -/
def State.tagged (s : State) (fn : Nat) (tag : Word) : Option Task :=
  s.tasks.find? fun k => k.fn == fn && k.tag.toNat == tag.toNat && k.status == 0

/-- Running, or on the way to it. -/
def Task.live (k : Task) : Bool := k.st == .running || k.st == .rerun || k.st == .chosen

/-- Nothing of a launch has been placed. -/
def Task.unplaced (k : Task) : Bool := k.st == .ready || (k.st == .chosen && k.placedGangs == [] && k.saved == [])

/-- A task is torn down (20 R411, R412): its device queues end, the launches that they put into the ready set are refused,
and the task is stopped by a halt of the partition where it runs, and ends at once where it does not. -/
def State.tearTask (s : State) (k : Task) (detail : Nat) : State :=
  let s := s.setFn k.fn fun f => { f with queues := f.queues.map fun x =>
    if x.dev && x.owner == k.tag then { x with ended := true } else x }
  let s : State := { s with tasks := s.tasks.map fun y =>
    if y.fn == k.fn && y.devOwner == some k.tag && y.unplaced && y.status == 0 then { y with status := 4 } else y }
  if k.live then s.setFn k.fn fun f => { f with tear := f.tear ++ [(k.tid, detail)] }
  else ({ s with threads := s.threads ++ k.saved.flatMap (·.threads) } : State).stopTask k.tid 5 detail

/-- TEARDOWN. -/
def execTeardown (s : State) : Out1 :=
  let fn := s.op.fn
  let q := s.op.q
  match s.tagged fn s.op.word with
  | none => .next ((s.packetDone fn q).badPacket fn q)
  | some k => .next ((s.packetDone fn q).tearTask k 0)

/-- SUSPEND: a running task is saved by a pre-emption, one that waits goes on waiting until RESUME (20 R414). -/
def execSuspend (s : State) : Out1 :=
  let fn := s.op.fn
  let q := s.op.q
  match s.tagged fn s.op.word with
  | none => .next ((s.packetDone fn q).badPacket fn q)
  | some k =>
    let s := s.packetDone fn q
    if k.live then .next (s.setFn fn fun f => { f with halt := f.halt ++ [(k.tid, true)] })
    else .next (s.setTask k.tid fun k => { k with held := true })

/-- RESUME. -/
def execResume (s : State) : Out1 :=
  let fn := s.op.fn
  let q := s.op.q
  match s.tagged fn s.op.word with
  | none => .next ((s.packetDone fn q).badPacket fn q)
  | some k => .next ((s.packetDone fn q).setTask k.tid fun k => { k with held := false })

/-- WORKITEM: the host launches an entry that was posted to it (05 R158). -/
def execWorkitem (s : State) : Out1 :=
  let fn := s.op.fn
  let q := s.op.q
  let w := s.op.word
  let s := s.packetDone fn q
  let l := bits w 47 40
  let b := bits w 19 0
  match (s.ctx? (bits w 59 48)).filter fun c => c.fn == fn && c.releasing.isNone && (c.posted l b (bits s.op.val 31 0)).isSome with
  | none => .next (s.badPacket fn q)
  | some c => .next (s.setCtx c.h fun c =>
      let e := c.entry l b
      c.setEntry { e with disp := e.disp.map fun d => { d with go := true } })

/-- PUBLISH waits for its word to be empty. -/
def State.mayPublish (s : State) (fn q va : Nat) : Bool :=
  let x := s.queue fn q
  waitOver x.wait &&
  (match s.xlate (s.gateDie fn) fn va true with
   | .ok p _ => !s.full p.loc && s.firstAt (p.loc / 8) s.order false
   | .fault _ => true)

/-- PUBLISH: STF of the value at the address (12 R281). -/
def execPublish (s : State) : Out1 :=
  let fn := s.op.fn
  let q := s.op.q
  let va := s.op.addr
  if !s.mayPublish fn q va then .fault .notEnabled
  else
    match s.vaAt (s.gateView fn (s.queue fn q).wait) va true with
    | .page s w => .next (s.setQueue fn q fun x => { x with wait := some w })
    | .bad _ => .next ((s.packetDone fn q).badPacket fn q)
    | .ok p =>
      let c := (s.queue fn q).clock
      .next ((if s.reserved fn va 8 then s else s.devStf p s.op.val c).packetDone fn q)

/-- The packet of a queue can take its effect now. -/
def State.packetReady (s : State) (fn q : Nat) : Option Event :=
  let x := s.queue fn q
  x.pkt.filter fun e => waitOver x.wait && !(e.i == .launch && s.queuesFull fn) && (e.i != .publish || s.mayPublish fn q e.op.addr)

end Sys2Proof.Machine
end

