-- ==== Sys2Proof/Machine/Distributor.lean ====
section
/-!
DEFINITION. From the ready set to running tasks, and back: LAUNCH_SELECT, GANG_PLACEMENT, PREEMPTION, PREEMPTION_SAVE and RESTORE
(20 R408 to R418).
-/
namespace Sys2Proof.Machine

/-! ## Prerequisites and priority (20 R408, R409) -/

/-- A prerequisite word that the test finds full, with the clock that it gives. -/
def State.preqMet (s : State) (k : Task) (va : Nat) : Option Clock :=
  match s.xlate (s.gateDie k.fn) k.fn va false with
  | .ok p _ => if s.full p.loc && s.firstAt (p.loc / 8) k.order true then some (s.acqClk p.loc) else none
  | .fault _ => none

/-- Tests the words that a ready launch still waits for; one found full stays satisfied. -/
def State.testPreq (s : State) (k : Task) : Task :=
  if k.st != .ready || k.status != 0 then k
  else k.preq.foldl (fun (k' : Task) y =>
    match (if y.2 then none else s.preqMet k y.1) with
    | none => { k' with preq := k'.preq ++ [y] }
    | some c => { k' with preq := k'.preq ++ [(y.1, true)], clock := k'.clock.join c }) { k with preq := [] }

/-- A prerequisite word of a ready launch whose page is missing, with the cause: asked for as LDF would (20 R408). A page that was
failed is not asked for again. -/
def State.preqPage (s : State) (k : Task) : Option (Nat × Cause) :=
  if k.st != .ready || k.status != 0 || !(match k.wait with | some w => w.woken && !w.failed | none => true) then none
  else k.preq.findSome? fun y =>
    if y.2 then none else match s.xlate (s.gateDie k.fn) k.fn y.1 false with
      | .ok _ _ => none
      | .fault c => some (y.1 / 2 ^ 16, c)

/-- Asks for the page of a prerequisite word. -/
def State.askPreq (s : State) (k : Task) : State :=
  match s.preqPage k with
  | none => s
  | some (page, c) =>
    let (s, w) := s.fault (s.gateDie k.fn) 7 k.fn page c 0
    s.setTask k.tid fun k => { k with wait := some w }

/-- Effective priority: a waiting launch ages, a running task does not. [DESIGN CHOICE, log 79] -/
def State.effPrio (s : State) (k : Task) : Nat :=
  if k.live && k.st != .chosen then k.prio
  else Nat.min 7 (k.prio + (Config.headgate s.tick - Config.headgate k.since) / 2 ^ 20)

/-- A launch whose prerequisites are met, or a suspended task that nothing holds back. -/
def Task.eligible (k : Task) : Bool :=
  k.status == 0 && !k.held && waitOver k.wait && (k.st == .suspended || (k.st == .ready && k.preq.all (·.2)))

/-- The first of two goes first: effective priority, longer wait, lower queue. -/
def State.goesFirst (s : State) (a b : Task) : Bool :=
  let x := s.effPrio a
  let y := s.effPrio b
  y < x || (x == y && (a.since < b.since || (a.since == b.since && a.q < b.q)))

/-- The launch that the headgate would pass next. -/
def State.candidate (s : State) (fn : Nat) : Option Task :=
  (s.tasks.filter fun k => k.fn == fn && k.eligible).foldl (fun a k => match a with
    | none => some k
    | some x => if s.goesFirst k x then some k else a) none

/-- A pre-emption of the partition is asked for or under way. -/
def State.stopping (s : State) (fn : Nat) : Bool := (s.fn fn).halt != [] || (s.fn fn).tear != [] || (s.fn fn).halted

/-- The candidate can be passed to the distributor, and its first gang placed. -/
def State.maySelect (s : State) (fn : Nat) : Bool :=
  !s.stopping fn && !(s.tasks.any fun k => k.fn == fn && k.st == .chosen) &&
  (match s.candidate fn with | some k => (s.nextPlaces k).isSome | none => false)

/-- A test of prerequisites would find something. -/
def State.mayTest (s : State) (fn : Nat) : Bool :=
  s.tasks.any fun k => k.fn == fn && (k.preq != (s.testPreq k).preq || (s.preqPage k).isSome)

/-- The constant image and the segment sets of a launch; a descriptor that is not well formed comes with V = 0. -/
def State.readImage (s : State) (k : Task) : Vx (List Byte × List (List Seg)) :=
  let v := s.gateView k.fn k.wait
  (s.vaBytes v k.cimg 1984).bind fun im =>
  (vxAll (fun i => (s.vaWords v (k.segset + 128 * i) 16).bind fun w =>
      .ok ((List.range 8).map fun j =>
        let d : Seg := ⟨w.getD (2 * j) 0, w.getD (2 * j + 1) 0⟩
        if d.wf k.absz then d else { d with lo := d.lo &&& ~~~(1#64 <<< 63) }))
    (List.range (if k.perslot then 8 else 1))).bind fun sg => .ok (im, sg)

/-- LAUNCH_SELECT: tests prerequisites, then passes the first eligible launch to the distributor where its first gang fits. -/
def execLaunchSelect (s : State) : Out1 :=
  let fn := s.op.fn
  if !(s.mayTest fn || s.maySelect fn) then .fault .notEnabled
  else
    let s : State := { s with tasks := s.tasks.map fun k => if k.fn == fn then s.testPreq k else k }
    let s := (s.tasks.filter fun k => k.fn == fn).foldl State.askPreq s
    match (if s.maySelect fn then s.candidate fn else none) with
    | none => .next s
    | some k =>
      if k.st = .suspended then .next (s.setTask k.tid fun k => { k with st := .chosen })
      else
        match s.readImage k with
        | .page s w => .next (s.setTask k.tid fun k => { k with wait := some w })
        | .bad _ => .next (s.setTask k.tid fun k => { k with status := 3, detail := 11, wait := none })
        | .ok (im, sg) =>
          .next (s.setTask k.tid fun k => { k with st := .chosen, wait := none, image := im, segs := sg })

/-! ## Placing (20 R410) -/

/-- The restore chain of a re-execution is over, or there is none (08 R216). -/
def State.chainOver (s : State) (k : Task) : Bool :=
  match k.chain with
  | none => true
  | some c => ((s.cmd? c).map fun x => x.st == .finished).getD true

/-- A task's next gang can be placed now. -/
def State.mayPlace (s : State) (k : Task) (saved : Bool) : Bool :=
  k.live && k.status == 0 && !(s.fn k.fn).halted && (k.saved != []) == saved && s.chainOver k && (s.nextPlaces k).isSome

/-- What a chosen task becomes when its first gang stands. -/
def Task.placed (k : Task) : Task := { k with st := if k.rerun then .rerun else .running }

/-- GANG_PLACEMENT: one gang whole, its threads started. -/
def execGangPlacement (s : State) : Out1 :=
  match s.task? s.op.task with
  | none => .fault .notEnabled
  | some k =>
    if !s.mayPlace k false then .fault .notEnabled
    else
      match s.nextPlaces k, k.nextGang with
      | some l, some g =>
        let s := (l.foldl (fun s x => s.installVcore k x) s).stand l
        .next (s.setTask k.tid fun k => { k.placed with placedGangs := k.placedGangs ++ [g] })
      | _, _ => .fault .notEnabled

/-- Waits of a withdrawn thread are made anew (20 R415): a page is asked for again, and a wait list is joined again. -/
def Thread.again' (t : Thread) (order : Nat) : Thread :=
  { t with
    park := match t.park with
      | some (.page w) => if w.failed then some (.page w) else none
      | some (.stf _ _ _) => none
      | p => p,
    windows := t.windows.map fun w => match w.res with
      | .wait (.defer (.page p) i sh) => { w with res := .wait (.defer (.page { p with woken := true }) i sh) }
      | .wait (.defer (.full k _) i sh) => { w with res := .wait (.defer (.full k (order + w.wid)) i sh) }
      | _ => w,
    runnels := t.runnels.map fun y => { y with wait := y.wait.map fun w => { w with woken := true } } }

/-- The last number that a thread's windows take in the order. -/
def Thread.lastWid (t : Thread) : Nat := t.windows.foldl (fun n w => Nat.max n w.wid) 0

/-- The threads of a list are withdrawn, one after another. [DEDUCED, log 63] -/
def State.withdraw (s : State) (l : List Thread) : List Thread × State :=
  l.foldl (fun (a : List Thread × State) t =>
    (a.1 ++ [t.again' a.2.order], { a.2 with order := a.2.order + t.lastWid + 1 })) ([], s)

/-- RESTORE: one gang of a suspended task comes back. -/
def execRestore (s : State) : Out1 :=
  match s.task? s.op.task with
  | none => .fault .notEnabled
  | some k =>
    if !s.mayPlace k true then .fault .notEnabled
    else
      match s.nextPlaces k with
      | none => .fault .notEnabled
      | some l =>
        let gang := k.nextSaved
        let s := (gang.zip l).foldl (fun s y =>
          let (ts, s) := s.withdraw y.1.threads
          s.restoreVcore k { y.1 with threads := ts } y.2) s
        let vus := gang.map (·.vc.vu)
        let wake (m : MatQ) : MatQ :=
          if vus.contains m.vu then { m with page := m.page.map fun w => { w with woken := true } } else m
        let s : State := ({ s with matq := s.matq.map wake } : State).stand l
        let s := (s.cmds.filter fun c => vus.contains c.vu).foldl State.resend s
        .next (s.setTask k.tid fun k =>
          { k.placed with saved := k.saved.filter fun y => !vus.contains y.vc.vu })

/-! ## Pre-emption (20 R413 to R415) -/

/-- The state with some tasks off their cores, for the choice of victims. -/
def State.without (s : State) (ts : List Nat) : State :=
  { s with vcores := s.vcores.filter fun v => !ts.contains v.task, threads := s.threads.filter fun t => !ts.contains t.task }

/-- The first of two running tasks is the earlier victim: lower priority, later accepted. -/
def victimFirst (a b : Task) : Bool := a.prio < b.prio || (a.prio == b.prio && b.tid < a.tid)

/-- Puts a victim in its place. -/
def insertVictim (x : Task) : List Task → List Task
  | [] => [x]
  | y :: t => if victimFirst x y then x :: y :: t else y :: insertVictim x t

/-- Whole tasks until the launch's first gang fits; none where even all would not do. -/
def State.victims (s : State) (k : Task) : List Task → List Nat → Option (List Nat)
  | l, got =>
    match l with
    | [] => none
    | v :: t =>
      let got := got ++ [v.tid]
      if ((s.without got).nextPlaces k).isSome then some got else s.victims k t got

/-- The launch that waits for room: one that has been chosen and not placed, or the one that would be chosen next. -/
def State.needsRoom (s : State) (fn : Nat) : Option Task :=
  (s.tasks.find? fun k => k.fn == fn && k.st == .chosen && k.status == 0).or (s.candidate fn)

/-- A task has a vcore that stands on a core. -/
def State.stands (s : State) (k : Task) : Bool := s.vcores.any fun v => v.task == k.tid && v.placed && !v.ended

/-- The victims of the pre-emption that the next launch needs. -/
def State.launchVictims (s : State) (fn : Nat) : List Nat :=
  match s.needsRoom fn with
  | none => []
  | some k =>
    if (s.nextPlaces k).isSome then []
    else
      let low := (s.tasks.filter fun x => x.fn == fn && (x.st == .running || x.st == .rerun) && x.status == 0 && s.stands x &&
        x.prio < s.effPrio k)
      (s.victims k (low.foldr insertVictim []) []).getD []

/-- A pre-emption is asked for. -/
def State.preempts (s : State) (fn : Nat) : Bool :=
  let f := s.fn fn
  !f.halted && (f.halt != [] || f.tear != [] || s.launchVictims fn != [])

/-- A thread of the partition is on its way to another slot (20 R415). -/
def State.migrating (s : State) (fn : Nat) : Bool :=
  s.threads.any fun t => t.fw.isNone && s.fnOf t == fn && (match t.park with | some (.moving _ _) => true | _ => false)

/-- PREEMPTION: every core of the partition stops; every thread stands at an instruction boundary. -/
def execPreemption (s : State) : Out1 :=
  let fn := s.op.fn
  if !s.preempts fn || s.migrating fn then .fault .notEnabled
  else
    let vs := if (s.fn fn).halt = [] && (s.fn fn).tear = [] then (s.launchVictims fn).map (·, false) else []
    .next (s.setFn fn fun f => { f with halt := f.halt ++ vs, halted := true })

/-- What a suspended thread leaves behind: the elements that its read runnels hold are fetched again (02 R74). -/
def Thread.unbuffered (t : Thread) : Thread := { t with runnels := t.runnels.map fun y => { y with ahead := [] } }

/-- Something of a task is left to be saved or placed: a task whose vcores have all ended is only waiting for its end. -/
def State.suspendable (s : State) (k : Task) : Bool := s.stands k || k.saved != [] || k.nextGang.isSome

/-- Write elements of a task are still to be drained before its save; one that waits for a page is saved with its thread (02 R74,
20 R415). -/
def State.undrained (s : State) (tid : Nat) : Bool :=
  s.threads.any fun t => t.task == tid && t.fw.isNone && t.runnels.any fun y =>
    y.pushed != [] && (match y.wait with | some w => w.woken | none => true)

/-- Saves a task whole: it waits in the ready set (20 R414, R417); its MMAs that have not been performed rewind (14 R353). [DESIGN CHOICE, log 64] -/
def State.suspendTask (s : State) (tid : Nat) (held : Bool) : State :=
  let mine := s.vcores.filter fun v => v.task == tid && v.placed && !v.ended
  let saved := mine.map fun v =>
    (⟨{ v with resident := false }, (s.threads.filter fun t => t.vu == v.vu && t.fw.isNone).map Thread.unbuffered⟩ : Saved)
  let s := mine.foldl (fun s v =>
    ((s.saveVcore v.vu).setVcore v.vu fun v => { v with placed := false, resident := false }).remap v.vu) s
  let vus := mine.map (·.vu)
  let s : State := { s with
    vcores := s.vcores.filter fun v => !vus.contains v.vu,
    threads := s.threads.filter fun t => !(t.task == tid && t.fw.isNone),
    matq := s.matq.map fun m => if m.vu / 1024 == tid then { m.rewound with core := 4096 } else m }
  let now := s.tick
  (s.setTask tid fun k => { k with st := .suspended, saved := k.saved ++ saved, held := held || k.held, since := now }).recount
    (mine.map (·.core)).eraseDups

/-- The task can be acted on by a halt: it runs, or is on its way to it, and has not ended. -/
def State.stoppable (s : State) (tid : Nat) : Bool := match s.task? tid with | some k => k.live && k.status == 0 | none => false

/-- A halt suspends a task. -/
def State.haltTask (s : State) (x : Nat × Bool) : State :=
  match s.task? x.1 with
  | some k => if s.stoppable x.1 && s.suspendable k then s.suspendTask x.1 x.2 else s
  | none => s

/-- A halt tears a task down: its vcores leave their cores with nothing saved (20 R411). -/
def State.endTask (s : State) (x : Nat × Nat) : State :=
  match s.task? x.1 with
  | some k => if s.stoppable x.1 then
      ({ s with threads := s.threads ++ k.saved.flatMap (·.threads) } : State).stopTask x.1 5 x.2 else s
  | none => s

/-- PREEMPTION_SAVE: the victims are saved, torn-down tasks end, and the other tasks go on from their boundaries. A ready set that is
full now is signalled (20 R421). -/
def execPreemptionSave (s : State) : Out1 :=
  let fn := s.op.fn
  let f := s.fn fn
  if !f.halted || f.halt.any fun x => s.undrained x.1 then .fault .notEnabled
  else
    let full := s.queuesFull fn
    let s := f.halt.foldl State.haltTask (f.tear.foldl State.endTask s)
    let mine := s.threads.filter fun t => t.fw.isNone && s.fnOf t == fn
    let (ts, s) := s.withdraw mine
    let s : State := { s with threads := s.threads.map fun t => (ts.find? fun x => x.uid == t.uid).getD t }
    let s := (s.setFn fn fun f => { f with halt := [], tear := [], halted := false }).refill
    .next (if !full && s.queuesFull fn then s.msix fn 0 else s)

end Sys2Proof.Machine
end

