-- ==== Sys2Proof/Machine/TaskEnd.lean ====
section
/-!
DEFINITION. The end of a task: its final digest, the check against an expected one, the serialised re-execution, the digest
report and the completion record: TASK_END and REEXECUTION_END (08 R214 to R218; 20 R406, R407; 25 R473).
-/
namespace Sys2Proof.Machine

/-! ## SHA-256

The spec names the function (08 R214; 22 R453); its constants are made from the first primes, as its standard says. -/

/-- A word of the function. -/
abbrev Sha := BitVec 32

/-- The greatest number below 2^`n` whose `k`-th power is at most `x`. -/
def rootOf (k x : Nat) : Nat → Nat
  | 0 => 0
  | n + 1 => let r := 2 * rootOf k (x / 2 ^ k) n; if (r + 1) ^ k ≤ x then r + 1 else r

/-- The primes below a number, ascending. -/
def primesBelow (n : Nat) : List Nat := (List.range n).filter fun p => 2 ≤ p && (List.range p).all fun d => d < 2 || p % d != 0

/-- The first 32 bits behind the point of the `k`-th roots of the primes below a number. -/
def rootBits (k below : Nat) : List Sha := (primesBelow below).map fun p => BitVec.ofNat 32 (rootOf k (p * 2 ^ (32 * k)) 40)

/-- A word turned by three amounts, one upon the other; the last turn is a shift where `cut` says so. -/
def Sha.mix (x : Sha) (i j k : Nat) (cut : Bool := false) : Sha :=
  x.rotateRight i ^^^ x.rotateRight j ^^^ (if cut then x >>> k else x.rotateRight k)

/-- The schedule, latest word first: `n` more words before those there. -/
def shaMore : Nat → List Sha → List Sha
  | 0, w => w
  | n + 1, w =>
    let back (i : Nat) : Sha := w.getD (i - 1) 0
    shaMore n ((back 16 + (back 15).mix 7 18 3 true + back 7 + (back 2).mix 17 19 10 true) :: w)

/-- The two sequences that the rounds go through, latest element first, four elements of each. -/
structure ShaRun where
  a : List Sha
  e : List Sha

/-- One round: the next element of each sequence. -/
def ShaRun.next (r : ShaRun) (kw : Sha) : ShaRun :=
  let a (i : Nat) : Sha := r.a.getD i 0
  let e (i : Nat) : Sha := r.e.getD i 0
  let pick := e 2 ^^^ (e 0 &&& (e 1 ^^^ e 2))
  let most := (a 0 &&& (a 1 ||| a 2)) ||| (a 1 &&& a 2)
  let t := e 3 + (e 0).mix 6 11 25 + pick + kw
  ⟨(t + (a 0).mix 2 13 22 + most) :: r.a.take 3, (a 3 + t) :: r.e.take 3⟩

/-- The hash after a block of 16 words. -/
def shaStep (h block : List Sha) : List Sha :=
  let kws := ((shaMore 48 block.reverse).reverse.zip (rootBits 3 312)).map fun x => x.1 + x.2
  let r := kws.foldl ShaRun.next ⟨h.take 4, h.drop 4⟩
  (h.zip (r.a ++ r.e)).map fun x => x.1 + x.2

/-- SHA-256: the 32 bytes of the digest. -/
def sha256 (l : List Byte) : List Byte :=
  let n := l.length
  let text := l ++ 0x80#8 :: List.replicate ((119 - n % 64) % 64) 0 ++ (bytesOfNat 8 (8 * n)).reverse
  let word (i : Nat) : Sha := BitVec.ofNat 32 (natOfBytes ((text.drop (4 * i)).take 4).reverse)
  let block (b : Nat) : List Sha := (List.range 16).map fun i => word (16 * b + i)
  let h := (List.range (text.length / 64)).foldl (fun h b => shaStep h (block b)) (rootBits 2 20)
  h.flatMap fun x => (bytesOfNat 4 x.toNat).reverse

/-! ## The final digest (08 R214) -/

/-- The final digest of a task, bytes 0 to 31 as a little-endian number. -/
def State.finalDigest (s : State) (k : Task) : BitVec 256 :=
  let v (i : Nat) : Dig := (s.vcore (k.tid * 1024 + i)).vdig
  let atoms := k.atoms.map fun x => digBlock 2 x.1 255 x.2.1 (s.num x.2.2 8)
  let trailer : Dig := BitVec.ofNat 128 (k.atoms.length % 2 ^ 64 + k.peerix * 2 ^ 64)
  BitVec.ofNat 256 (natOfBytes (sha256 ((((List.range 1024).map v) ++ atoms ++ [trailer]).flatMap fun b => bytesOfNat 16 b.toNat)))

/-! ## Completion (20 R406, R407) -/

/-- Nothing of a task is left to run or to land. -/
def State.taskOver (s : State) (k : Task) : Bool :=
  !(s.cmds.any fun c => c.task == k.tid && c.st != .finished) && !(s.threads.any fun t => t.task == k.tid && t.fw.isNone) &&
  !(s.fills.any fun f => f.vu / 1024 == k.tid) &&
  (k.status != 0 ||
    (k.live && k.st != .chosen && k.saved == [] && k.nextGang.isNone && s.chainOver k &&
      (s.vcores.all fun v => v.task != k.tid || v.ended) && !(s.msgs.any fun m => m.2.fromVu / 1024 == k.tid)))

/-- The completion record. -/
def Task.complWords (k : Task) : List Word :=
  [w64 (k.tag.toNat * 2 ^ 32 + k.trap2 % 256 * 2 ^ 24 + k.detail % 256 * 2 ^ 8 + k.status % 256), w64 (k.trapGtid % 2 ^ 13),
   w64 k.drep, 0, 0, 0, 0, 0]

/-- The digest report (08 R217). -/
def reportWords (same : Bool) (dstat : Nat) (first rerun : BitVec 256) : List Word :=
  let ws (x : BitVec 256) : List Word := (List.range 4).map fun i => w64 (x.toNat / 2 ^ (64 * i) % 2 ^ 64)
  w64 (b2n same * 2 ^ 7 + dstat) :: (ws first ++ ws rerun)

/-- What the whole task's accesses and engine writes are ordered before. -/
def State.taskClock (s : State) (k : Task) : Clock :=
  (s.cmds.filter fun c => c.task == k.tid).foldl (fun x c => x.join c.clock) (k.clock.join k.endClk)

/-- The task leaves the device: its vcores, commands, pins and BARs are gone. -/
def State.removeTask (s : State) (k : Task) : State :=
  let s := (s.vcores.filter fun v => v.task == k.tid && v.placed).foldl (fun s v =>
    (s.setVcore v.vu fun v => { v with placed := false, resident := false }).remap v.vu) s
  let cores := ((s.vcores.filter fun v => v.task == k.tid && v.placed).map (·.core)).eraseDups
  State.recount { s with
    dies := s.dies.map (Die.without · k.tid),
    vcores := s.vcores.filter fun v => v.task != k.tid, cmds := s.cmds.filter fun c => c.task != k.tid,
    matq := s.matq.filter fun m => m.vu / 1024 != k.tid, pins := s.pins.filter fun p => p.task != k.tid,
    tasks := s.tasks.filter fun x => x.tid != k.tid } cores

/-- A task whose mismatch the host handles leaves with its report, and its completion record is not written (08 R216, R218). [DEDUCED, log 62] -/
def State.withhold (s : State) (k : Task) (report : List Word) : State :=
  let v := s.gateView k.fn k.wait
  let rep := if k.drep = 0 then [] else report
  match vxAll (fun i => s.vaAt v (k.drep + 8 * i) true) (List.range rep.length) with
  | .page s w => s.setTask k.tid fun k => { k with wait := some w }
  | .bad _ => s.removeTask k
  | .ok l =>
    let c := s.taskClock k
    ((l.zip rep).foldl (fun s y => s.devWord y.1 y.2 c) s).removeTask k

/-- Completes a task: the digest report, DW1 to DW7, then DW0 by STF, and the completion vector (20 R407, R421). -/
def State.completeTask (s : State) (k : Task) (report : List Word) : Option State :=
  let v := s.gateView k.fn k.wait
  let rep := if k.drep = 0 then [] else report
  let places : Vx (List Place × Place) :=
    (vxAll (fun i => s.vaAt v (k.drep + 8 * i) true) (List.range rep.length)).bind fun l =>
    (s.vaAt v k.compl true).bind fun p => .ok (l, p)
  match places with
  | .page s w => some (s.setTask k.tid fun k => { k with wait := some w })
  | .bad _ => some (s.removeTask k)
  | .ok (l, p) =>
    if s.full p.loc then none
    else
      let c := s.taskClock k
      let s := (l.zip rep).foldl (fun s y => s.devWord y.1 y.2 c) s
      let ws := k.complWords
      let s := ((List.range 7).map (· + 1)).foldl (fun s i =>
        s.devWord { p with addr := p.addr + 8 * i, loc := p.loc + 8 * i } (ws.getD i 0) c) s
      let s := (s.devStf p (ws.getD 0 0) c).removeTask k
      some (if k.cirq then s.msix k.fn 2 else s)

/-- Counts an event of a die's health block (25 R469). -/
def State.count (s : State) (die i : Nat) : State :=
  s.setDie die fun d => { d with health := { d.health with
    live := d.health.live.setIfInBounds i (Nat.min (2 ^ 32 - 1) ((d.health.live[i]?.getD 0) + 1)) } }

/-- The hardware-fault report (25 R473). -/
def State.hwFault (s : State) (source : Nat) (tag : BitVec 32) (fn site die : Nat) : State :=
  s.assist 0 ⟨9, die, [w64 source, w64 (tag.toNat * 2 ^ 32 + fn), w64 (site + die * 2 ^ 10)]⟩

/-- The counts and reports that a digest verdict brings: once, when its completion is written. -/
def State.digestCount (s : State) (k : Task) (dstat : Nat) : State :=
  match dstat with
  | 1 => s.count 0 4
  | 2 => s.count 0 5
  | 3 => (s.count 0 6).hwFault 1 k.tag k.fn 0x3FF (s.gateDie k.fn)
  | 4 => s.assist k.fn ⟨6, s.gateDie k.fn, [w64 k.compl, w64 k.drep]⟩
  | _ => s

/-- Completes a task with a digest report, and counts it where that is done. -/
def State.endWith (s : State) (k : Task) (same : Bool) (dstat : Nat) (first rerun : BitVec 256) : Out1 :=
  let report := reportWords same dstat first rerun
  match if dstat = 4 then some (s.withhold k report) else s.completeTask k report with
  | none => .fault .notEnabled
  | some s' => .next (if (s'.task? k.tid).isSome then s' else s'.digestCount k dstat)

/-- Starts the serialised re-execution (08 R216): nothing of the first run is left but memory; the restore chain goes first. -/
def State.startRerun (s : State) (k : Task) (first : BitVec 256) : State :=
  let id := s.nextCmd
  let segs : Vector Seg 8 := k.segsFor 0
  let chain := k.rchain.map fun a =>
    ({ id := id, thr := s.nextUid, task := k.tid, vu := k.tid * 1024, core := ((s.fn k.fn).part.headD 0) * 16,
       kind := .chain 16, st := .active, seg := 2, segs := segs, head := a, det := k.det, clock := k.clock,
       order := s.order } : Cmd)
  let k' : Task := { k with st := .rerun, rerun := true, placedGangs := [], bars := [], atoms := [], first := first, uids := [],
                            turn := 0, turnGang := 0, chain := chain.map (·.id) }
  let s := s.removeTask k
  { s with
    tasks := s.tasks ++ [k'], cmds := s.cmds ++ chain.toList, nextCmd := s.nextCmd + 1, nextUid := s.nextUid + 1,
    recs := s.recs.map fun (r : WordRec) => { r with acc := r.acc.filter fun a => !k.uids.contains a.thr } }

/-- A task can end now. -/
def State.mayEnd (s : State) (k : Task) : Bool := s.taskOver k && waitOver k.wait && !(s.fn k.fn).halted

/-- TASK_END: forms and checks the final digest, and completes the task or has it executed again. -/
def execTaskEnd (s : State) : Out1 :=
  match s.task? s.op.task with
  | none => .fault .notEnabled
  | some k =>
    if !s.mayEnd k || (k.rerun && k.status = 0) then .fault .notEnabled
    else if k.status ≠ 0 then
      match s.completeTask k [] with
      | none => .fault .notEnabled
      | some s' => .next s'
    else
      let d := s.finalDigest k
      match k.serial, k.expd with
      | true, none => s.endWith k false 0 0 d
      | true, some e => s.endWith k false (if d = e then 2 else 3) 0 d
      | false, none => s.endWith k false 0 d 0
      | false, some e =>
        if d = e then s.endWith k false 1 d 0
        else if bit (s.die (s.gateDie k.fn)).split 5 then s.endWith k false 4 d 0
        else .next (s.startRerun k d)

/-- REEXECUTION_END: compares the digest of the re-execution, writes the report and completes the task. -/
def execReexecutionEnd (s : State) : Out1 :=
  match s.task? s.op.task with
  | none => .fault .notEnabled
  | some k =>
    if !s.mayEnd k || !k.rerun || k.status ≠ 0 then .fault .notEnabled
    else
      let d := s.finalDigest k
      s.endWith k (d = k.first) (if k.expd = some d then 2 else 3) k.first d

end Sys2Proof.Machine
end

