-- ==== Sys2Proof/Machine/Service.lean ====
section
/-!
DEFINITION. What firmware and the host do to the memory system, and its own steps: TRANSLATION_WALK, fault service, TINV, page
commands, channel retirement, recompression, free lists, and thermal displacement (21 R425 to R449).
-/
namespace Sys2Proof.Machine

/-! ## Waits for pages -/

/-- Changes every wait for a page that is still under way. -/
def State.mapWaits (s : State) (f : PageWait → PageWait) : State :=
  let why (w : Why) : Why := match w with | .page p => .page (f p) | x => x
  let win (w : Window) : Window := match w.res with
    | .wait (.defer y i sh) => { w with res := .wait (.defer (why y) i sh) }
    | _ => w
  let thr (t : Thread) : Thread :=
    { t with park := match t.park with | some (.page p) => some (.page (f p)) | p => p,
             windows := t.windows.map win, runnels := t.runnels.map fun y => { y with wait := y.wait.map f } }
  { s with
    inputs := s.inputs.map fun (l : List Event) => l.map fun (e : Event) => { e with wait := e.wait.map f },
    threads := s.threads.map thr,
    cmds := s.cmds.map fun (c : Cmd) => { c with st := match c.st with | .page p => .page (f p) | x => x },
    matq := s.matq.map fun (m : MatQ) => { m with page := m.page.map f },
    fills := s.fills.map fun (x : Fill) => { x with m := { x.m with page := x.m.page.map f } },
    tasks := s.tasks.map fun (k : Task) => { k with wait := k.wait.map f },
    dies := s.dies.map fun (d : Die) =>
      { d with building := d.building.map fun (q : StepReq) => { q with wait := q.wait.map f } },
    fns := s.fns.map fun (x : Fn) =>
      { x with queues := x.queues.map fun (q : Queue) => { q with wait := q.wait.map f, kwait := q.kwait.map f } } }

/-! ## TRANSLATION_WALK (21 R425, R428) -/

/-- TRANSLATION_WALK: a valid leaf that the walk finds enters the die's TLB. -/
def execTranslationWalk (s : State) : Out1 :=
  let die := s.op.die % 2
  let fn := s.op.fn
  let va := s.op.addr
  match s.leafOf die fn va, s.tlb.any fun x => x.die == die && x.fn == fn && x.page == va / 2 ^ 16 with
  | .leaf e large _, false => .next { s with tlb := ⟨die, fn, va / 2 ^ 16, large, e⟩ :: s.tlb }
  | _, _ => .next s

/-! ## FCMD (21 R433) -/

/-- The fields of FCMD, and of TINV and PCMD: function and page. -/
def cmdFn (w : Word) : Nat := bits w 59 52
def cmdPage (w : Word) : Nat := bits w 51 16

/-- An entry that WAKE or FAIL names. -/
def fcmdHits (w : Word) (fn page : Nat) : Bool :=
  fn == cmdFn w && (if bit w 61 then page / 32 == cmdPage w / 32 else page == cmdPage w)

/-- Frees the entries that a command names, and ends the waits on them. -/
def State.fcmdEnd (s : State) (die : Nat) (w : Word) (failed : Bool) : State :=
  let pages := (s.die die).fbuf.toList.filterMap fun e => match e with
    | some e => if fcmdHits w e.fn e.page then some (e.fn, e.page) else none
    | none => none
  let s := s.setDie die fun d => { d with fbuf := d.fbuf.map fun e => match e with
    | some e => if fcmdHits w e.fn e.page then none else some e
    | none => none }
  s.mapWaits fun p =>
    if p.die == die && !p.dropped && p.held.isNone && !p.woken && pages.contains (p.fn, p.page) then { p with woken := true, failed := failed }
    else p

/-- FCMD_WAKE. -/
def execFcmdWake (s : State) : Out1 := .next (s.fcmdEnd (s.op.die % 2) s.op.word false)

/-- FCMD_FAIL. -/
def execFcmdFail (s : State) : Out1 := .next (s.fcmdEnd (s.op.die % 2) s.op.word true)

/-- FCMD_REPLAY_ALL. -/
def execFcmdReplayAll (s : State) : Out1 :=
  let die := s.op.die % 2
  .next ((s.setDie die fun d => { d with drop := false }).mapWaits fun p =>
    if p.die == die && p.dropped then { p with woken := true } else p)

/-! ## TINV (21 R429) -/

/-- The pages that an invalidation of a page covers: those of the large page that maps it, or the one. -/
def State.pageSpan (s : State) (fn page : Nat) : Nat × Nat :=
  let large := s.tlb.any (fun x => x.fn == fn && x.large && x.page / 32 == page / 32) ||
    (match s.walk fn (page * 2 ^ 16) with | .leaf _ l _ => l | .fault _ => false)
  if large then (page / 32 * 32, 32) else (page, 1)

/-- A page of a function that an invalidation covers. -/
def State.tinvCovers (s : State) (w : Word) (fn page : Nat) : Bool :=
  match bits w 63 62 with
  | 1 => fn == cmdFn w && (let r := s.pageSpan (cmdFn w) (cmdPage w); r.1 ≤ page && page < r.1 + r.2)
  | 2 => fn == cmdFn w
  | 3 => true
  | _ => false

/-- The capture set that an ATTN at its engine consumes. -/
def State.setOf (s : State) (m : MatQ) : Option CapSet :=
  match m.i with
  | .attn x => (s.thread? m.thr).bind fun t => if x.cs then t.caps[1] else t.caps[0]
  | _ => none

/-- An ATTN that has not retired holds a capture with a record in a page that is covered, and reads it through the translation
that it resolved (06 R180). -/
def State.tinvHeld (s : State) (covers : Nat → Nat → Bool) : Bool :=
  s.matq.any fun m => (s.setOf m).any fun c => c.leaves.any fun x => covers c.fn x.1

/-- The place lies in a leaf's frame. -/
def inLeaf (e : Word) (large : Bool) (loc : Nat) : Bool :=
  if entCmp e then
    let n := if large then 512 else 16
    blockBase (entryPa e) ≤ loc && (loc - blockBase (entryPa e)) / 2 ^ 12 % 8 == 0 && loc < blockBase (entryPa e + 8 * n)
  else entryPa e ≤ loc && loc < entryPa e + if large then 2 ^ 21 else 2 ^ 16

/-- Requests on the wait lists of a leaf's words have not begun (20 R415): they are translated again and join a list anew, so
that none is performed through the old leaf (21 R429, R440). [DEDUCED, log 55] -/
def State.relist (s : State) (fn : Nat) (e : Word) (large : Bool) : State :=
  let again (t : Thread) : Thread :=
    let w : PageWait := ⟨t.die, fn, 0, false, false, true, none⟩
    { t with
      park := match t.park with
        | some (.stf p x n) => if p.space = 0 && inLeaf e large p.loc then some (.page w) else some (.stf p x n)
        | p => p,
      windows := t.windows.map fun y => match y.res with
        | .wait (.defer (.full k _) i sh) => if inLeaf e large (8 * k) then { y with res := .wait (.defer (.page w) i sh) } else y
        | _ => y }
  let req (q : StepReq) : StepReq := if q.fn == fn && q.full.any (inLeaf e large) then { q with full := none } else q
  { s with
    threads := s.threads.map fun t => if s.fnOf t == fn then again t else t,
    dies := s.dies.map fun d => { d with building := d.building.map req } }

/-- TLB entries go, on both dies, the translations that capture sets with no ATTN at its engine have resolved, and the wait-list
requests that used them. -/
def State.dropTlb (s : State) (covers : Nat → Nat → Bool) : State :=
  let hit (x : Tlb) : Bool := covers x.fn x.page || (x.large && (List.range 32).any fun i => covers x.fn (x.page / 32 * 32 + i))
  let clean (t : Thread) (c : CapSet) : CapSet :=
    if s.matq.any fun m => m.thr == t.uid && (s.setOf m) == some c then c
    else { c with leaves := c.leaves.filter fun x => !covers c.fn x.1 }
  let gone := s.tlb.filter hit
  let s : State := { s with
    tlb := s.tlb.filter fun x => !hit x,
    threads := s.threads.map fun t => { t with caps := t.caps.map fun c => c.map (clean t) } }
  gone.foldl (fun s x => s.relist x.fn x.leaf x.large) s

/-- Starts an invalidation, which drops what it covers; one that finds another under way is ignored. -/
def State.tinv (s : State) (die : Nat) (w : Word) : State :=
  if (s.die die).tinv.isSome then s
  else (s.dropTlb (s.tinvCovers w)).setDie die fun d => { d with tinv := some w }

/-- TINV_PAGE. -/
def execTinvPage (s : State) : Out1 := .next (s.tinv s.op.die (w64 (2 ^ 62 + s.op.word.toNat % 2 ^ 62)))
/-- TINV_FUNCTION. -/
def execTinvFunction (s : State) : Out1 := .next (s.tinv s.op.die (w64 (2 ^ 63 + s.op.word.toNat % 2 ^ 62)))
/-- TINV_ALL. -/
def execTinvAll (s : State) : Out1 := .next (s.tinv s.op.die (w64 (3 * 2 ^ 62 + s.op.word.toNat % 2 ^ 62)))

/-- TINV_COMPLETE: the entries are gone and every ATTN that the invalidation waits for has retired. -/
def execTinvComplete (s : State) : Out1 :=
  match (s.die s.op.die).tinv with
  | none => .fault .notEnabled
  | some w =>
    if s.tinvHeld (s.tinvCovers w) then .fault .notEnabled
    else .next ((s.dropTlb (s.tinvCovers w)).setDie s.op.die fun d => { d with tinv := none })

/-! ## Page commands (21 R439, R440) -/

/-- The place of a page's byte under a leaf, conversions left out. -/
def rawLoc (e : Word) (o : Nat) : Nat :=
  if entCmp e then blockBase (entryPa e + 8 * (o / 4096)) + o % 4096 else entryPa e + o

/-- The FE bits and access records of a page's words are gone. -/
def State.forgetPage (s : State) (e : Word) (size : Nat) : State :=
  (List.range (size / 8)).foldl (fun s i =>
    let a := rawLoc e (8 * i)
    { s.setFull a true with recs := s.recs.filter fun r => r.key != a / 8, past := s.past.filter fun r => r.key != a / 8 }) s

/-- The allocations of a compressible page: block-map entry, PA, granules. -/
def State.blocksOf (s : State) (e : Word) (size : Nat) : List (Nat × Nat × Nat) :=
  if !entCmp e then []
  else ((List.range (size / 4096)).map fun i => entryPa e + 8 * i).filterMap fun m =>
    let w := s.dword m
    if bit w 63 then some (m, entryPa w, bits w 62 60 + 1) else none

/-- The allocations of an old page go to the return rings, their entries to V = 0. -/
def State.returnBlocks (s : State) (l : List (Nat × Nat × Nat)) : State :=
  l.foldl (fun s x => (s.setNum x.1 8 0).giveGranules (dieOfPa x.2.1) x.2.1 x.2.2) s

/-- The return rings have room for the allocations. -/
def State.returnRoom (s : State) (l : List (Nat × Nat × Nat)) : Bool :=
  [0, 1].all fun d =>
    let n := (l.filter fun x => dieOfPa x.2.1 == d).length
    n = 0 || s.mayReturn d n

/-- Pinned lines of a leaf (02 R77; 21 R428). -/
def State.pinned (s : State) (e : Word) (large : Bool) : Bool := s.pins.any fun p => inLeaf e large (512 * p.line)

/-- The page command is over with a code. -/
def State.pageCode (s : State) (die code : Nat) : State := s.setDie die fun d => { d with pstat := code, pcmd := none }

/-- The leaf that a page command acts on: its entry, size and place, or the code that refuses it. -/
def State.pageLeaf (s : State) (w : Word) : Nat ⊕ (Word × Bool × Nat) :=
  match s.walk (cmdFn w) (cmdPage w * 2 ^ 16) with
  | .fault _ => .inl 2
  | .leaf e large ent => if s.pinned e large then .inl 1 else .inr (e, large, ent)

/-- A page command begins: from now on requests to the leaf are held. -/
def State.pageBegin (s : State) (die : Nat) (w e : Word) (large : Bool) (ent : Nat) (new : Option Word) : State :=
  let n := if large then 32 else 1
  s.setDie die fun d => { d with pcmd := some ⟨cmdFn w, cmdPage w / n * n, n, ent, e, new⟩ }

/-- Its leaf is a large page. -/
def PageCmd.large (c : PageCmd) : Bool := c.pages == 32
/-- The bytes of its leaf. -/
def PageCmd.size (c : PageCmd) : Nat := c.pages * 2 ^ 16
/-- It covers a page of a function. -/
def PageCmd.covers (c : PageCmd) (fn page : Nat) : Bool := fn == c.fn && c.page ≤ page && page < c.page + c.pages

/-- Held requests go on: each is translated again (21 R440, R444). -/
def State.wakeHeld (s : State) : State := s.mapWaits fun p => if p.held.isSome then { p with woken := true } else p

/-- The words of the old leaf move to the new one, data, poison, FE bits and records, and what else names their places. -/
def State.movePage (s : State) (die : Nat) (c : PageCmd) (n : Word) : State :=
  let words := (List.range (c.size / 8)).map fun i => (i, s.pageWord (rawLoc c.old (8 * i)))
  let s := s.forgetPage c.old c.size
  let s := words.foldl (fun s x => s.setPageWord (rawLoc n (8 * x.1)) x.2) s
  let atom (x : Nat × Nat × Nat) : Nat × Nat × Nat :=
    if x.1 == 0 && c.covers c.fn (x.2.1 / 2 ^ 16) then (x.1, x.2.1, rawLoc n (x.2.1 % c.size)) else x
  let task (k : Task) : Task := if k.fn == c.fn then { k with atoms := k.atoms.map atom } else k
  let s : State := { s with tasks := s.tasks.map task }
  if entCmp n then s.setDie die fun d => { d with
    dirty := d.dirty ++ (List.range (c.size / 4096)).map fun i => ⟨entryPa n + 8 * i, 8⟩ } else s

/-- A page command ends: the data moves or goes, the leaf changes, the translations of the old leaf are gone, and the held
requests go on. It waits for the ATTNs that read through the leaf (21 R429) and for room in the return rings. -/
def State.pageEnd (s : State) (die : Nat) (c : PageCmd) : Out1 :=
  let back := s.blocksOf c.old c.size
  if s.tinvHeld c.covers || !s.returnRoom back then .fault .notEnabled
  else
    let s := match c.new with
      | some n => s.movePage die c n
      | none => s.forgetPage c.old c.size
    let s := (s.returnBlocks back).setNum c.ent 8 (match c.new with | some n => n.toNat | none => c.old.toNat % 2 ^ 63)
    .next ((((s.dropTlb c.covers).relist c.fn c.old c.large).pageCode die 0).wakeHeld)

/-- A candidate for tier placement, posted with the accesses counted since the last one (21 R440, R450). [DEDUCED, log 66] -/
def State.pageCandidate (s : State) (die : Nat) (w : Word) : Out1 :=
  if !bit (s.die die).split 3 || (s.pageLeaf w).isLeft then .fault .notEnabled
  else .next (s.next.assist 0 ⟨4, die, [w64 (2 ^ 63), w64 (w.toNat % 2 ^ 60 / 2 ^ 16 * 2 ^ 16), Config.accesses s.tick]⟩)

/-- PAGE_MIGRATE: with `op.wid` = 0 PCMD is written, with 1 the command goes on, with 2 the device posts a candidate.
[DEDUCED, log 66] -/
def execPageMigrate (s : State) : Out1 :=
  let die := s.op.die
  let w := s.op.word
  if s.op.wid = 2 then s.pageCandidate die w
  else
  match s.op.wid, (s.die die).pcmd with
  | 0, none =>
    match s.pageLeaf w with
    | .inl c => .next (s.pageCode die c)
    | .inr (e, large, ent) =>
      let n := (s.die die).pnew
      if !entV n || !s.leafOk (cmdFn w) large n || entSeal n != entSeal e || entKey n != entKey e then .next (s.pageCode die 3)
      else .next (s.pageBegin die w e large ent (some n))
  | 0, some _ => .next s
  | _, some c => if c.new.isSome then s.pageEnd die c else .fault .notEnabled
  | _, none => .fault .notEnabled

/-- PAGE_UNMAP: with `op.wid` = 0 PCMD is written, else the command goes on. -/
def execPageUnmap (s : State) : Out1 :=
  let die := s.op.die
  let w := s.op.word
  match s.op.wid, (s.die die).pcmd with
  | 0, none =>
    match s.pageLeaf w with
    | .inl c => .next (s.pageCode die c)
    | .inr (e, large, ent) => .next (s.pageBegin die w e large ent none)
  | 0, some _ => .next s
  | _, some c => if c.new.isNone then s.pageEnd die c else .fault .notEnabled
  | _, none => .fault .notEnabled

/-- PCMD_INVALID; PCMD is ignored while a command is in progress. -/
def execPcmdInvalid (s : State) : Out1 := .next (if (s.die s.op.die).pcmd.isSome then s else s.pageCode s.op.die 4)

/-! ## Channel retirement (21 R443, R444) -/

/-- The channel map of both dies. -/
def State.retiredChannels (s : State) : List (Nat × Nat) := (s.die 0).chmap ++ (s.die 1).chmap

/-- CRET may retire the channel to the die's target. -/
def State.mayRetire (s : State) (die ch target : Nat) : Bool :=
  let l := s.retiredChannels
  ch / 128 == die % 2 && !(l.any fun x => x.1 == ch) && !(l.any fun x => x.2 == target) &&
  !(target < 256 && !(l.any fun x => x.1 == target))

/-- The channel's bytes and poison marks move to the reserve region, and the map switches. -/
def State.moveChannel (s : State) (die ch t : Nat) : State :=
  let lo := ch * 2 ^ 31
  let dst := t * 2 ^ 31
  let size := 2000000000
  let cells := (s.mem.filter fun x => lo ≤ x.1 && x.1 < lo + size).map fun x => (x.1 - lo + dst, x.2)
  let marks := (s.poison.filter fun w => lo ≤ 8 * w && 8 * w < lo + size).map fun w => w - lo / 8 + dst / 8
  let mem := s.mem.filter fun x => x.1 < dst || dst + size ≤ x.1
  let poison := s.poison.filter fun w => 8 * w < dst || dst + size ≤ 8 * w
  let s : State := { s with mem := cells.foldl (fun m x => poke m x.1 x.2) mem, poison := marks.foldl insertKey poison }
  s.setDie die fun d => { d with chmap := d.chmap ++ [(ch, t)], cstat := 0, cret := none }

/-- CHANNEL_RETIRE: with `op.wid` = 0 CRET is written, and requests to the channel are held from then on; else the retirement
goes on: the channel moves and the held requests are released. [DEDUCED, log 66] -/
def execChannelRetire (s : State) : Out1 :=
  let die := s.op.die
  match s.op.wid, (s.die die).cret with
  | 0, none =>
    let ch := bits s.op.word 7 0
    let t := (s.die die).ctgt
    .next (if !bit s.op.word 63 then s
      else s.setDie die fun d => if s.mayRetire die ch t then { d with cret := some (ch, t) } else { d with cstat := 1 })
  | 0, some _ => .next s
  | _, some (ch, t) => .next (s.moveChannel die ch t).wakeHeld
  | _, none => .fault .notEnabled

/-! ## Recompression and free lists (21 R435 to R438) -/

/-- A block of a compressible page is recompressed into at least `n` granules, or waits for an allocation. -/
def State.recompress (s : State) (die map n : Nat) : State :=
  let d := s.die die
  let old := s.dword map
  let has := bit old 63
  let rest (s : State) : State := s.setDie die fun d => { d with dirty := d.dirty.filter fun x => x.map != map }
  match d.listFor n with
  | none => (rest s).setDie die fun d => { d with dirty := d.dirty ++ [⟨map, n⟩] }
  | some i =>
    if has && !s.mayReturn (dieOfPa (entryPa old)) 1 then (rest s).setDie die fun d => { d with dirty := d.dirty ++ [⟨map, n⟩] }
    else
      let (pa, s) := s.takeGranules die i
      let s := s.setNum map 8 (2 ^ 63 + (i - 1) * 2 ^ 60 + pa / 256)
      rest (if has then s.giveGranules (dieOfPa (entryPa old)) (entryPa old) (bits old 62 60 + 1) else s)

/-- LINE_RECOMPRESS: a dirty line of the compressible page at an address is evicted. -/
def execLineRecompress (s : State) : Out1 :=
  match s.leafOf s.op.die s.op.fn s.op.addr with
  | .fault _ => .next s
  | .leaf e large _ =>
    match (placeOf e large s.op.addr).blk with
    | none => .next s
    | some map => .next (s.next.recompress s.op.die map ((Config.granules s.tick).toNat + 1))

/-- FREE_LIST_REFILL: FLPROD of a list, or FLCONS of the return ring, is written, and the dirty lines are tried again. -/
def execFreeListRefill (s : State) : Out1 :=
  let die := s.op.die
  let i := s.op.wid
  let x := s.op.word.toNat % 2 ^ 32
  if 9 ≤ i then .next s
  else
    let s := s.setList die i fun f => if i = 0 then { f with cons := x } else { f with prod := x }
    .next ((s.die die).dirty.foldl (fun s y => s.recompress die y.map y.blk) s)

/-! ## Thermal displacement (21 R448, R449) -/

/-- The cores of the die's lee table in its order; a malformed table lists none. -/
def State.leeTable (s : State) (die : Nat) : List Nat :=
  let a := (s.die die).leeptr.toNat % 2 ^ 41
  let h := s.dword a
  let n := bits h 63 48
  if n = 0 || 1024 < n || bits h 47 0 != 0 then []
  else
    let l := (List.range n).map fun i => s.num (a + 8 + 2 * i) 2
    if l.any (1024 ≤ ·) then [] else l.map (coreAt die)

/-- A core's entry among the hot ones. -/
def Die.hotOf (d : Die) (core : Nat) : HotCore := (d.hot.find? fun h => h.core == core).getD ⟨core, 0, false⟩

/-- Changes it; an entry with nothing in it goes. -/
def Die.setHot (d : Die) (h : HotCore) : Die :=
  { d with hot := (d.hot.filter fun x => x.core != h.core) ++ (if h.disabled = 0 && !h.alternate then [] else [h]) }

/-- The first core of the lee table that takes a thread of a function from a core. -/
def State.leeCore (s : State) (die fn source : Nat) : Option Nat :=
  (s.leeTable die).find? fun c => c != source && s.coreOn c && (s.fn fn).part.contains (c / 16) &&
    ((s.die die).hotOf c).disabled == 0 && !((s.die die).hotOf c).alternate && s.freeSlots c != []

/-- THERMAL_CROSSING: the highest enabled slot of the core is disabled and its thread displaced, or the core is posted. A
thread in a trap handler moves after its ERET (11 R272), a forecast loop at its round's end (07 R203). -/
def execThermalCrossing (s : State) : Out1 :=
  let die := s.op.die % 2
  let core := coreAt die (s.op.wid % 1024)
  let h := (s.die die).hotOf core
  let slow (s : State) : State := s.setDie die fun d => d.setHot { h with alternate := true }
  let shut (s : State) : State := s.setDie die fun d => d.setHot { h with disabled := h.disabled + 1 }
  let counted (s : State) : State := s.count die 7
  if bit (s.die die).split 4 then
    let temp := (Config.temperature s.tick).toNat
    .next ((slow (counted s.next)).assist 0 ⟨5, die, [w64 (s.op.wid % 1024), w64 temp, w64 h.disabled]⟩)
  else if 8 ≤ h.disabled then .next (counted s)
  else
    match s.threads.find? fun t => t.fw.isNone && t.core == core && t.pslot + h.disabled == 7 &&
        (s.away t || (s.vcore t.vu).resident) with
    | none => .next (shut (counted s))
    | some t =>
      match s.leeCore die (s.fnOf t) core with
      | none => .next (slow (counted s))
      | some c =>
        let s := (shut (counted s)).count die 8
        if t.looping then
          let s := s.rejectAbove t.agent 0
          .next (s.updT t.agent fun x => { x with loop := x.loop.map fun l => { l with displaced := some c } })
        else if t.inh then .next (s.displaceTo t.uid c)
        else
          match s.freeSlots c with
          | i :: _ => .next (s.updT t.uid fun t => t.ship c i)
          | [] => .next s

/-- SLOT_REENABLE: one slot of a cooled core is enabled again. -/
def execSlotReenable (s : State) : Out1 :=
  let die := s.op.die % 2
  let core := coreAt die (s.op.wid % 1024)
  .next (s.setDie die fun d => let h := d.hotOf core; d.setHot { h with disabled := h.disabled - 1, alternate := false })

end Sys2Proof.Machine
end

