-- ==== Sys2Proof/Machine/Health.lean ====
section
/-!
DEFINITION. Operating a fleet: POWER_INTERVAL, HEALTH_LATCH, HEALTH_CLEAR and SOFT_ERROR (25 R469 to R473).
-/
namespace Sys2Proof.Machine

/-- Changes a die's health block. -/
def State.setHealth (s : State) (die : Nat) (f : Health → Health) : State :=
  s.setDie die fun d => { d with health := f d.health }

/-- The power limit in force (25 R471). -/
def powerLimit (pcap : Nat) : Nat := Nat.min 1600 (Nat.max 600 pcap)

/-- POWER_INTERVAL: the throttle follows the estimate of the interval that ends. -/
def execPowerInterval (s : State) : Out1 :=
  let p := Config.power s.tick
  .next (s.next.setHealth 0 fun h => { h with throt := powerLimit h.pcap < p })

/-- HEALTH_LATCH: the counters, the temperature and the hottest site are copied at one moment, whose cycle count answers the
read (25 R470). -/
def execHealthLatch (s : State) : Out1 :=
  let t := s.tick
  let s := s.next.setHealth s.op.die fun h =>
    { h with latched := h.live, temp := (Config.temperature t).toNat, tsite := (Config.hotSite t).toNat, latch := Config.latch t }
  .next { s with out := .answer 0 true (s.die s.op.die).health.latch :: s.out }

/-- HEALTH_CLEAR: bit k clears counter k. -/
def execHealthClear (s : State) : Out1 :=
  let w := s.op.word
  .next (s.setHealth s.op.die fun h => { h with live := Vector.ofFn fun i => if bit w i.val then 0 else h.live[i] })

/-- One more corrected error of the channel that a place of HBM4E stands in; past the firmware's threshold, and with SPLIT.CHRET = 1, the
channel is posted for retirement (21 R443, R450). [DEDUCED, log 67] -/
def State.channelError (s : State) (loc : Nat) : State :=
  if 2 ^ 39 ≤ loc then s
  else
    let ch := loc / 2 ^ 31
    let die := ch / 128
    let n := (((s.die die).corrected.find? fun x => x.1 == ch).map (·.2)).getD 0 + 1
    let s1 := s.next.setDie die fun d => { d with corrected := (d.corrected.filter fun x => x.1 != ch) ++ [(ch, n)] }
    if bit (s.die die).split 3 && Config.channelWorn s.tick then s1.assist 0 ⟨4, die, [w64 (2 ^ 62 + ch), w64 n]⟩ else s1

/-- SOFT_ERROR: corrected or refetched, poisoned, or the end of a task; `op.flag` says that it cannot be corrected (25 R472). -/
def execSoftError (s : State) : Out1 :=
  match s.op.soft, s.op.flag with
  | .cache die, _ => .next (s.count die 0)
  | .word die loc dram, false =>
    let s := s.count die (if dram then 1 else 0)
    .next (if dram then s.channelError loc else s)
  | .word die loc _, true => .next ((s.setPoison loc true).count die 2)
  | .buffer die _ _, false => .next (s.count die 0)
  | .buffer die site tid, true =>
    let s := s.count die 3
    match s.task? tid with
    | none => .next s
    | some k =>
      let s := s.hwFault 2 k.tag k.fn (site % 1024) (die % 2)
      .next (if k.status = 0 then s.tearTask k 1 else s)

end Sys2Proof.Machine
end

