-- ==== Sys2Proof/Machine/Registers.lean ====
section
/-!
DEFINITION. What the host and a peer reach: the registers of BAR0, the aperture BAR2, accesses that arrive from a peer, the
assist ring and the interrupt vectors (00 R4; 20 R396, R399, R419 to R421; 21 R423, R424, R427, R437, R447; 25 R469).
-/
namespace Sys2Proof.Machine

/-! ## The assist ring and the vectors -/

/-- Posts what waits and fits. -/
def State.drainAll (s : State) (fn : Nat) : State := s.assistDrain fn (s.fn fn).waiting.length

/-- A write of ACONS. -/
def State.setAcons (s : State) (fn : Nat) (w : Word) : State :=
  (s.setFn fn fun f => { f with acons := bits w 31 0 }).drainAll fn

/-- A write of the assist ring's control register. -/
def State.setAssistCtl (s : State) (fn : Nat) (w : Word) : State :=
  (s.setFn fn fun f =>
    { f with aen := bit w 63, alg := if bits w 51 48 < 4 || 12 < bits w 51 48 then f.alg else bits w 51 48 }).drainAll fn

/-- ASSIST_RING_CONSUME. -/
def execAssistRingConsume (s : State) : Out1 := .next (s.setAcons s.op.fn s.op.word)

/-- ASSIST_RING_ENABLE. -/
def execAssistRingEnable (s : State) : Out1 := .next (s.setAssistCtl s.op.fn (s.op.word ||| (1#64 <<< 63)))

/-- A vector is no longer masked: one message stands for the events that are pending. -/
def State.unmask (s : State) (fn v : Nat) : State :=
  let one := 1#4 <<< v
  let f := s.fn fn
  let s := s.setFn fn fun f => { f with masked := f.masked &&& ~~~one, pending := f.pending &&& ~~~one }
  if f.pending.toNat.testBit v && f.masked.toNat.testBit v then s.sendMsix fn v else s

/-- VECTOR_UNMASK. -/
def execVectorUnmask (s : State) : Out1 := if s.op.wid < 4 then .next (s.unmask s.op.fn s.op.wid) else .next s

/-! ## BAR0 -/

/-- A write of a queue's register. -/
def State.writeQueueReg (s : State) (fn q r : Nat) (w : Word) : State :=
  let off := !(s.queue fn q).en
  match r with
  | 0x00 => s.setQueue fn q fun x => if off then { x with base := w } else x
  | 0x08 => s.setQueueCtl fn q w
  | 0x20 => s.setQueue fn q fun x => { x with badpkt := x.badpkt && !bit w 1 }
  | 0x28 => s.setQueue fn q fun x => if off then { x with kword := bits w 51 3 * 8 } else x
  | 0x30 => s.setQueue fn q fun x => if off then { x with owner := BitVec.ofNat 32 (bits w 31 0) } else x
  | _ => s

/-- A write of a register of a die's firmware block. -/
def State.writeDieReg (s : State) (die r : Nat) (w : Word) : State :=
  if 0x100 ≤ r && r < 0x220 then
    let i := (r - 0x100) / 32
    match r % 32 with
    | 0 => s.setList die i fun f => if f.en then f else { f with base := bits w 40 12 * 4096 }
    | 8 => s.setList die i fun f =>
        { f with lg := if f.en || bits w 51 48 < 8 then f.lg else Nat.min 16 (bits w 51 48), en := bit w 63, lowat := bits w 31 0 }
    | _ => s
  else
    match r with
    | 0x308 => s.setDie die fun d => { d with pnew := w }
    | 0x388 => s.setDie die fun d => { d with ctgt := bits w 40 31 }
    | 0x400 => s.setDie die fun d => { d with remapBase := bits w 40 20 * 2 ^ 20 }
    | _ => s

/-- A write of a register that only the physical function has. -/
def State.writePfReg (s : State) (a : Nat) (w : Word) : State :=
  if a = 0x100 || a = 0x108 then s.setDie ((a - 0x100) / 8) fun d => { d with split := w &&& 0xFF }
  else if a = 0x200 then { s with functab := bits w 40 12 * 4096 }
  else if 0x2000 ≤ a && a < 0x4000 then s.writeDieReg ((a - 0x2000) / 0x1000) (a % 0x1000) w
  else if a = 0x4050 then s.setHealth 0 fun h => { h with pcap := bits w 10 0 }
  else s

/-- A vector's entry of the MSI-X table (20 R421). -/
def State.setMsg (s : State) (fn v : Nat) (f : Word × BitVec 32 → Word × BitVec 32) : State :=
  s.setFn fn fun x => { x with msgs := x.msgs.setIfInBounds v (f (x.msgs.getD v (0, 0))) }

/-- What a queue's register reads (20 R399). -/
def State.readQueueReg (s : State) (fn q : Nat) : Nat → Word
  | 0x00 => (s.queue fn q).base
  | 0x08 => let x := s.queue fn q; w64 (b2n x.en * 2 ^ 63 + b2n x.dev * 2 ^ 62 + x.prio * 2 ^ 59 + x.qlg * 2 ^ 48)
  | 0x18 => w64 (s.queue fn q).head
  | 0x20 => let x := s.queue fn q; w64 (b2n (s.queuesFull fn) * 4 + b2n x.badpkt * 2 + b2n x.stale)
  | 0x28 => w64 (s.queue fn q).kword
  | 0x30 => (s.queue fn q).owner.setWidth 64
  | _ => 0

/-- What a register of a die's health block reads: the counters as they were latched (25 R469, R470). -/
def State.readHealth (s : State) (die r : Nat) : Word :=
  let h := (s.die die).health
  let only (x : Word) : Word := if die = 0 then x else 0
  match r with
  | 0x48 => w64 (h.tsite * 2 ^ 16 + h.temp)
  | 0x50 => only (w64 (b2n h.throt * 2 ^ 63 + h.pcap))
  | 0x58 => h.latch
  | _ => if r < 0x48 && r % 8 = 0 then (if 0x20 ≤ r && r < 0x38 then only else id) (w64 (h.latched.getD (r / 8) 0)) else 0

/-- BOOTST: die 0's stage until the dies have joined, then the joint state. -/
def State.bootst (s : State) : Word :=
  let joint := (s.die 0).joined && (s.die 1).joined
  let st := if joint then Nat.min (s.die 0).stage (s.die 1).stage else (s.die 0).stage
  let e := if joint && (s.die 0).err = 0 then (s.die 1).err else (s.die 0).err
  let cores (d : Nat) : Nat := s.num (mgmtBase d + 0x1900) 8 % 2 ^ 11
  w64 (b2n s.ready * 2 ^ 63 + e * 2 ^ 40 + st * 2 ^ 32 + cores 1 * 2 ^ 11 + cores 0)

/-- What a register that only the physical function has reads. -/
def State.readPfReg (s : State) (a : Nat) : Word :=
  if a = 0x100 || a = 0x108 then (s.die ((a - 0x100) / 8)).split
  else if a = 0x200 then w64 s.functab
  else if a = 0x300 then s.bootst
  else if 0x2000 ≤ a && a < 0x4000 then s.readDieReg ((a - 0x2000) / 0x1000) (a % 0x1000)
  else if 0x4000 ≤ a && a < 0x4200 then s.readHealth ((a - 0x4000) / 0x100) (a % 0x100)
  else 0

/-- What a register of BAR0 reads: WO and reserved fields read zero (00 R4). -/
def State.readReg (s : State) (fn a : Nat) : Word :=
  let f := s.fn fn
  if 0x1000 ≤ a && a < 0x1200 then s.readQueueReg fn ((a - 0x1000) / 64) (a % 64)
  else if 0xC00 ≤ a && a < 0xC40 then
    let v := (a - 0xC00) / 16
    let m := f.msgs.getD v (0, 0)
    if a % 16 = 0 then m.1 else w64 (b2n (f.masked.toNat.testBit v) * 2 ^ 32 + m.2.toNat)
  else
    match a with
    | 0x800 => f.abase
    | 0x808 => w64 (b2n f.aen * 2 ^ 63 + f.alg * 2 ^ 48)
    | 0x810 => w64 f.acons
    | 0x818 => w64 f.apost
    | 0xE00 => f.pending.setWidth 64
    | _ => if fn = 0 then s.readPfReg a else 0

/-- The answer of an access. -/
def State.answer (s : State) (fn : Nat) (ok : Bool) (x : Word) : State := { s with out := .answer fn ok x :: s.out }

/-- REGISTER_WRITE: RW fields take the value, W1C fields clear, RO and reserved fields ignore it. With `op.flag` the register is
read, and the answer leaves (00 R4). [DEDUCED, log 72] -/
def execRegisterWrite (s : State) : Out1 :=
  let fn := s.op.fn
  let a := s.op.addr
  let w := s.op.val
  if s.op.flag then .next (s.answer fn true (s.readReg fn a))
  else if 0x1000 ≤ a && a < 0x1200 then .next (s.writeQueueReg fn ((a - 0x1000) / 64) (a % 64) w)
  else if a = 0x800 then .next (s.setFn fn fun f => { f with abase := w })
  else if a = 0x808 then .next (s.setAssistCtl fn w)
  else if a = 0x810 then .next (s.setAcons fn w)
  else if 0xC00 ≤ a && a < 0xC40 && a % 16 = 0 then .next (s.setMsg fn ((a - 0xC00) / 16) fun x => (w &&& ~~~3, x.2))
  else if 0xC00 ≤ a && a < 0xC40 && a % 16 = 8 then
    let v := (a - 0xC00) / 16
    let s := s.setMsg fn v fun x => (x.1, BitVec.ofNat 32 (bits w 31 0))
    .next (if bit w 32 then s.setFn fn fun f => { f with masked := f.masked ||| (1#4 <<< v) } else s.unmask fn v)
  else if fn = 0 then .next (s.writePfReg a w)
  else .next s

/-! ## Accesses from outside (20 R396; 21 R427, R433) -/

/-- The leaf of an address is sealed. -/
def State.sealedAt (s : State) (die fn va : Nat) : Bool :=
  match s.leafOf die fn va with
  | .leaf e _ _ => entSeal e
  | .fault _ => false

/-- Writes bytes of one word from outside. -/
def State.outsideWrite (s : State) (p : Place) (n : Nat) (x : Word) : State :=
  let o := p.loc % 8
  let q := p.word 0
  (s.putWord q (BitVec.ofNat 8 ((2 ^ n - 1) * 2 ^ o)) (w64 (x.toNat % 2 ^ (8 * n) * 2 ^ (8 * o)))).plainWrite q.loc

/-- What is known of a peer module's thread. -/
def State.peerClk (s : State) (no : Nat) : Clock := ((s.peers.find? fun x => x.1 == no).map (·.2)).getD []

/-- Puts what is known of it. -/
def State.setPeer (s : State) (no : Nat) (c : Clock) : State :=
  { s with peers := (no, c) :: s.peers.filter fun x => x.1 != no }

/-- The record that an access of a peer module's thread leaves (03 R83, R84). -/
def State.peerAcc (s : State) (no : Nat) (write sync : Bool) : Acc :=
  { thr := no, gtid := no % 2 ^ 13, epoch := (((s.peerClk no).know no).map (·.epoch)).getD 0, write := write, sync := sync, peer := true }

/-- The region of a peer module's thread ends with a release: the clock that goes with it. -/
def State.peerRelease (s : State) (no : Nat) : Clock × State :=
  let e := (s.peerAcc no false false).epoch
  let c := (s.peerClk no).put { thr := no, epoch := e }
  (c, s.setPeer no (c.put { thr := no, epoch := e + 1 }))

/-- A peer module's thread makes an access at a place: a plain one or, with `sync`, STF or LDF, `take` with take. One that
conflicts is not performed (03 R83), and one that must wait for its word has not come about. [DESIGN CHOICE, log 94] -/
def State.peerAccess (s : State) (fn no : Nat) (p : Place) (n : Nat) (write sync take : Bool) (x : Word) : Out1 :=
  let r := s.wordRec p.loc
  let clk := if !sync then s.peerClk no else if write then (s.peerClk no).join r.take else (s.peerClk no).join (s.acqClk p.loc)
  if sync && (n != 8 || s.full p.loc == write) then .fault .notEnabled
  else if (s.conflict no clk p.loc p.slice (write || take) sync).isSome then .next (s.answer fn false 0)
  else
    let s := (s.setPeer no clk).record p.loc (s.peerAcc no (write || take) sync)
    if write then
      if sync then
        let (c, s) := s.peerRelease no
        .next ((s.devStf p x c).answer fn true 0)
      else .next ((s.outsideWrite p n x).answer fn true 0)
    else
      let v := w64 (s.numP p n)
      if (s.poisonP p n).isSome then .next (s.answer fn false 0)
      else if take then
        let (c, s) := s.peerRelease no
        .next (((s.setFull p.loc false).setRec p.loc fun w => { w with take := c, eng := [] }).answer fn true v)
      else .next (s.answer fn true v)

/-- An access from outside at a die's port: `closed` places read zero and drop writes where `quiet` holds, and answer with
an error otherwise; `act` makes the access. [DEDUCED, log 68] -/
def State.outside (s : State) (die fn va n : Nat) (write closed quiet : Bool) (act : State → Place → Out1) : Out1 :=
  let v : View := ⟨die, fn, 0, match s.stall with | some w => if w.failed then [(w.die, w.page)] else [] | none => [], 7, []⟩
  let done (s : State) : State := { s with stall := none }
  if !(n == 1 || n == 2 || n == 4 || n == 8) || va % n != 0 || 2 ^ 52 ≤ va then .next (done (s.answer fn false 0))
  else
    match s.vaAt v va write with
    | .page s w => .next { s with stall := some w }
    | .bad _ => .next (done (s.answer fn false 0))
    | .ok p =>
      if closed then .next (done (s.answer fn quiet 0))
      else if p.lc.isSome then .next (done (s.answer fn false 0))
      else act (done s) p

/-- HOST_APERTURE_ACCESS: an access through BAR2; `op.flag` says that it writes. Sealed pages, context stores and save areas
read zero and drop writes. -/
def execHostApertureAccess (s : State) : Out1 :=
  let fn := s.op.fn
  let va := s.op.addr
  let n := s.op.size
  s.outside 0 fn va n s.op.flag (s.sealedAt 0 fn va || s.reserved fn va n) true fun s p =>
    .next (if s.op.flag then (s.outsideWrite p n s.op.val).answer fn true 0
      else s.answer fn (s.poisonP p n).isNone (w64 (s.numP p n)))

/-- The members of a task on another module have all arrived at the barrier of its peer-group level (12 R288). -/
def State.peerArrival (s : State) (tid peer : Nat) : State :=
  match (s.task tid).levels.findIdx? fun l => l.domain = 5 with
  | none => s
  | some n =>
    let b := (s.task tid).barOf n 0
    let theirs := s.peers.filter fun x => peerNo peer 0 ≤ x.1 && x.1 < peerNo (peer + 1) 0
    let c := theirs.foldl (fun (c : Clock) x => c.join (s.peerRelease x.1).1) []
    let s := theirs.foldl (fun s x => (s.peerRelease x.1).2) s
    let m := ((b.peers.find? fun x => x.1 == peer).map (·.2)).getD 0
    (s.setTask tid fun k => k.setBar { b with
      clock := b.clock.join c, peers := (peer, m + 1) :: b.peers.filter fun x => x.1 != peer }).barCheck tid n 0

/-- PEER_INGRESS_ACCESS: an access of a peer module's thread that arrives over a Scatch link; `op.wid` is 0 for a plain one, 1 for
STF or LDF, 2 for LDF with take, and 3 for the arrival of its members at a barrier over modules. [DESIGN CHOICE, log 94] -/
def execPeerIngressAccess (s : State) : Out1 :=
  let fn := s.op.fn
  let va := s.op.addr
  let n := s.op.size
  if s.op.wid = 3 then .next (s.peerArrival s.op.task s.op.vc)
  else s.outside (s.op.die % 2) fn va n s.op.flag (s.reserved fn va n) false fun s p =>
    s.peerAccess fn (peerNo s.op.vc (s.op.thr % 2 ^ 13)) p n s.op.flag (s.op.wid != 0) (s.op.wid == 2 && !s.op.flag) s.op.val

end Sys2Proof.Machine
end

