-- ==== Sys2Proof/Machine/Security.lean ====
section
/-!
DEFINITION. Attestation and sealing: the SPDM responder of each function, SEALKEY, and the function-level reset (22 R451 to
R458).
The message codes are those of SPDM 1.3, which the spec names and does not print (PRESUMED, notes/assumptions/5).
-/
namespace Sys2Proof.Machine

/-! ## Responses -/

/-- A response leaves by the function's mailbox. [PRESUMED, log 5] -/
def State.respond (s : State) (fn code : Nat) (payload : List Byte) : State := { s with out := .spdm fn code payload :: s.out }

/-- An ERROR response with its code. -/
def State.spdmError (s : State) (fn e : Nat) : State := s.respond fn 0x7F [BitVec.ofNat 8 e]

/-- What only the part's keys and certificates fix: bytes of a response of a kind. -/
def State.respondSigned (s : State) (fn code : Nat) (payload : List Byte) : State :=
  s.next.respond fn code (payload ++ Config.spdmBytes code s.tick)

/-- The responder answers nothing before READY (22 R459), and nothing out of the order of the connection. -/
def State.spdmGate (s : State) (ok : Spdm → Bool) (f : State → State) : Out1 :=
  if !s.ready then .next (s.spdmError s.op.fn 0x42)
  else if !ok (s.fn s.op.fn).spdm then .next (s.spdmError s.op.fn 0x04)
  else .next (f s)

/-- Changes the connection of a function. -/
def State.setSpdm (s : State) (fn : Nat) (f : Spdm → Spdm) : State := s.setFn fn fun x => { x with spdm := f x.spdm }

/-- The connection has been negotiated. -/
def Spdm.up (c : Spdm) : Bool := c.version && c.caps && c.algs

/-! ## The connection (22 R453) -/

/-- GET_VERSION: a new connection; version 1.3 only. -/
def execGetVersion (s : State) : Out1 :=
  let fn := s.op.fn
  s.spdmGate (fun _ => true) fun s => (s.setSpdm fn fun _ => { version := true }).respond fn 0x04 [1, 0x00, 0x13]

/-- GET_CAPABILITIES: certificates, challenges, measurements, encryption, key exchange and heartbeat; no pre-shared keys, no
mutual authentication, no certificate writes. -/
def execGetCapabilities (s : State) : Out1 :=
  let fn := s.op.fn
  s.spdmGate (·.version) fun s =>
    (s.setSpdm fn fun c => { c with caps := true }).respond fn 0x61 (bytesOfNat 4 (2 + 4 + 2 * 8 + 64 + 128 + 512 + 8192))

/-- NEGOTIATE_ALGORITHMS: `op.flag` says that the requester offers one of the signature schemes, the hash, the exchange and
the cipher that the device uses. -/
def execNegotiateAlgorithms (s : State) : Out1 :=
  let fn := s.op.fn
  s.spdmGate (fun c => c.version && c.caps) fun s =>
    if s.op.flag then (s.setSpdm fn fun c => { c with algs := true }).respond fn 0x63 [] else s.spdmError fn 0x01

/-! ## Certificates and measurements (22 R452, R453) -/

/-- GET_DIGESTS: the digest of the chain of slot 0, the only slot that holds one. -/
def execGetDigests (s : State) : Out1 :=
  let fn := s.op.fn
  s.spdmGate Spdm.up fun s => s.respond fn 0x01 (sha256 (Config.spdmBytes 0x02 (b2n s.aliasKey)))

/-- GET_CERTIFICATE: a part of slot 0's chain. -/
def execGetCertificate (s : State) : Out1 :=
  let fn := s.op.fn
  let op := s.op
  s.spdmGate Spdm.up fun s =>
    let chain := Config.spdmBytes 0x02 (b2n s.aliasKey)
    if op.wid ≠ 0 || chain.length ≤ op.addr then s.spdmError fn 0x01
    else s.respond fn 0x02 ((chain.drop op.addr).take op.size)

/-- The digests of the device's measurements, index 1 to 7 as taken, and 16 of the function's configuration anew: its clusters,
its grants, and the key slots bound to it. -/
def State.measurement (s : State) (fn i : Nat) : Option (List Byte) :=
  if i = 16 then
    let d := s.funcDesc fn
    some (sha256 ((s.fn fn).part.flatMap (bytesOfNat 2) ++ s.bytes (d + 8) 16 ++
      (s.keys.filter fun k => k.fn == fn).flatMap fun k => bytesOfNat 2 k.slot))
  else (s.measured.find? fun x => x.1 == i).map fun x => bytesOfNat 32 x.2.toNat

/-- CHALLENGE: signed with the alias key over the nonce. -/
def execChallenge (s : State) : Out1 :=
  let fn := s.op.fn
  let op := s.op
  s.spdmGate Spdm.up fun s =>
    if op.wid ≠ 0 then s.spdmError fn 0x01
    else s.respondSigned fn 0x03 (bytesOfNat 32 op.nonce.toNat)

/-- GET_MEASUREMENTS: one measurement, or with index 255 all of them. -/
def execGetMeasurements (s : State) : Out1 :=
  let fn := s.op.fn
  let i := s.op.wid
  s.spdmGate Spdm.up fun s =>
    if i = 0 then s.respond fn 0x60 [8]
    else if i = 255 then
      s.respondSigned fn 0x60 ([1, 2, 3, 4, 5, 6, 7, 16].flatMap fun j =>
        BitVec.ofNat 8 j :: (s.measurement fn j).getD [])
    else
      match s.measurement fn i with
      | some d => s.respondSigned fn 0x60 (BitVec.ofNat 8 i :: d)
      | none => s.spdmError fn 0x01

/-! ## Sessions (22 R453) -/

/-- KEY_EXCHANGE: a handshake begins. -/
def execKeyExchange (s : State) : Out1 :=
  let fn := s.op.fn
  let n := s.op.key.toNat % 2 ^ 16
  s.spdmGate Spdm.up fun s =>
    if (s.fn fn).spdm.session.isSome then s.spdmError fn 0x05
    else (s.setSpdm fn fun c => { c with handshake := some n }).respondSigned fn 0x64 (bytesOfNat 2 n)

/-- FINISH: the handshake becomes a session. -/
def execFinish (s : State) : Out1 :=
  let fn := s.op.fn
  s.spdmGate (·.handshake.isSome) fun s =>
    (s.setSpdm fn fun c => { c with session := c.handshake, handshake := none }).respond fn 0x65 []

/-- HEARTBEAT. -/
def execHeartbeat (s : State) : Out1 :=
  let fn := s.op.fn
  let n := s.op.wid
  s.spdmGate (fun c => c.session == some n) fun s => s.respond fn 0x68 []

/-- END_SESSION. -/
def execEndSession (s : State) : Out1 :=
  let fn := s.op.fn
  let n := s.op.wid
  s.spdmGate (fun c => c.session == some n) fun s =>
    (s.setSpdm fn fun c => { c with session := none }).respond fn 0x6C []

/-- UNSUPPORTED_SPDM_REQUEST: PSK exchange, mutual authentication, SET_CERTIFICATE and whatever else is not named. -/
def execUnsupportedSpdmRequest (s : State) : Out1 :=
  let fn := s.op.fn
  let code := s.op.wid
  s.spdmGate (fun _ => true) fun s => s.respond fn 0x7F [0x07, BitVec.ofNat 8 code]

/-! ## Sealing (22 R456 to R458) -/

/-- A byte of a payload. -/
def sealAt (r : SealReq) (i : Nat) : Nat := ((r.payload[i]?).getD 0).toNat

/-- The slot that a request names. -/
def sealSlot (r : SealReq) : Nat := sealAt r 2 + 256 * sealAt r 3

/-- The two key halves. -/
def sealKey (r : SealReq) : BitVec 512 := BitVec.ofNat 512 (natOfBytes (r.payload.drop 8))

/-- A request that R457 calls invalid, for an operation that the step performs. -/
def sealInvalid (r : SealReq) (op : Nat) : Bool :=
  sealAt r 0 != 1 || sealAt r 1 != op || r.payload.length != (if op = 1 then 72 else 8) || (sealSlot r) == 0 || 4095 < (sealSlot r) ||
  (List.range 4).any (fun i => sealAt r (4 + i) != 0) || !r.secured

/-- The slot is bound to another function. -/
def State.slotBound (s : State) (fn slot : Nat) : Bool := s.keys.any fun k => k.slot == slot && k.fn != fn

/-- The answer to SEALKEY: version, operation, slot, result. -/
def State.sealAnswer (s : State) (fn result : Nat) : State :=
  let r := s.op.sealReq
  s.respond fn 0x7E ([1, BitVec.ofNat 8 (sealAt r 1), BitVec.ofNat 8 (sealAt r 2), BitVec.ofNat 8 (sealAt r 3), BitVec.ofNat 8 result] ++
    List.replicate 3 0)

/-- The request is made outside a session of the function. -/
def State.unsealed (s : State) (fn : Nat) : Bool := (s.fn fn).spdm.session.isNone

/-- SEALKEY_INSTALL. [DEDUCED, log 71] -/
def execSealkeyInstall (s : State) : Out1 :=
  let fn := s.op.fn
  let r := s.op.sealReq
  if !s.ready then .next (s.spdmError fn 0x42)
  else if sealInvalid r 1 || s.unsealed fn then .next (s.sealAnswer fn 3)
  else if s.slotBound fn (sealSlot r) then .next (s.sealAnswer fn 1)
  else if s.keys.any fun k => k.slot == (sealSlot r) then .next (s.sealAnswer fn 2)
  else .next (({ s with keys := s.keys ++ [⟨sealSlot r, sealKey r, fn⟩] } : State).sealAnswer fn 0)

/-- A leaf names a slot. -/
def leafNames (e : Word) (slot : Nat) : Bool := entSeal e && entKey e == slot

/-- An ATTN that has not retired reads a record of its capture through a leaf that names the slot. -/
def State.slotHeld (s : State) (slot : Nat) : Bool :=
  s.matq.any fun m => match m.i with
    | .attn x => ((s.thread? m.thr).bind fun t => if x.cs then t.caps[1] else t.caps[0]).any fun c =>
        c.leaves.any fun x => leafNames x.2.2 slot
    | _ => false

/-- A slot is empty and unbound, and no TLB entry names it. -/
def State.eraseSlots (s : State) (slots : List Nat) : State :=
  { s with keys := s.keys.filter fun k => !slots.contains k.slot,
           tlb := s.tlb.filter fun x => !(entSeal x.leaf && slots.contains (entKey x.leaf)) }

/-- SEALKEY_ERASE: answered once every access that uses the slot has been performed and no TLB entry names it. -/
def execSealkeyErase (s : State) : Out1 :=
  let fn := s.op.fn
  let r := s.op.sealReq
  if !s.ready then .next (s.spdmError fn 0x42)
  else if sealInvalid r 2 || s.unsealed fn then .next (s.sealAnswer fn 3)
  else if s.slotBound fn (sealSlot r) then .next (s.sealAnswer fn 1)
  else if s.slotHeld (sealSlot r) then .fault .notEnabled
  else .next ((s.eraseSlots [(sealSlot r)]).sealAnswer fn 0)

/-- FUNCTION_LEVEL_RESET: every slot bound to the function is erased, and its SPDM connection is gone. -/
def execFunctionLevelReset (s : State) : Out1 :=
  let fn := s.op.fn
  let mine := (s.keys.filter fun k => k.fn == fn).map (·.slot)
  if mine.any s.slotHeld then .fault .notEnabled
  else .next ((s.eraseSlots mine).setSpdm fn fun _ => {})

end Sys2Proof.Machine
end

