-- ==== Sys2Proof/Machine/Boot.lean ====
section
/-!
DEFINITION. From reset to ready: RESET, MEMORY_TRAINING, the discovery flood, the multicast of the boot stub, DIE_JOIN,
ALIAS_KEY_DERIVATION, LINK_UP and FIRMWARE_UPDATE_STAGE (22 R451, R454, R455, R459 to R462; 24 R466 to R468).
-/
namespace Sys2Proof.Machine

/-! ## Stages (22 R459) -/

/-- A stage fails: ERR becomes non-zero and STAGE stays. -/
def State.bootError (s : State) (die e : Nat) : State := (s.setDie die fun d => { d with err := e }).msix 0 3

/-- A die enters a stage. -/
def State.enterStage (s : State) (die n : Nat) : State := s.setDie die fun d => { d with stage := n }

/-- The fused security version number. -/
def State.fusedSvn (s : State) : Nat := Nat.max Config.fusedSvn s.svn

/-- The error of an image's check (22 R454): none, signature, rollback. [DEDUCED, log 70] -/
def State.imageCheck (s : State) (i : FwImage) : Nat :=
  if !i.sigOk || 2 ^ 23 < i.length then 1 else if i.svn < s.fusedSvn then 2 else 0

/-- The running image of a kind, where an update replaced the one that the part was made with. -/
def State.image (s : State) (first : Bool) : Option FwImage := s.images.find? fun i => i.first == first

/-- The error of the image that a die starts: measurement 2 is the first-stage firmware, 3 and 4 the dies' management
firmware. -/
def State.startImage (s : State) (index : Nat) : Nat :=
  match s.image (index == 2) with
  | some i => s.imageCheck i
  | none => if !Config.imageOk index then 1 else if !Config.imageFresh index then 2 else 0

/-- RESET: everything but what stands outside the module and in its flash and fuses is as after reset; the ROM reads the
fuses and starts first-stage firmware on each die. [DESIGN CHOICE, log 9] -/
def execReset (s : State) : Out1 :=
  let flash := s.images.filter fun i => !(s.staged.any fun j => j.first == i.first)
  let r : State := { State.reset with
    tick := s.tick, order := s.order, nextUid := s.nextUid, nextCmd := s.nextCmd, nextTask := s.nextTask, inputs := s.inputs,
    out := s.out, mem := s.mem.filter fun x => hostBase ≤ x.1, images := flash ++ s.staged, svn := s.svn }
  .next ([0, 1].foldl (fun s d =>
    let s := s.enterStage d 2
    let e := s.startImage 2
    if e = 0 then s else s.bootError d e) r)

/-- MEMORY_TRAINING. -/
def execMemoryTraining (s : State) : Out1 :=
  let d := s.op.die
  if (s.die d).stage ≠ 2 || (s.die d).err ≠ 0 then .fault .notEnabled
  else
    let s := s.enterStage d 3
    .next (if Config.trained (d % 2) then s else s.bootError d 3)

/-! ## The discovery record (24 R466) -/

/-- The neighbour of a site at a port: west, north, east, south. -/
def neighbour (s port : Nat) : Option Nat :=
  match port with
  | 0 => if s % 32 = 0 then none else some (s - 1)
  | 1 => if s < 32 then none else some (s - 32)
  | 2 => if s % 32 = 31 then none else some (s + 1)
  | _ => if 992 ≤ s then none else some (s + 32)

/-- The four ports in their order. -/
def ports : List Nat := [0, 1, 2, 3]

/-- A site of a die by its number. -/
def Die.site (d : Die) (s : Nat) : Option Site := d.sites.find? fun x => x.s == s

/-- Changes a site. -/
def Die.setSite (d : Die) (s : Nat) (f : Site → Site) : Die :=
  { d with sites := d.sites.map fun x => if x.s == s then f x else x }

/-- Sets or clears the bit of a site in a bitmap of the record. -/
def State.siteBit (s : State) (die base site : Nat) (b : Bool) : State :=
  let a := mgmtBase (die % 2) + base + site / 8
  let w := s.num a 1
  if w.testBit (site % 8) == b then s else s.setNum a 1 (if b then w + 2 ^ (site % 8) else w - 2 ^ (site % 8))

/-- Writes a halfword of a table of the record. -/
def State.siteHalf (s : State) (die base site x : Nat) : State := s.setNum (mgmtBase (die % 2) + base + 2 * site) 2 x

/-- Writes bytes of the record, `n` from an offset on, with one value. -/
def State.siteFill (s : State) (die base n : Nat) (b : Byte) : State :=
  (List.range n).foldl (fun s i => s.setByte (mgmtBase (die % 2) + base + i) b) s

/-! ## Discovery (22 R460; 24 R467) -/

/-- The parent by which a site is reached in the round after the one in hand. -/
def Die.reachedBy (d : Die) (die s : Nat) : Option Nat :=
  if Config.fused (die % 2) s || (d.site s).isSome then none
  else (ports.filterMap (neighbour s)).find? fun p => match d.site p with
    | some x => x.hop == d.round
    | none => false

/-- The sites that the next round reaches. -/
def Die.frontier (d : Die) (die : Nat) : List Site :=
  if d.round = 0 then [{ s := 0, hop := 1, parent := 0xFFFF }]
  else (List.range 1024).filterMap fun s => (d.reachedBy die s).map fun p => { s := s, hop := d.round + 1, parent := p }

/-- A discovery round can run. -/
def State.mayDiscover (s : State) (die : Nat) : Bool :=
  let d := s.die die
  d.err == 0 && (d.stage == 3 || (d.stage == 4 && d.frontier die != []))

/-- DISCOVERY_ROUND: each site first reached in the last round forwards the packet; in round 1 the management core sends it
to site 0. [DEDUCED, log 69] -/
def execDiscoveryRound (s : State) : Out1 :=
  let die := s.op.die
  if !s.mayDiscover die then .fault .notEnabled
  else
    let first := (s.die die).stage == 3
    let s : State := if first then
        ((s.siteFill die 0 0x900 0).siteFill die 0x900 0x800 0xFF).setDie die fun d => { d with round := 0, sites := [], stage := 4 }
      else s
    .next (s.setDie die fun d => { d with sites := d.sites ++ d.frontier die, round := d.round + 1 })

/-- DISCOVERY_RETURN: a site's return, with its hop count and parent, reaches the root. -/
def execDiscoveryReturn (s : State) : Out1 :=
  let die := s.op.die
  match (s.die die).site s.op.wid with
  | none => .fault .notEnabled
  | some x =>
    if x.returned || (s.die die).stage ≠ 4 || (s.die die).err ≠ 0 then .fault .notEnabled
    else
      let s := ((s.siteBit die 0 x.s true).siteHalf die 0x100 x.s x.hop).siteHalf die 0x900 x.s x.parent
      .next (s.setDie die fun d => d.setSite x.s fun x => { x with returned := true })

/-- A die that lost more than 32 sites stops. -/
def State.lossCheck (s : State) (die : Nat) (next : State → State) : State :=
  if 32 < 1024 - (s.die die).sites.length then s.bootError die 4 else next s

/-- Every site of the flood has returned and no round reaches another. -/
def State.floodOver (s : State) (die : Nat) : Bool :=
  let d := s.die die
  d.stage == 4 && d.err == 0 && d.frontier die == [] && d.sites.all (·.returned)

/-- DISCOVERY_DONE: site 0's DONE reaches the root. -/
def execDiscoveryDone (s : State) : Out1 :=
  let die := s.op.die
  if !s.floodOver die then .fault .notEnabled
  else .next (s.lossCheck die fun s => s.setDie die fun d => { d with stage := 5, attempt := 0 })

/-! ## The multicast (22 R462; 24 R468) -/

/-- The flits of the boot stub. -/
def stubLen : Nat := Config.stubFlits.toNat + 1

/-- The children of a site in port order. -/
def Die.children (d : Die) (s : Nat) : List Site :=
  ((ports.filterMap (neighbour s)).filterMap d.site).filter fun x => x.parent == s

/-- An attempt can start: the first, or one after site 0 answered FAIL. -/
def State.mayAttempt (s : State) (die : Nat) : Bool :=
  let d := s.die die
  d.stage == 5 && d.err == 0 &&
  (d.attempt == 0 || (d.attempt < 3 && ((d.site 0).bind (·.answered)) == some false))

/-- MULTICAST_ATTEMPT: FAIL is cleared and the stub is sent from its first flit on. -/
def execMulticastAttempt (s : State) : Out1 :=
  let die := s.op.die
  if !s.mayAttempt die then .fault .notEnabled
  else .next ((s.siteFill die 0x80 0x80 0).setDie die fun d =>
    { d with attempt := d.attempt + 1, sites := d.sites.map fun x => { x with flits := [], answered := none } })

/-- A site can be sent its next flit: its sender has it, and has sent it to the children before this one. -/
def Die.mayFlit (d : Die) (x : Site) : Bool :=
  d.stage == 5 && d.err == 0 && 0 < d.attempt && x.flits.length < stubLen &&
  (x.s == 0 ||
    match d.site x.parent with
    | none => false
    | some p => x.flits.length < p.flits.length &&
        ((d.children p.s).takeWhile fun y => y.s != x.s).all fun y => x.flits.length < y.flits.length)

/-- MULTICAST_FLIT: a site stores the flit and will forward it unchanged, be it intact or not. -/
def execMulticastFlit (s : State) : Out1 :=
  let die := s.op.die
  let d := s.die die
  match d.site s.op.wid with
  | none => .fault .notEnabled
  | some x =>
    if !d.mayFlit x || s.op.size ≠ x.flits.length then .fault .notEnabled
    else
      let good := x.s == 0 || (((d.site x.parent).bind fun p => p.flits[x.flits.length]?).getD false)
      let ok := good && Config.flitOk s.tick
      .next (s.next.setDie die fun d => d.setSite x.s fun x => { x with flits := x.flits ++ [ok] })

/-- A site can answer: it holds the whole stub and every child has answered. -/
def Die.mayAnswer (d : Die) (x : Site) : Bool :=
  d.stage == 5 && d.err == 0 && 0 < d.attempt && x.flits.length == stubLen && x.answered.isNone &&
  (d.children x.s).all fun y => y.answered.isSome

/-- Sites whose FAIL bit is set. -/
def State.failing (s : State) (die : Nat) : List Nat :=
  ((s.die die).sites.map (·.s)).filter fun i => (s.num (mgmtBase (die % 2) + 0x80 + i / 8) 1).testBit (i % 8)

/-- Firmware writes the enabled-core map and CORES (22 R461; 24 R466): reached sites in ascending number, 0xFFFF beyond. -/
def State.buildMap (s : State) (die : Nat) : State :=
  let on := (List.range 1024).filter fun i => ((s.die die).site i).isSome
  let s := (on.zip (List.range on.length)).foldl (fun s x => s.siteHalf die 0x1100 x.2 x.1) s
  (s.siteFill die (0x1100 + 2 * on.length) (2048 - 2 * on.length) 0xFF).setNum (mgmtBase (die % 2) + 0x1900) 8 on.length

/-- Stage 5 is complete: the map is built and stage 6 starts the die's management firmware. -/
def State.stage6 (s : State) (die : Nat) : State :=
  let s := (s.buildMap die).enterStage die 6
  let e := s.startImage (3 + die % 2)
  if e = 0 then s else s.bootError die e

/-- After the third failed attempt the sites in FAIL are harvested. -/
def State.harvest (s : State) (die : Nat) : State :=
  let bad := s.failing die
  let s := bad.foldl (fun s i => s.siteBit die 0 i false) s
  let s := s.setDie die fun d => { d with sites := d.sites.filter fun x => !bad.contains x.s }
  if bad.contains 0 then s.bootError die 5 else s.lossCheck die fun s => s.stage6 die

/-- MULTICAST_ANSWER: a site sends PASS or FAIL to its parent; site 0's answer ends the attempt. -/
def execMulticastAnswer (s : State) : Out1 :=
  let die := s.op.die
  let d := s.die die
  match d.site s.op.wid with
  | none => .fault .notEnabled
  | some x =>
    if !d.mayAnswer x then .fault .notEnabled
    else
      let own := x.flits.all id
      let pass := own && (d.children x.s).all fun y => y.answered == some true
      let s := if own then s else s.siteBit die 0x80 x.s true
      let s := s.setDie die fun d => d.setSite x.s fun x => { x with answered := some pass }
      .next (if x.s ≠ 0 then s else if pass then s.stage6 die else if d.attempt = 3 then s.harvest die else s)

/-! ## The part as a whole -/

/-- Both dies stand at a stage without an error. -/
def State.bothAt (s : State) (n : Nat) : Bool := [0, 1].all fun d => (s.die d).stage == n && (s.die d).err == 0

/-- DIE_JOIN. -/
def execDieJoin (s : State) : Out1 :=
  if !s.bothAt 6 then .fault .notEnabled
  else
    let s := [0, 1].foldl (fun s d => s.enterStage d 7) s
    .next (if Config.dieJoined s.tick then [0, 1].foldl (fun s d => s.setDie d fun x => { x with joined := true }) s.next
           else [0, 1].foldl (fun s d => s.setDie d fun x => { x with err := 6 }) (s.next.msix 0 3))

/-- Measurement `i`, 1 to 7: what the part was made with, an update's image, or the enabled-core maps. -/
def State.measured' (s : State) (i : Nat) : BitVec 256 :=
  if i = 7 then
    BitVec.ofNat 256 (natOfBytes (sha256 (s.bytes (mgmtBase 0 + 0x1100) 2048 ++ s.bytes (mgmtBase 1 + 0x1100) 2048)))
  else if i = 2 || i = 3 || i = 4 then ((s.image (i == 2)).map (·.hash)).getD (Config.measure i)
  else Config.measure i

/-- ALIAS_KEY_DERIVATION: once per reset; the seed and the identity key are locked. -/
def execAliasKeyDerivation (s : State) : Out1 :=
  if !s.bothAt 7 then .fault .notEnabled
  else
    let m := [1, 2, 3, 4, 5, 6, 7].map fun i => (i, s.measured' i)
    .next { ([0, 1].foldl (fun s d => s.enterStage d 8) s) with aliasKey := true, measured := m }

/-- LINK_UP: stage 9, READY. The boot has succeeded, and an update may raise the fused security version number. -/
def execLinkUp (s : State) : Out1 :=
  if !s.bothAt 8 then .fault .notEnabled
  else
    let up := if Config.raiseSvn s.tick then s.images.foldl (fun n i => Nat.max n i.svn) s.svn else s.svn
    let s := ([0, 1].foldl (fun s d => s.enterStage d 9) s).next
    .next (({ s with ready := true, svn := up } : State).msix 0 3)

/-- FIRMWARE_UPDATE_STAGE: an image that the check accepts is staged for the next reset; another changes nothing. -/
def execFirmwareUpdateStage (s : State) : Out1 :=
  let i := s.op.img
  .next (if s.imageCheck i = 0 then { s with staged := (s.staged.filter fun j => j.first != i.first) ++ [i] } else s)

end Sys2Proof.Machine
end

