-- ==== Sys2Proof/Machine/Control.lean ====
section
/-!
DEFINITION. Branches, jumps, calls and returns (11 R261 to R265).
-/
namespace Sys2Proof.Machine

/-- A control transfer retires and goes on at an offset in sg0. -/
def goTo (target : Word) (s : State) : R Unit := .ok () ((s.retire 0).upd fun t => { t with pc := target })

/-- A target that counts words from the transfer's own address. -/
def relTarget {n : Nat} (pc : Word) (off : BitVec n) : Word := pc + off.signExtend 64 * 4

/-- BR. -/
def execBr (c : BrCond) (a b : R5) (off : BitVec 11) (s : State) : Out1 := run s fun s =>
  (needRegs [a, b] s).bind fun _ s =>
  if brHolds c (s.me.gr a) (s.me.gr b) then goTo (relTarget s.me.pc off) s else finish 4 s

/-- BRP. -/
def execBrp (c : BrpCond) (p : BitVec 3) (off : BitVec 11) (s : State) : Out1 := run s fun s =>
  if brpHolds c (s.me.pr p) then goTo (relTarget s.me.pc off) s else finish 4 s

/-- JMP. -/
def execJmp (off : BitVec 19) (s : State) : Out1 := run s fun s => goTo (relTarget s.me.pc off) s

/-- CALL writes PC + 4 to its link register. -/
def execCall (link : R5) (off : BitVec 19) (s : State) : Out1 := run s fun s =>
  (wrG link (s.me.pc + 4) s).bind fun _ s => goTo (relTarget s.me.pc off) s

/-- JMPR. -/
def execJmpr (a : R5) (b : BOp) (s : State) : Out1 := run s fun s =>
  (needRegs (a :: bRegs b) s).bind fun _ s => (readB b s).bind fun b s => goTo (s.me.gr a + b) s

/-- CALLR forms its target before it writes the link. -/
def execCallr (x : Alu) (s : State) : Out1 := run s fun s =>
  (needRegs (x.a :: bRegs x.b) s).bind fun _ s => (readB x.b s).bind fun b s =>
  let target := s.me.gr x.a + b
  (wrG x.d (s.me.pc + 4) s).bind fun _ s => goTo target s

/-- RET goes to g31. -/
def execRet (s : State) : Out1 := run s fun s =>
  (needRegs [31] s).bind fun _ s => goTo (s.me.gr 31) s

end Sys2Proof.Machine
end

