-- ==== Sys2Proof/Machine/QVec.lean ====
section
/-!
DEFINITION. VLDQ and VSTQ, by which vector registers reach narrow codes (14 R361 to R363).
-/
namespace Sys2Proof.Machine

/-- An active element inside the frame: its number, dither index, the segment offsets of its code and scale, and the shift of
its code. -/
structure QEl where
  i : Nat
  k : Nat
  code : Int
  sh : Nat
  scale : Int
deriving DecidableEq, Repr

/-- The active elements inside the frame, with the registers of the issue. -/
def State.qEls (s : State) (x : VQuA) (f : Frame) (o : Nat × Nat) : List QEl :=
  let w := tySize x.ty
  ((List.range (256 / w)).filter fun i => act (s.me.pr x.pg) w i && f.inside [o.1 + i, o.2, 0, 0]).map fun i =>
    let idx := [o.1 + i, o.2, 0, 0]
    let (b, sh) := f.place idx
    ⟨i, f.dither idx, (s.me.gr x.a).toInt + (b : Nat), sh,
     (s.me.gr x.s).toInt + (4 * ((o.1 + i) / 128 - o.1 / 128) : Nat)⟩

/-- The checks of the elements, in order: code, then scale. -/
def qAddrs (x : VQuA) (store : Bool) : List QEl → State → R (List (SegA × SegA))
  | [], s => .ok [] s
  | e :: t, s =>
    (segR x.seg e.code 1 1 (if store then needWR else needRD) store s).bind fun a s =>
    (segR x.seg e.scale 4 4 needRD false s).bind fun b s =>
    (qAddrs x store t s).bind fun l s => .ok ((a, b) :: l) s

/-- What both have in common: the operands, the frame, the elements and their addresses; a poisoned frame ends the instruction
in the way given, after every fault of its issue (14 R346). -/
def qIssue (x : VQuA) (store : Bool) (bad : Trap → State → State) (s : State) :
    R (List Word × Frame × List QEl × List (SegA × SegA)) :=
  (vgates [x.b, x.a, x.s, x.f] (if store then [x.d] else []) (if store then none else some x.d) false none s).bind fun _ s =>
  (accessGate s).bind fun _ s =>
  (frameR x.seg x.f 12 s).bind fun (ws, f, pz) s =>
  (originR (s.me.gr x.b) f x.qf.toNat s).bind fun o s =>
  let els := s.qEls x f o
  (qAddrs x store els s).bind fun l s =>
  (if l.any fun a => a.1.space == 1 || a.2.space == 1 then homeGate s else .ok () s).bind fun _ s =>
  (stagesR 1 (l.map (·.1)) s).bind fun cs s =>
  (stagesR 4 (l.map (·.2)) s).bind fun ss s =>
  (if store then specUnits (sized 4 ss) (sized 1 cs) s else specUnits (sized 1 cs ++ sized 4 ss) [] s).bind fun _ s =>
  match pz with
  | some t => .stop (bad t s)
  | none => .ok (ws, f, els, cs.zip ss) s

/-- The value of an element (14 R362). -/
def qVal (f : NFmt) (ty : BitVec 2) (code scale k : Nat) : Nat :=
  match dequant f code k with
  | none => (fmtOf ty).qnan
  | some v => (fmtOf ty).enc .rne false ((val32 scale).mul v.fp)

/-- Performs VLDQ at resolved addresses. -/
def vldqAt (x : VQuA) (f : Frame) (els : List QEl) (l : List (SegA × SegA)) (s : State) : Perf :=
  let w := tySize x.ty
  let cs := (List.range l.length).zip (l.map (·.1))
  let ss := (List.range l.length).zip (l.map (·.2))
  match s.vPage (cs ++ ss) with
  | some (.page w s) => .later s (.page w)
  | some _ => .now s (.fault failTrap)
  | none =>
    let (s, cv, t) := s.vLoad 1 cs [] none
    let (s, sv, u) := s.vLoad 4 ss [] none
    match t.or u with
    | some t => .now s (.fault t)
    | none =>
      let get (l : List (Nat × Nat)) (n : Nat) : Nat := ((l.find? fun e => e.1 == n).map (·.2)).getD 0
      let vals := ((List.range els.length).zip els).map fun y =>
        (y.2.i, qVal f.fmt x.ty (f.fmt.code (BitVec.ofNat 8 (get cv y.1)) y.2.sh) (get sv y.1) y.2.k)
      let v := ofEls w ((List.range (256 / w)).map fun i => ((vals.find? fun e => e.1 == i).map (·.2)).getD 0)
      .now s (.regs [.v x.d (lanesOf (s.me.pr x.pg) w) v])

/-- Performs VLDQ with the registers and the frame of its issue. -/
def perfVldq (x : VQuA) (s : State) : Perf :=
  match frameOf ((s.me.shadow.map (·.desc)).getD []) with
  | none => .now s (.fault ⟨3, 0, none⟩)
  | some f =>
    let o := (bits (s.me.gr x.b) 19 0, bits (s.me.gr x.b) 39 20)
    let els := s.qEls x f o
    let unit (e : Int) (n : Nat) : Option SegA := match s.unit x.seg e n n needRD false with
      | .ok a => some a
      | .bad _ => none
    let l := els.filterMap fun e => match unit e.code 1, unit e.scale 4 with
      | some a, some b => some (a, b)
      | _, _ => none
    vldqAt x f els l s

/-- VLDQ. -/
def execVldq (x : VQuA) (s : State) : Out1 := run s fun s =>
  (qIssue x false (lateLong x.look 12) s).bind fun (ws, f, els, l) s =>
  let s := s.upd fun t => { t with shadow := some { t.snap with desc := ws } }
  openPerf (.vldq x) x.look 12 false false (vldqAt x f els l s)

/-- VSTQ. -/
def execVstq (x : VQuA) (s : State) : Out1 := run s fun s =>
  (qIssue x true (lateShort 12) s).bind fun (_, f, els, l) s =>
  (transesR 12 true false 1 (l.map (·.1)) s).bind fun cs s =>
  (transesR 12 false true 0 (l.map (·.2)) s).bind fun ss s =>
  (vtake [x.d] (lateShort 12) s).bind fun vs s =>
  match s.loads 4 true ss with
  | (_, some t, s) => .stop (lateShort 12 t s)
  | (sv, none, s) =>
    let w := tySize x.ty
    let data := vval vs x.d
    let ws := ((els.zip cs).zip sv).map fun y =>
      let e := getEl data w y.1.1.i
      let v := if x.ty = 0 then e else ofBf e
      elemEW y.1.2 y.1.1.sh f.fmt.bits (quantStore f.fmt v (natOfBytes y.2) y.1.1.k) false
    let (s, v) := s.storeEWs ((ws.foldr putEW []).map s.wholeBytes)
    finish 12 (s.verdict v)

end Sys2Proof.Machine
end

