-- ==== Sys2Proof/Machine/Perform.lean ====
section
/-!
DEFINITION. RESULT_ARRIVAL: an instruction that has issued and waited is performed, with the registers of its issue, and its
result reaches its window (01 R13, R37, R476).
-/
namespace Sys2Proof.Machine

/-- The place in a wait list that a wait holds. -/
def Why.ticket : Why → Option Nat
  | .full _ n => some n
  | .ring n => some n
  | _ => none

/-- The context and the edit that SETTLE waits for. -/
def Why.settleOf : Why → Nat × Nat
  | .settle h n => (h, n)
  | _ => (0, 0)

/-- The words behind the first of the record that an instruction read at its issue. -/
def Shadow.table (sh : Shadow) : List Word := sh.desc.drop 1

/-- Performs a waiting instruction of the current thread, whose shadow stands in the thread; none for an instruction that never
waits in this way. -/
def perform (i : Instr) (w : Why) (sh : Shadow) (wid : Nat) (s : State) : Option Perf :=
  let before := (sh.desc.headD 0).toNat
  match i with
  | .ld x => some (perfLd x s)
  | .ldf x => some (perfLdf x w.ticket s)
  | .amoadd x => some (perfAmo amoaddOp x s)
  | .amoand x => some (perfAmo amoandOp x s)
  | .amoor x => some (perfAmo amoorOp x s)
  | .amoxor x => some (perfAmo amoxorOp x s)
  | .amomin x => some (perfAmo amominOp x s)
  | .amomax x => some (perfAmo amomaxOp x s)
  | .amominu x => some (perfAmo amominuOp x s)
  | .amomaxu x => some (perfAmo amomaxuOp x s)
  | .amoswp x => some (perfAmo amoswpOp x s)
  | .amocas x => some (perfAmo (amocasOp (s.me.gr x.cr)) x s)
  | .amofadd x => some (perfAmo amofaddOp x s)
  | .mrecv _ d a => some (perfRecv d a false w.ticket s)
  | .vld x => some (perfVld (vaccL x) s)
  | .vldStrided x => some (perfVld (vaccS x) s)
  | .vldx x => some (perfVld (vaccX x) s)
  | .vldq x => some (perfVldq x s)
  | .gathb x => some (perfGathb x s)
  | .atedrain _ d mask => some (perfAtedrain d mask (s.attnsOver s.me (some wid)) s)
  | .atbound _ d => some (perfAtbound d (s.attnsOver s.me (some wid)) s)
  | .settle x => some (perfSettle x.d w.settleOf.1 w.settleOf.2 s)
  | .ctxrdNow x => some (perfCtxrd x false sh.desc sh.dest (sh.clk.getD []) s)
  | .ctxrdAt x => some (perfCtxrd x true sh.desc sh.dest (sh.clk.getD []) s)
  | .ctxreg x => some (perfCtxreg x.d (sh.desc.take 4) (sh.desc.drop 4) s)
  | .commitb x => some (perfCommitb x false sh.table before (s.me.gr x.gx).toNat s)
  | .commitbSkip x => some (perfCommitb x true sh.table before (s.me.gr x.gx).toNat s)
  | .probe x => some (perfProbe x sh.table (s.me.gr x.gx).toNat s)
  | _ => none

/-- What a waiting instruction of a thread waits for has come. -/
def State.whyOver (s : State) (t : Thread) (wid : Nat) (i : Instr) (sh : Shadow) : Why → Bool
  | .page p => p.woken && s.heldFirst t p
  | .fence need => need == 0
  | .full key n => !s.empty.contains key && s.firstAt key n true
  | .ring n => (s.vcore t.vu).ringUsed != 0 && s.ringFirst t.vu n
  | .settle h n => match s.ctxFor (s.fnOf t) h with
    | none => true
    | some c => c.releasing.isSome || c.settled n
  | .version h l b n => match s.ctxFor (s.fnOf t) h with
    | none => true
    | some c => c.releasing.isSome || n ≤ c.effStamp l b
  | .drained =>
    let before := (sh.desc.headD 0).toNat
    !(s.matq.any fun m => m.thr == t.uid && m.matrix) && !s.drainWaits t.vu .ab before && !s.drainWaits t.vu .mem before
  | .attns => match i with
    | .gathb x => !(({ s with cur := some t.uid } : State).attnHolds x.cs)
    | _ => s.attnsOver t (some wid)
  | .readers fn va area => s.readersOf fn va area == 0

/-- The window's instruction can be performed now. -/
def State.resultReady (s : State) (t : Thread) (w : Window) : Bool :=
  match w.res with
  | .wait (.defer y i sh) => s.whyOver t w.wid i sh y
  | _ => false

/-- A wait for a page that was failed (21 R433). -/
def Why.failed : Why → Bool
  | .page p => p.failed
  | _ => false

/-- The result of an instruction whose page was failed; a CTXRD brings nothing to its digest place. -/
def State.failResult (s : State) (t : Thread) (wid : Nat) (i : Instr) (sh : Shadow) : State :=
  let s := match i with
    | .ctxrdNow _ => s.fillHole t.agent (rbHole sh.desc) []
    | .ctxrdAt _ => s.fillHole t.agent (rbHole sh.desc) []
    | _ => s
  s.arrive t.uid wid (.fault failTrap)

/-- The registers and the place of a thread as another stands. -/
def Thread.rejoin (t old : Thread) : Thread := { t with pc := old.pc, seq := old.seq, shadow := old.shadow }

/-- RESULT_ARRIVAL: performs the instruction of a window, and hands the window its result or its next wait. -/
def execResultArrival (s : State) : Out1 :=
  match s.thread? s.op.thr with
  | none => .fault .notEnabled
  | some t =>
    match t.windows.find? fun w => w.wid == s.op.wid with
    | none => .fault .notEnabled
    | some w =>
      match w.res with
      | .wait (.defer y i sh) =>
        if !s.whyOver t w.wid i sh y then .fault .notEnabled
        else if y.failed then .next (s.failResult t w.wid i sh)
        else
          let s1 : State := { s.updT t.uid fun x => { x with pc := w.pc, seq := w.wid - 1, shadow := some sh } with cur := some t.uid }
          let back (s' : State) : State := { s'.updT t.uid fun x => x.rejoin t with cur := s.cur }
          match perform i y sh w.wid s1 with
          | none => .fault .notEnabled
          | some (.now s' r) => .next ((back s').arrive t.uid w.wid r)
          | some (.later s' y') => .next ((back s').arrive t.uid w.wid (.wait (.defer y' i sh)))
      | _ => .fault .notEnabled

end Sys2Proof.Machine
end

