-- ==== Sys2Proof/Machine/Scalar.lean ====
section
/-!
DEFINITION. Integer arithmetic and logic, bit fields, divide and remainder (11 R256 to R260).
-/
namespace Sys2Proof.Machine

/-- A two-operand member of majors 0x01 and 0x02: sources, then the destination's check, then the write (11 R257). -/
def aluOp (x : Alu) (f : Word → Word → Word) (s : State) : R Unit :=
  (needRegs (x.a :: bRegs x.b) s).bind fun _ s =>
  (readB x.b s).bind fun b s =>
  (wrG x.d (f (s.me.gr x.a) b) s).bind fun _ s => finish (bLenS x.b) s

/-- A one-operand member. -/
def unaOp (x : Una) (f : Word → Word) (s : State) : R Unit :=
  (needRegs [x.a] s).bind fun _ s => (wrG x.d (f (s.me.gr x.a)) s).bind fun _ s => finish 4 s

/-- DIV, DIVU, REM, REMU: the result is committed at the close of the window (11 R260). -/
def divOp (x : LongAlu) (f : Word → Word → Word) (s : State) : R Unit :=
  (needRegs (x.a :: bRegs x.b) s).bind fun _ s =>
  (readB x.b s).bind fun b s => openRegs x.look (bLenS x.b) [.g x.d (f (s.me.gr x.a) b)] s

/-- ADD. -/
def execAdd (x : Alu) (s : State) : Out1 := run s (aluOp x fun a b => a + b)
/-- SUB. -/
def execSub (x : Alu) (s : State) : Out1 := run s (aluOp x fun a b => a - b)
/-- MUL. -/
def execMul (x : Alu) (s : State) : Out1 := run s (aluOp x fun a b => a * b)
/-- MULH. -/
def execMulh (x : Alu) (s : State) : Out1 := run s (aluOp x mulhS)
/-- MULHU. -/
def execMulhu (x : Alu) (s : State) : Out1 := run s (aluOp x mulhU)
/-- AND. -/
def execAndr (x : Alu) (s : State) : Out1 := run s (aluOp x fun a b => a &&& b)
/-- OR. -/
def execOrr (x : Alu) (s : State) : Out1 := run s (aluOp x fun a b => a ||| b)
/-- XOR. -/
def execXor (x : Alu) (s : State) : Out1 := run s (aluOp x fun a b => a ^^^ b)
/-- ANDN. -/
def execAndn (x : Alu) (s : State) : Out1 := run s (aluOp x fun a b => a &&& ~~~b)
/-- SHL. -/
def execShl (x : Alu) (s : State) : Out1 := run s (aluOp x fun a b => a <<< shiftN b)
/-- SHR. -/
def execShr (x : Alu) (s : State) : Out1 := run s (aluOp x fun a b => a >>> shiftN b)
/-- SAR. -/
def execSar (x : Alu) (s : State) : Out1 := run s (aluOp x fun a b => a.sshiftRight (shiftN b))
/-- ROL. -/
def execRol (x : Alu) (s : State) : Out1 := run s (aluOp x fun a b => rolW a (shiftN b))
/-- MIN. -/
def execMin (x : Alu) (s : State) : Out1 := run s (aluOp x fun a b => if a.toInt ≤ b.toInt then a else b)
/-- MAX. -/
def execMax (x : Alu) (s : State) : Out1 := run s (aluOp x fun a b => if a.toInt ≤ b.toInt then b else a)
/-- MINU. -/
def execMinu (x : Alu) (s : State) : Out1 := run s (aluOp x fun a b => if a.toNat ≤ b.toNat then a else b)
/-- MAXU. -/
def execMaxu (x : Alu) (s : State) : Out1 := run s (aluOp x fun a b => if a.toNat ≤ b.toNat then b else a)
/-- SLT. -/
def execSlt (x : Alu) (s : State) : Out1 := run s (aluOp x fun a b => oneIf (a.toInt < b.toInt))
/-- SLTU. -/
def execSltu (x : Alu) (s : State) : Out1 := run s (aluOp x fun a b => oneIf (a.toNat < b.toNat))
/-- SEQ. -/
def execSeq (x : Alu) (s : State) : Out1 := run s (aluOp x fun a b => oneIf (a == b))
/-- SNE. -/
def execSne (x : Alu) (s : State) : Out1 := run s (aluOp x fun a b => oneIf (a != b))
/-- CLZ. -/
def execClz (x : Una) (s : State) : Out1 := run s (unaOp x fun a => w64 (clzW a))
/-- CTZ. -/
def execCtz (x : Una) (s : State) : Out1 := run s (unaOp x fun a => w64 (ctzW a))
/-- POPC. -/
def execPopc (x : Una) (s : State) : Out1 := run s (unaOp x fun a => w64 (popcN 64 a.toNat))
/-- BREV. -/
def execBrev (x : Una) (s : State) : Out1 := run s (unaOp x brevW)
/-- BSWAP. -/
def execBswap (x : Una) (s : State) : Out1 := run s (unaOp x bswapW)
/-- SEXTB. -/
def execSextb (x : Una) (s : State) : Out1 := run s (unaOp x fun a => sx a.toNat 8)
/-- SEXTH. -/
def execSexth (x : Una) (s : State) : Out1 := run s (unaOp x fun a => sx a.toNat 16)
/-- SEXTW. -/
def execSextw (x : Una) (s : State) : Out1 := run s (unaOp x fun a => sx a.toNat 32)
/-- ZEXTW. -/
def execZextw (x : Una) (s : State) : Out1 := run s (unaOp x fun a => zx a.toNat 32)
/-- SCADD. -/
def execScadd (x : Alu) (s : State) : Out1 := run s (aluOp x fun a b => (a <<< 3) + b)

/-- SEL reads its destination: gA where the old gD is not zero, else b(). -/
def execSel (x : Alu) (s : State) : Out1 := run s fun s =>
  (needRegs (x.d :: x.a :: bRegs x.b) s).bind fun _ s =>
  (readB x.b s).bind fun b s =>
  (wrG x.d (if s.me.gr x.d ≠ 0 then s.me.gr x.a else b) s).bind fun _ s => finish (bLenS x.b) s

/-- A field extraction (11 R259). -/
def bfxOp (x : Bfx) (f : Nat → Nat → Word) (s : State) : R Unit :=
  (needRegs [x.a] s).bind fun _ s =>
  (wrG x.d (f ((s.me.gr x.a).toNat / 2 ^ x.pos.toNat) (x.wm1.toNat + 1)) s).bind fun _ s => finish 12 s

/-- BFXS. -/
def execBfxs (x : Bfx) (s : State) : Out1 := run s (bfxOp x sx)
/-- BFXU. -/
def execBfxu (x : Bfx) (s : State) : Out1 := run s (bfxOp x zx)

/-- BFI. -/
def execBfi (x : BfiA) (s : State) : Out1 := run s fun s =>
  (needRegs (x.a :: bRegs x.b) s).bind fun _ s =>
  (readB x.b s).bind fun b s =>
  (wrG x.d (insertField (s.me.gr x.a) b x.pos.toNat (x.wm1.toNat + 1)) s).bind fun _ s => finish (bLenX x.b) s

/-- DIV. -/
def execDiv (x : LongAlu) (s : State) : Out1 := run s (divOp x divS)
/-- DIVU. -/
def execDivu (x : LongAlu) (s : State) : Out1 := run s (divOp x divU)
/-- REM. -/
def execRem (x : LongAlu) (s : State) : Out1 := run s (divOp x remS)
/-- REMU. -/
def execRemu (x : LongAlu) (s : State) : Out1 := run s (divOp x remU)

end Sys2Proof.Machine
end

