-- ==== Sys2Proof/Machine/Dispatch.lean ====
section
/-!
DEFINITION. The meaning of every instruction and device step: one arm for each constructor, each a call of its meaning.
-/
namespace Sys2Proof.Machine

def exec (i : Instr) (s : State) : Host.Outcome State Fault Refusal :=
  match i with
  | .add x => Sys2Proof.Machine.execAdd x s
  | .sub x => Sys2Proof.Machine.execSub x s
  | .mul x => Sys2Proof.Machine.execMul x s
  | .mulh x => Sys2Proof.Machine.execMulh x s
  | .mulhu x => Sys2Proof.Machine.execMulhu x s
  | .andr x => Sys2Proof.Machine.execAndr x s
  | .orr x => Sys2Proof.Machine.execOrr x s
  | .xor x => Sys2Proof.Machine.execXor x s
  | .andn x => Sys2Proof.Machine.execAndn x s
  | .shl x => Sys2Proof.Machine.execShl x s
  | .shr x => Sys2Proof.Machine.execShr x s
  | .sar x => Sys2Proof.Machine.execSar x s
  | .rol x => Sys2Proof.Machine.execRol x s
  | .min x => Sys2Proof.Machine.execMin x s
  | .max x => Sys2Proof.Machine.execMax x s
  | .minu x => Sys2Proof.Machine.execMinu x s
  | .maxu x => Sys2Proof.Machine.execMaxu x s
  | .slt x => Sys2Proof.Machine.execSlt x s
  | .sltu x => Sys2Proof.Machine.execSltu x s
  | .seq x => Sys2Proof.Machine.execSeq x s
  | .sne x => Sys2Proof.Machine.execSne x s
  | .clz x => Sys2Proof.Machine.execClz x s
  | .ctz x => Sys2Proof.Machine.execCtz x s
  | .popc x => Sys2Proof.Machine.execPopc x s
  | .brev x => Sys2Proof.Machine.execBrev x s
  | .bswap x => Sys2Proof.Machine.execBswap x s
  | .sextb x => Sys2Proof.Machine.execSextb x s
  | .sexth x => Sys2Proof.Machine.execSexth x s
  | .sextw x => Sys2Proof.Machine.execSextw x s
  | .zextw x => Sys2Proof.Machine.execZextw x s
  | .scadd x => Sys2Proof.Machine.execScadd x s
  | .sel x => Sys2Proof.Machine.execSel x s
  | .bfxs x => Sys2Proof.Machine.execBfxs x s
  | .bfxu x => Sys2Proof.Machine.execBfxu x s
  | .bfi x => Sys2Proof.Machine.execBfi x s
  | .div x => Sys2Proof.Machine.execDiv x s
  | .divu x => Sys2Proof.Machine.execDivu x s
  | .rem x => Sys2Proof.Machine.execRem x s
  | .remu x => Sys2Proof.Machine.execRemu x s
  | .br c a b off => Sys2Proof.Machine.execBr c a b off s
  | .brp c p off => Sys2Proof.Machine.execBrp c p off s
  | .jmp off => Sys2Proof.Machine.execJmp off s
  | .call link off => Sys2Proof.Machine.execCall link off s
  | .jmpr a b => Sys2Proof.Machine.execJmpr a b s
  | .callr x => Sys2Proof.Machine.execCallr x s
  | .ret => Sys2Proof.Machine.execRet s
  | .nop => Sys2Proof.Machine.execNop s
  | .yield => Sys2Proof.Machine.execYield s
  | .halt => Sys2Proof.Machine.execHalt s
  | .trap b => Sys2Proof.Machine.execTrap b s
  | .bkpt b => Sys2Proof.Machine.execBkpt b s
  | .gets d n => Sys2Proof.Machine.execGets d n s
  | .sets n a => Sys2Proof.Machine.execSets n a s
  | .stepgo a => Sys2Proof.Machine.execStepgo a s
  | .eret => Sys2Proof.Machine.execEret s
  | .illegalInstruction w => Sys2Proof.Machine.execIllegalInstruction w s
  | .ld x => Sys2Proof.Machine.execLd x s
  | .st x => Sys2Proof.Machine.execSt x s
  | .ldf x => Sys2Proof.Machine.execLdf x s
  | .stf x => Sys2Proof.Machine.execStf x s
  | .feset x => Sys2Proof.Machine.execFeset x s
  | .feclr x => Sys2Proof.Machine.execFeclr x s
  | .feget x => Sys2Proof.Machine.execFeget x s
  | .amoadd x => Sys2Proof.Machine.execAmoadd x s
  | .amoand x => Sys2Proof.Machine.execAmoand x s
  | .amoor x => Sys2Proof.Machine.execAmoor x s
  | .amoxor x => Sys2Proof.Machine.execAmoxor x s
  | .amomin x => Sys2Proof.Machine.execAmomin x s
  | .amomax x => Sys2Proof.Machine.execAmomax x s
  | .amominu x => Sys2Proof.Machine.execAmominu x s
  | .amomaxu x => Sys2Proof.Machine.execAmomaxu x s
  | .amoswp x => Sys2Proof.Machine.execAmoswp x s
  | .amocas x => Sys2Proof.Machine.execAmocas x s
  | .amofadd x => Sys2Proof.Machine.execAmofadd x s
  | .fence sc => Sys2Proof.Machine.execFence sc s
  | .drain p => Sys2Proof.Machine.execDrain p s
  | .bar n => Sys2Proof.Machine.execBar n s
  | .sbar n => Sys2Proof.Machine.execSbar n s
  | .bind d a seg => Sys2Proof.Machine.execBind d a seg s
  | .unbind d => Sys2Proof.Machine.execUnbind d s
  | .flume f a => Sys2Proof.Machine.execFlume f a s
  | .mrecv look d a => Sys2Proof.Machine.execMrecv look d a s
  | .mrecvPoll look d a => Sys2Proof.Machine.execMrecvPoll look d a s
  | .msend d a n => Sys2Proof.Machine.execMsend d a n s
  | .spawn d a => Sys2Proof.Machine.execSpawn d a s
  | .segld d a seg => Sys2Proof.Machine.execSegld d a seg s
  | .segrd d a hi => Sys2Proof.Machine.execSegrd d a hi s
  | .ldb x => Sys2Proof.Machine.execLdb x s
  | .stb x => Sys2Proof.Machine.execStb x s
  | .cpy x => Sys2Proof.Machine.execCpy x s
  | .cpyr x => Sys2Proof.Machine.execCpyr x s
  | .cpyrOrd x => Sys2Proof.Machine.execCpyrOrd x s
  | .rqcpy x => Sys2Proof.Machine.execRqcpy x s
  | .chain x => Sys2Proof.Machine.execChain x s
  | .cstep x => Sys2Proof.Machine.execCstep x s
  | .cchain x => Sys2Proof.Machine.execCchain x s
  | .dgst d a seg => Sys2Proof.Machine.execDgst d a seg s
  | .pin x => Sys2Proof.Machine.execPin x s
  | .unpin x => Sys2Proof.Machine.execUnpin x s
  | .cistrn d a n => Sys2Proof.Machine.execCistrn d a n s
  | .vadd x => Sys2Proof.Machine.execVadd x s
  | .vsub x => Sys2Proof.Machine.execVsub x s
  | .vmul x => Sys2Proof.Machine.execVmul x s
  | .vfma x => Sys2Proof.Machine.execVfma x s
  | .vfms x => Sys2Proof.Machine.execVfms x s
  | .vnfma x => Sys2Proof.Machine.execVnfma x s
  | .vmin x => Sys2Proof.Machine.execVmin x s
  | .vmax x => Sys2Proof.Machine.execVmax x s
  | .vabs x => Sys2Proof.Machine.execVabs x s
  | .vneg x => Sys2Proof.Machine.execVneg x s
  | .vrcpe x => Sys2Proof.Machine.execVrcpe x s
  | .vrsqe x => Sys2Proof.Machine.execVrsqe x s
  | .vaddS x => Sys2Proof.Machine.execVaddS x s
  | .vsubS x => Sys2Proof.Machine.execVsubS x s
  | .vmulS x => Sys2Proof.Machine.execVmulS x s
  | .vfmaS x => Sys2Proof.Machine.execVfmaS x s
  | .vfmsS x => Sys2Proof.Machine.execVfmsS x s
  | .vnfmaS x => Sys2Proof.Machine.execVnfmaS x s
  | .vminS x => Sys2Proof.Machine.execVminS x s
  | .vmaxS x => Sys2Proof.Machine.execVmaxS x s
  | .viadd x => Sys2Proof.Machine.execViadd x s
  | .visub x => Sys2Proof.Machine.execVisub x s
  | .vimul x => Sys2Proof.Machine.execVimul x s
  | .vand x => Sys2Proof.Machine.execVand x s
  | .vor x => Sys2Proof.Machine.execVor x s
  | .vxor x => Sys2Proof.Machine.execVxor x s
  | .vshl x => Sys2Proof.Machine.execVshl x s
  | .vshr x => Sys2Proof.Machine.execVshr x s
  | .vsar x => Sys2Proof.Machine.execVsar x s
  | .vimin x => Sys2Proof.Machine.execVimin x s
  | .vimax x => Sys2Proof.Machine.execVimax x s
  | .viminu x => Sys2Proof.Machine.execViminu x s
  | .vimaxu x => Sys2Proof.Machine.execVimaxu x s
  | .viaddS x => Sys2Proof.Machine.execViaddS x s
  | .visubS x => Sys2Proof.Machine.execVisubS x s
  | .vimulS x => Sys2Proof.Machine.execVimulS x s
  | .vandS x => Sys2Proof.Machine.execVandS x s
  | .vorS x => Sys2Proof.Machine.execVorS x s
  | .vxorS x => Sys2Proof.Machine.execVxorS x s
  | .vshlS x => Sys2Proof.Machine.execVshlS x s
  | .vshrS x => Sys2Proof.Machine.execVshrS x s
  | .vsarS x => Sys2Proof.Machine.execVsarS x s
  | .viminS x => Sys2Proof.Machine.execViminS x s
  | .vimaxS x => Sys2Proof.Machine.execVimaxS x s
  | .viminuS x => Sys2Proof.Machine.execViminuS x s
  | .vimaxuS x => Sys2Proof.Machine.execVimaxuS x s
  | .vcmp c x => Sys2Proof.Machine.execVcmp c x s
  | .pand x => Sys2Proof.Machine.execPand x s
  | .por x => Sys2Proof.Machine.execPor x s
  | .pxor x => Sys2Proof.Machine.execPxor x s
  | .pandn x => Sys2Proof.Machine.execPandn x s
  | .whilelt x => Sys2Proof.Machine.execWhilelt x s
  | .whilele x => Sys2Proof.Machine.execWhilele x s
  | .vpopc x => Sys2Proof.Machine.execVpopc x s
  | .vfirst x => Sys2Proof.Machine.execVfirst x s
  | .vsel x => Sys2Proof.Machine.execVsel x s
  | .vext x => Sys2Proof.Machine.execVext x s
  | .vins x => Sys2Proof.Machine.execVins x s
  | .vbcast x => Sys2Proof.Machine.execVbcast x s
  | .viota x => Sys2Proof.Machine.execViota x s
  | .vlen x => Sys2Proof.Machine.execVlen x s
  | .vmov x => Sys2Proof.Machine.execVmov x s
  | .vperm x => Sys2Proof.Machine.execVperm x s
  | .vziplo x => Sys2Proof.Machine.execVziplo x s
  | .vziphi x => Sys2Proof.Machine.execVziphi x s
  | .vunzlo x => Sys2Proof.Machine.execVunzlo x s
  | .vunzhi x => Sys2Proof.Machine.execVunzhi x s
  | .vslideup x => Sys2Proof.Machine.execVslideup x s
  | .vslidedn x => Sys2Proof.Machine.execVslidedn x s
  | .vrev x => Sys2Proof.Machine.execVrev x s
  | .vcompact x => Sys2Proof.Machine.execVcompact x s
  | .vrope x => Sys2Proof.Machine.execVrope x s
  | .vdiv x => Sys2Proof.Machine.execVdiv x s
  | .vsqrt x => Sys2Proof.Machine.execVsqrt x s
  | .vexp x => Sys2Proof.Machine.execVexp x s
  | .vlog x => Sys2Proof.Machine.execVlog x s
  | .vtanh x => Sys2Proof.Machine.execVtanh x s
  | .verf x => Sys2Proof.Machine.execVerf x s
  | .vredadd x => Sys2Proof.Machine.execVredadd x s
  | .vredmax x => Sys2Proof.Machine.execVredmax x s
  | .vredmin x => Sys2Proof.Machine.execVredmin x s
  | .vscanadd x => Sys2Proof.Machine.execVscanadd x s
  | .vld x => Sys2Proof.Machine.execVld x s
  | .vldStrided x => Sys2Proof.Machine.execVldStrided x s
  | .vst x => Sys2Proof.Machine.execVst x s
  | .vstStrided x => Sys2Proof.Machine.execVstStrided x s
  | .vldx x => Sys2Proof.Machine.execVldx x s
  | .vstx x => Sys2Proof.Machine.execVstx x s
  | .vldq x => Sys2Proof.Machine.execVldq x s
  | .vstq x => Sys2Proof.Machine.execVstq x s
  | .vcvt x => Sys2Proof.Machine.execVcvt x s
  | .vrng d pg ty => Sys2Proof.Machine.execVrng d pg ty s
  | .rseed a => Sys2Proof.Machine.execRseed a s
  | .wld x => Sys2Proof.Machine.execWld x s
  | .mma x => Sys2Proof.Machine.execMma x s
  | .msacc x => Sys2Proof.Machine.execMsacc x s
  | .mzero t => Sys2Proof.Machine.execMzero t s
  | .mpri n => Sys2Proof.Machine.execMpri n s
  | .mst x => Sys2Proof.Machine.execMst x s
  | .mlda x => Sys2Proof.Machine.execMlda x s
  | .mstq x => Sys2Proof.Machine.execMstq x s
  | .mstqKv x => Sys2Proof.Machine.execMstqKv x s
  | .gathb x => Sys2Proof.Machine.execGathb x s
  | .attn x => Sys2Proof.Machine.execAttn x s
  | .atedrain look d mask => Sys2Proof.Machine.execAtedrain look d mask s
  | .atbound look d => Sys2Proof.Machine.execAtbound look d s
  | .edins x => Sys2Proof.Machine.execEdins x s
  | .eddel x => Sys2Proof.Machine.execEddel x s
  | .edsub x => Sys2Proof.Machine.execEdsub x s
  | .settle x => Sys2Proof.Machine.execSettle x s
  | .ctxrdNow x => Sys2Proof.Machine.execCtxrdNow x s
  | .ctxrdAt x => Sys2Proof.Machine.execCtxrdAt x s
  | .silt x => Sys2Proof.Machine.execSilt x s
  | .ctxreg x => Sys2Proof.Machine.execCtxreg x s
  | .ctxregRel look d a => Sys2Proof.Machine.execCtxregRel look d a s
  | .commitb x => Sys2Proof.Machine.execCommitb x s
  | .commitbSkip x => Sys2Proof.Machine.execCommitbSkip x s
  | .probe x => Sys2Proof.Machine.execProbe x s
  | .repack look d a => Sys2Proof.Machine.execRepack look d a s
  | .fcst x => Sys2Proof.Machine.execFcst x s
  | .facc look a => Sys2Proof.Machine.execFacc look a s
  | .fend look => Sys2Proof.Machine.execFend look s
  | .resultArrival => Sys2Proof.Machine.execResultArrival s
  | .engineCompletion => Sys2Proof.Machine.execEngineCompletion s
  | .threadWake => Sys2Proof.Machine.execThreadWake s
  | .messageArrival => Sys2Proof.Machine.execMessageArrival s
  | .spawnArrival => Sys2Proof.Machine.execSpawnArrival s
  | .migrationArrival => Sys2Proof.Machine.execMigrationArrival s
  | .runnelFill => Sys2Proof.Machine.execRunnelFill s
  | .runnelDrain => Sys2Proof.Machine.execRunnelDrain s
  | .storeVerdict => Sys2Proof.Machine.execStoreVerdict s
  | .fenceEcho => Sys2Proof.Machine.execFenceEcho s
  | .culvertRecord => Sys2Proof.Machine.execCulvertRecord s
  | .chainOwnWake => Sys2Proof.Machine.execChainOwnWake s
  | .scoutProbe => Sys2Proof.Machine.execScoutProbe s
  | .confluenceStep => Sys2Proof.Machine.execConfluenceStep s
  | .stepDataArrival => Sys2Proof.Machine.execStepDataArrival s
  | .stepAcknowledge => Sys2Proof.Machine.execStepAcknowledge s
  | .matrixDispatch => Sys2Proof.Machine.execMatrixDispatch s
  | .matrixRetire => Sys2Proof.Machine.execMatrixRetire s
  | .wldFillComplete => Sys2Proof.Machine.execWldFillComplete s
  | .mmaReplay => Sys2Proof.Machine.execMmaReplay s
  | .attnRetire => Sys2Proof.Machine.execAttnRetire s
  | .editArbitration => Sys2Proof.Machine.execEditArbitration s
  | .surgeDispatch => Sys2Proof.Machine.execSurgeDispatch s
  | .contextReleaseComplete => Sys2Proof.Machine.execContextReleaseComplete s
  | .requantisation => Sys2Proof.Machine.execRequantisation s
  | .tierMigration => Sys2Proof.Machine.execTierMigration s
  | .recordFree => Sys2Proof.Machine.execRecordFree s
  | .stepBuild => Sys2Proof.Machine.execStepBuild s
  | .taskEnd => Sys2Proof.Machine.execTaskEnd s
  | .reexecutionEnd => Sys2Proof.Machine.execReexecutionEnd s
  | .queueKick => Sys2Proof.Machine.execQueueKick s
  | .packetFetchRetry => Sys2Proof.Machine.execPacketFetchRetry s
  | .deviceQueueKick => Sys2Proof.Machine.execDeviceQueueKick s
  | .queueEnable => Sys2Proof.Machine.execQueueEnable s
  | .launch => Sys2Proof.Machine.execLaunch s
  | .teardown => Sys2Proof.Machine.execTeardown s
  | .suspend => Sys2Proof.Machine.execSuspend s
  | .resume => Sys2Proof.Machine.execResume s
  | .workitem => Sys2Proof.Machine.execWorkitem s
  | .publish => Sys2Proof.Machine.execPublish s
  | .launchSelect => Sys2Proof.Machine.execLaunchSelect s
  | .gangPlacement => Sys2Proof.Machine.execGangPlacement s
  | .preemption => Sys2Proof.Machine.execPreemption s
  | .preemptionSave => Sys2Proof.Machine.execPreemptionSave s
  | .restore => Sys2Proof.Machine.execRestore s
  | .registerWrite => Sys2Proof.Machine.execRegisterWrite s
  | .hostApertureAccess => Sys2Proof.Machine.execHostApertureAccess s
  | .peerIngressAccess => Sys2Proof.Machine.execPeerIngressAccess s
  | .translationWalk => Sys2Proof.Machine.execTranslationWalk s
  | .fcmdWake => Sys2Proof.Machine.execFcmdWake s
  | .fcmdReplayAll => Sys2Proof.Machine.execFcmdReplayAll s
  | .fcmdFail => Sys2Proof.Machine.execFcmdFail s
  | .tinvPage => Sys2Proof.Machine.execTinvPage s
  | .tinvFunction => Sys2Proof.Machine.execTinvFunction s
  | .tinvAll => Sys2Proof.Machine.execTinvAll s
  | .tinvComplete => Sys2Proof.Machine.execTinvComplete s
  | .pageMigrate => Sys2Proof.Machine.execPageMigrate s
  | .pageUnmap => Sys2Proof.Machine.execPageUnmap s
  | .pcmdInvalid => Sys2Proof.Machine.execPcmdInvalid s
  | .channelRetire => Sys2Proof.Machine.execChannelRetire s
  | .lineRecompress => Sys2Proof.Machine.execLineRecompress s
  | .thermalCrossing => Sys2Proof.Machine.execThermalCrossing s
  | .slotReenable => Sys2Proof.Machine.execSlotReenable s
  | .powerInterval => Sys2Proof.Machine.execPowerInterval s
  | .healthLatch => Sys2Proof.Machine.execHealthLatch s
  | .healthClear => Sys2Proof.Machine.execHealthClear s
  | .softError => Sys2Proof.Machine.execSoftError s
  | .getVersion => Sys2Proof.Machine.execGetVersion s
  | .getCapabilities => Sys2Proof.Machine.execGetCapabilities s
  | .negotiateAlgorithms => Sys2Proof.Machine.execNegotiateAlgorithms s
  | .getDigests => Sys2Proof.Machine.execGetDigests s
  | .getCertificate => Sys2Proof.Machine.execGetCertificate s
  | .challenge => Sys2Proof.Machine.execChallenge s
  | .getMeasurements => Sys2Proof.Machine.execGetMeasurements s
  | .keyExchange => Sys2Proof.Machine.execKeyExchange s
  | .finish => Sys2Proof.Machine.execFinish s
  | .heartbeat => Sys2Proof.Machine.execHeartbeat s
  | .endSession => Sys2Proof.Machine.execEndSession s
  | .unsupportedSpdmRequest => Sys2Proof.Machine.execUnsupportedSpdmRequest s
  | .sealkeyInstall => Sys2Proof.Machine.execSealkeyInstall s
  | .sealkeyErase => Sys2Proof.Machine.execSealkeyErase s
  | .functionLevelReset => Sys2Proof.Machine.execFunctionLevelReset s
  | .reset => Sys2Proof.Machine.execReset s
  | .memoryTraining => Sys2Proof.Machine.execMemoryTraining s
  | .discoveryRound => Sys2Proof.Machine.execDiscoveryRound s
  | .discoveryReturn => Sys2Proof.Machine.execDiscoveryReturn s
  | .discoveryDone => Sys2Proof.Machine.execDiscoveryDone s
  | .multicastAttempt => Sys2Proof.Machine.execMulticastAttempt s
  | .multicastFlit => Sys2Proof.Machine.execMulticastFlit s
  | .multicastAnswer => Sys2Proof.Machine.execMulticastAnswer s
  | .dieJoin => Sys2Proof.Machine.execDieJoin s
  | .aliasKeyDerivation => Sys2Proof.Machine.execAliasKeyDerivation s
  | .linkUp => Sys2Proof.Machine.execLinkUp s
  | .firmwareUpdateStage => Sys2Proof.Machine.execFirmwareUpdateStage s
  | .linkRetry => Sys2Proof.Machine.execLinkRetry s
  | .assistRingConsume => Sys2Proof.Machine.execAssistRingConsume s
  | .assistRingEnable => Sys2Proof.Machine.execAssistRingEnable s
  | .freeListRefill => Sys2Proof.Machine.execFreeListRefill s
  | .vectorUnmask => Sys2Proof.Machine.execVectorUnmask s

end Sys2Proof.Machine
end

