-- ==== Sys2Proof/Machine/Issue.lean ====
section
/-!
DEFINITION. One turn of a thread: the instruction boundary, the fetch, the decoding, the instruction's meaning, the bundle of two
(10 R251 to R253), and the held commands of an accepted lane (07 R200).
-/
namespace Sys2Proof.Machine

/-! ## What stands at an offset -/

/-- An instruction with its base word and length, or what the fetch or the decoding made of it. -/
inductive Got where
  | ok (i : Instr) (w : BitVec 32) (len : Nat)
  | bad (x : Trap)
  | page (w : PageWait) (s : State)
  | failed

/-- Fetches and decodes the instruction of the current thread at an offset (10 R236, R253). -/
def State.look (s : State) (pc : Word) : Got :=
  match s.fetch pc with
  | .seg r => .bad ⟨4, segTval r 0, none⟩
  | .page w s => .page w s
  | .failed => .failed
  | .bytes l =>
    match decodeBytes l with
    | .ok i => .ok i ((wordsOfBytes l).getD 0 0) (lenOfBytes l)
    | .bad c w => .bad (badTrap l c w)

/-! ## Bundles (10 R249, R251, R252) -/

/-- MAJOR of a base word. -/
def majorOf (w : BitVec 32) : Nat := w.toNat / 4 % 64

/-- FUNC4 of a base word. -/
def func4Of (w : BitVec 32) : Nat := w.toNat / 2 ^ 28

/-- The class of the instruction that a base word begins. -/
def classOf (w : BitVec 32) : Class :=
  let m := majorOf w
  let f := func4Of w
  if m = 0x0D then (if f = 2 || f = 3 || f = 4 || f = 7 then .control else .scalar)
  else if 0x08 ≤ m && m ≤ 0x0C then .control
  else if m < 0x20 then .scalar
  else if m < 0x30 then .vector
  else .solo

/-- Instructions that park at their issue whatever they find: FENCE, BAR and the held instructions (10 R251, 12 R278). -/
def parksAlways (w : BitVec 32) : Bool :=
  let m := majorOf w
  let f := func4Of w
  m == 0x14 || (m == 0x16 && (f == 0 || f == 2)) || (m == 0x18 && f == 2) || (m == 0x1B && (f == 1 || f == 2 || f == 3))

/-- The first half of a bundle was of a kind that allows a second, and has gone its ordinary way; a late fault that it has already
found closes at the second like a window of 0 (01 R476). -/
def leads (w : BitVec 32) (len : Nat) (t0 t1 : Thread) : Bool :=
  classOf w == .scalar && !parksAlways w && !t0.again && t1.seq == t0.seq + 1 && t1.pc == t0.pc + w64 len && t1.park.isNone &&
  t1.uid == t0.uid && !(t1.windows.any fun x => x.rem == 0) && !(t1.verdicts.any (·.returned))

/-- The second half of a bundle, once the first has issued. -/
def State.second (s1 : State) (w : BitVec 32) (len : Nat) (t0 : Thread) : Option Instr :=
  if leads w len t0 s1.me then
    match s1.look s1.me.pc with
    | .ok j v _ => if classOf v == .vector then some j else none
    | _ => none
  else none

/-- Issues an instruction of the current thread, and with it the second half of its bundle, which reads every register as it
stood before the bundle. -/
def State.issueAt (s : State) (i : Instr) (w : BitVec 32) (len : Nat) : Out1 :=
  match exec i s with
  | .next s1 =>
    match s1.second w len s.me with
    | some j => exec j (s1.upd fun t => { t with shadow := some { s.me.snap with run := some s.me.runnels } })
    | none => .next s1
  | x => x

/-- A fetch from a page that was failed: its exception is late (21 R433). [DEDUCED, log 52] -/
def State.failedFetch (s : State) : State :=
  let s := s.upd fun t => { t with failed := [], verdicts := t.verdicts ++ [⟨⟨t.seq, t.pc, failTrap⟩, true⟩] }
  match s.boundary with
  | .stop s => s
  | .ok _ s => s

/-- The current thread's turn. -/
def State.issueOne (s : State) : Out1 :=
  match s.boundary with
  | .stop s => .next s
  | .ok _ s =>
    match s.look s.me.pc with
    | .bad x => .next (s.raise x)
    | .page w s => .next (s.parkMe (.page w))
    | .failed => .next s.failedFetch
    | .ok i w len => s.issueAt i w len

/-! ## Held commands of an accepted lane (07 R200) -/

/-- Puts a window in issue order. -/
def insertWin (w : Window) : List Window → List Window
  | [] => [w]
  | x :: t => if w.wid < x.wid then w :: x :: t else x :: insertWin w t

/-- The thread after a held command's issue: its own place again, with the window that the command opened. -/
def Thread.afterHeld (t2 t : Thread) (h : Held) : Thread :=
  let retired := t2.seq == h.seq + 1
  let trapped := t2.inh && !t.inh
  let fresh := (t2.windows.filter fun w => w.wid == h.seq + 1).map fun w => { w with rem := w.rem - (t.seq - (h.seq + 1)) }
  { t2 with
    pc := if trapped then t2.pc else t.pc, seq := t.seq, shadow := none, icount := t.icount,
    windows := if trapped then t2.windows else fresh.foldl (fun l w => insertWin w l) t.windows,
    lane := t2.lane.map fun l => if retired || trapped then { l with held := l.held.drop 1 } else l }

/-- Issues the oldest command that the current lane held back, with the registers of its issue. -/
def State.issueHeld (s : State) (h : Held) : Out1 :=
  let t := s.me
  match exec h.i (s.upd fun t => { t with pc := h.pc, seq := h.seq, shadow := some h.sh }) with
  | .next s2 => .next (s2.upd fun t2 => t2.afterHeld t h)
  | x => x

/-- The command that the thread is to issue before it goes on. -/
def Thread.firstHeld (t : Thread) : Option Held := t.lane.bind fun l => if l.accepted then l.held.head? else none

/-- The current thread issues. -/
def State.issue (s : State) : Out1 :=
  match s.me.firstHeld with
  | some h => s.issueHeld h
  | none => s.issueOne

end Sys2Proof.Machine
end

