-- ==== Sys2Proof/Machine/Agents.lean ====
section
/-!
DEFINITION. Who can take the next step: the threads by the rotation of their cores (01 R10), the steps of the device that can
come about, and what the outside world does next (03 R94, R95); and how each takes it.
-/
namespace Sys2Proof.Machine

/-! ## Threads (01 R10, R26 to R28; 08 R216) -/

/-- The ready threads of a task. -/
def State.readyOf (s : State) (k : Task) : List Thread := s.threads.filter fun t => t.task == k.tid && t.fw.isNone && t.park.isNone

/-- The lowest number of a list that is at least another, or the lowest. -/
def fromOn (l : List Nat) (n : Nat) : Option Nat := ((l.filter fun x => n ≤ x).min?).or l.min?

/-- The gang and the vcore that have the turn in a serialised task: the ones that have it while they have a ready thread, then
the next gang that has one and its lowest vcore that has one (08 R216). -/
def State.turnOf (s : State) (k : Task) : Option (Nat × Nat) :=
  let idx := (s.readyOf k).map fun t => t.vu % 1024
  (fromOn (idx.map k.gangOf) k.turnGang).bind fun g =>
  let mine := idx.filter fun i => k.gangOf i == g
  if g = k.turnGang && mine.contains k.turn then some (g, k.turn) else mine.min?.map fun i => (g, i)

/-- A thread of a serialised task has the turn, and its engine commands have completed. -/
def State.hasTurn (s : State) (k : Task) (t : Thread) : Bool :=
  !k.inTurn ||
  (s.turnOf k == some (k.gangOf (t.vu % 1024), t.vu % 1024) && !(s.cmds.any fun c => c.thr == t.agent && c.st != .finished))

/-- The thread is ready: it can issue when its turn comes. -/
def State.issues (s : State) (t : Thread) : Bool :=
  t.park.isNone &&
  (t.fw.isSome ||
    (let k := s.task t.task
     k.live && k.status == 0 && !(s.fn k.fn).halted && (k.inTurn || (s.vcore t.vu).resident || s.away t) && s.hasTurn k t))

/-- The core in whose rotation a thread stands. -/
def Thread.coreKey (t : Thread) : Nat := match t.fw with | some d => 2048 + d % 2 | none => t.core

/-- Puts a thread of a core in ascending slot. -/
def insertSlot (t : Thread) : List Thread → List Thread
  | [] => [t]
  | x :: l => if t.pslot < x.pslot then t :: x :: l else x :: insertSlot t l

/-- The ready threads of a core, in ascending slot. -/
def State.readyOn (s : State) (key : Nat) : List Thread :=
  (s.threads.filter fun t => t.coreKey == key && s.issues t).foldr insertSlot []

/-- The slots that have still to issue in the core's pass. -/
def State.leftOf (s : State) (key : Nat) : List Nat := ((s.turns.find? fun x => x.1 == key).map (·.2)).getD []

/-- The core's pass: the ready threads that have still to issue in it; of a new pass, those that did not give it up. -/
def State.pass (s : State) (key : Nat) : List Thread × Bool :=
  let ready := s.readyOn key
  match ready.filter fun t => (s.leftOf key).contains t.pslot with
  | [] => (if ready.all (·.skip) then ready else ready.filter (!·.skip), true)
  | l => (l, false)

/-- Puts what is left of a core's pass. -/
def putTurn (l : List (Nat × List Nat)) (key : Nat) (left : List Nat) : List (Nat × List Nat) :=
  (l.filter fun x => x.1 != key) ++ (if left = [] then [] else [(key, left)])

/-- The turn of a serialised task goes to a thread's gang and vcore: its time-sliced vcores are then the resident ones, and those of
the gang before leave their cores (01 R27). -/
def State.giveTurn (s : State) (t : Thread) : State :=
  let k := s.task t.task
  if t.fw.isSome || !k.inTurn then s
  else
    let g := k.gangOf (t.vu % 1024)
    let s := s.setTask k.tid fun k => { k with turnGang := g, turn := t.vu % 1024 }
    (s.vcores.filter fun v => v.task == k.tid && v.mode == .sliced && v.resident != (k.gangOf v.idx == g)).foldl (fun s v =>
      let s := if v.resident then s.saveVcore v.vu else s
      (s.setVcore v.vu fun v => { v with resident := !v.resident }).remap v.vu) s

/-- A core's turn: the first thread of its pass issues. -/
def State.coreTurn (s : State) (key : Nat) : Out1 :=
  match s.pass key with
  | ([], _) => .fault .idle
  | (t :: rest, fresh) =>
    let s : State := { s with
      turns := putTurn s.turns key (rest.map (·.pslot)),
      threads := if fresh then s.threads.map fun x => if x.coreKey == key then { x with skip := false } else x else s.threads }
    let s := s.giveTurn t
    ({ s with cur := some t.uid } : State).issue

/-! ## Steps of the device -/

/-- The steps that the outside world, the host or firmware decides on; they come from the inputs. [DESIGN CHOICE, log 59] -/
def isOutside : Instr → Bool
  | .stepDataArrival | .stepAcknowledge | .linkRetry | .requantisation | .tierMigration | .queueKick | .queueEnable
  | .registerWrite | .hostApertureAccess | .peerIngressAccess | .translationWalk | .fcmdWake | .fcmdReplayAll | .fcmdFail
  | .tinvPage | .tinvFunction | .tinvAll | .pageMigrate | .pageUnmap | .pcmdInvalid | .channelRetire | .lineRecompress
  | .thermalCrossing | .slotReenable | .powerInterval | .healthLatch | .healthClear | .softError | .getVersion
  | .getCapabilities | .negotiateAlgorithms | .getDigests | .getCertificate | .challenge | .getMeasurements | .keyExchange
  | .finish | .heartbeat | .endSession | .unsupportedSpdmRequest | .sealkeyInstall | .sealkeyErase | .functionLevelReset
  | .reset | .firmwareUpdateStage | .assistRingConsume | .assistRingEnable | .freeListRefill | .vectorUnmask => true
  | _ => false

/-- A step's event. -/
def ev (i : Instr) (op : EvOp := {}) : Event := { i := i, op := op }

/-- Steps that a thread may be about to see. -/
def Thread.events (t : Thread) : List Event :=
  (t.windows.filter Window.waiting).map (fun w => ev .resultArrival { thr := t.uid, wid := w.wid }) ++
  (if t.park.isSome then [ev .threadWake { thr := t.uid }, ev .migrationArrival { thr := t.uid }] else []) ++
  (t.runnels.flatMap fun y => [ev .runnelFill { thr := t.uid, wid := y.v }, ev .runnelDrain { thr := t.uid, wid := y.v }]) ++
  (if t.verdicts = [] then [] else [ev .storeVerdict { thr := t.uid }]) ++
  (if t.echoes = 0 then [] else
    ((List.range 128).filter fun i => t.echoes.toNat.testBit i).map fun i => ev .fenceEcho { thr := t.uid, wid := i })

/-- A message's target is a vcore that a suspended task has saved. -/
def State.savedTarget (s : State) (m : Msg) : Bool := (s.task (m.target / 1024)).saved.any fun x => x.vc.vu == m.target

/-- The steps of messages. -/
def State.msgEvents (s : State) : List Event :=
  (s.msgs.filter fun x => !s.savedTarget x.2).map fun x =>
    ev (if x.2.spawn then .spawnArrival else .messageArrival) { thr := x.1 }

/-- A task's engines go on. -/
def State.goesOn (s : State) (tid : Nat) : Bool :=
  match s.task? tid with
  | some k => k.live && !(s.fn k.fn).halted
  | none => false

/-- The steps of the engines. [DEDUCED, log 25] -/
def State.engineEvents (s : State) : List Event :=
  ((s.cmds.filter fun c => c.st != .finished && s.goesOn c.task).flatMap fun c =>
    [.culvertRecord, .chainOwnWake, .scoutProbe, .confluenceStep, .engineCompletion].map fun i => ev i { cmd := c.id }) ++
  ((s.matq.filter fun m => (s.thread? m.thr).isSome && s.goesOn (m.vu / 1024)).flatMap fun m =>
    [.matrixDispatch, .matrixRetire, .mmaReplay, .attnRetire].map fun i => ev i { thr := m.thr }) ++
  (s.fills.filter fun f => (s.vcore? f.vu).isSome && s.goesOn (f.vu / 1024)).map fun f =>
    ev .wldFillComplete { vc := f.vu, wid := f.order }

/-- The steps of contexts and records. -/
def State.ctxEvents (s : State) : List Event :=
  (s.ctxs.flatMap fun c =>
    [.editArbitration, .surgeDispatch, .contextReleaseComplete].map fun i => ev i { ctx := c.h }) ++
  s.retired.map fun x => ev .recordFree { fn := x.fn, addr := x.va }

/-- The steps of a task. -/
def Task.events (k : Task) : List Event :=
  [.gangPlacement, .restore, .taskEnd, .reexecutionEnd].map fun i => ev i { task := k.tid }

/-- The steps of the headgate and the distributor for a function. -/
def State.fnEvents (s : State) (f : Fn) : List Event :=
  ((List.range 8).flatMap fun q =>
    let x := s.queue f.n q
    (if x.en then [ev .packetFetchRetry { fn := f.n, q := q }, ev .deviceQueueKick { fn := f.n, q := q }] else []) ++
    (s.packetReady f.n q).toList) ++
  [.launchSelect, .preemption, .preemptionSave].map fun i => ev i { fn := f.n }

/-- The steps of a die on its way from reset to ready. -/
def State.bootEvents (s : State) (die : Nat) : List Event :=
  let d := s.die die
  if d.err ≠ 0 then []
  else
    match d.stage with
    | 2 => [ev .memoryTraining { die := die }]
    | 3 => [ev .discoveryRound { die := die }]
    | 4 => ev .discoveryRound { die := die } :: ev .discoveryDone { die := die } ::
        (d.sites.filter (!·.returned)).map fun x => ev .discoveryReturn { die := die, wid := x.s }
    | 5 => ev .multicastAttempt { die := die } :: d.sites.flatMap fun x =>
        [ev .multicastFlit { die := die, wid := x.s, size := x.flits.length }, ev .multicastAnswer { die := die, wid := x.s }]
    | _ => []

/-- The steps of a die. -/
def State.dieEvents (s : State) (die : Nat) : List Event :=
  (if (s.die die).steps = [] && (s.die die).building.isNone then [] else [ev .stepBuild { die := die }]) ++
  (if (s.die die).tinv.isSome then [ev .tinvComplete { die := die }] else []) ++
  (if (s.die die).pcmd.isSome then [ev .pageMigrate { die := die, wid := 1 }, ev .pageUnmap { die := die, wid := 1 }] else []) ++
  (if (s.die die).cret.isSome then [ev .channelRetire { die := die, wid := 1 }] else []) ++ s.bootEvents die

/-- The steps of the part as a whole. -/
def State.partEvents (s : State) : List Event :=
  (if s.bothAt 1 then [ev .reset] else []) ++ (if s.bothAt 6 then [ev .dieJoin] else []) ++
  (if s.bothAt 7 && (s.die 0).joined then [ev .aliasKeyDerivation] else []) ++ (if s.bothAt 8 then [ev .linkUp] else [])

/-- The outcome is a next state. -/
def isNext : Out1 → Bool
  | .next _ => true
  | _ => false

/-- An event as it is executed: what the host and firmware did before it has been done. -/
def State.prepare (s : State) (e : Event) : State :=
  let s : State := { s with op := e.op, stall := e.wait,
                            mem := e.writes.foldl (fun m x => poke m (hostBase + x.1) x.2) s.mem }
  e.parts.foldl (fun s x =>
    if s.tasks.any fun k => k.fn == x.1 then s
    else
      let s := s.setFn x.1 fun f => { f with part := x.2 }
      if x.2 = [] then s.eraseSlots ((s.keys.filter fun k => k.fn == x.1).map (·.slot)) else s) s

/-- An event can come about now: its meaning answers a next state. -/
def State.enabled (s : State) (e : Event) : Bool := isNext (exec e.i (s.prepare e))

/-- The steps of the device that may come about. -/
def State.candidates (s : State) : List Event :=
  s.threads.flatMap Thread.events ++ s.msgEvents ++ s.engineEvents ++ s.ctxEvents ++ s.tasks.flatMap Task.events ++
  s.fns.flatMap s.fnEvents ++ s.dieEvents 0 ++ s.dieEvents 1 ++ s.partEvents

/-! ## Agents -/

/-- Somebody who can take the next step: the device with a step of its own, a party outside with its next event, a core, a
register block with the oldest write on its way. -/
inductive Agent where
  | device (e : Event)
  | outside (n : Nat) (e : Event)
  | core (key : Nat)
  | register (e : Event)
deriving DecidableEq, Repr

/-- The next events of the parties outside that can come about. -/
def State.outsiders (s : State) : List Agent :=
  ((List.range s.inputs.length).zip s.inputs).filterMap fun x =>
    match x.2 with
    | [] => none
    | e :: _ =>
      if isOutside e.i && (match e.wait with | some w => w.woken | none => true) && s.enabled e then some (.outside x.1 e) else none

/-- The cores that have a ready thread. -/
def State.coresOn (s : State) : List Nat := ((s.threads.filter s.issues).map Thread.coreKey).eraseDups

/-- Everybody who can take the next step. -/
def State.agents (s : State) : List Agent :=
  (s.candidates.filter s.enabled).map Agent.device ++ s.outsiders ++ s.coresOn.map Agent.core ++
  (s.posted.take 1).map Agent.register

/-- Changes the events of a party. -/
def State.setInput (s : State) (n : Nat) (f : List Event → List Event) : State :=
  { s with inputs := ((List.range s.inputs.length).zip s.inputs).map fun x => if x.1 = n then f x.2 else x.2 }

/-- An event that has come about goes; one that waits for a page stays, with what went before it done. -/
def waitHead (w : PageWait) : List Event → List Event
  | [] => []
  | e :: t => { e with writes := [], parts := [], wait := some w } :: t

/-- An agent takes its step. -/
def State.takeStep (s : State) : Agent → Out1
  | .device e => exec e.i (s.prepare e)
  | .core key => s.coreTurn key
  | .register e => match exec e.i ({ s with posted := s.posted.drop 1 }.prepare e) with
    | .next s' => .next s'
    | _ => .next { s with posted := s.posted.drop 1 }
  | .outside n e =>
    match exec e.i (s.prepare e) with
    | .next s' => .next (match s'.stall with
      | some w => s'.setInput n (waitHead w)
      | none => s'.setInput n (·.drop 1))
    | x => x

/-- Which of several goes: no rule says (03 R94). [DESIGN CHOICE, log 1] -/
def nextAgent (s : State) : List Agent → Option Agent
  | [] => none
  | [a] => some a
  | l => l[Config.choose s.tick % l.length]?

/-- A step is over: no thread and no event is in hand, and time has passed. -/
def State.settled (s : State) : State := { s with cur := none, op := {}, stall := none, tick := s.tick + 1 }

end Sys2Proof.Machine
end

