-- ==== Sys2Proof/Machine/Step.lean ====
section
/-!
DEFINITION. One step of the machine: one agent that can go takes its step, whole and indivisible (03 R94); and where a test
places an instruction so that the very next step runs it.
-/
namespace Sys2Proof.Machine

/-- One step. Where nobody can go, time passes. -/
def step (s : State) : Host.Outcome State Fault Refusal :=
  match nextAgent s s.agents with
  | none => .next s.settled
  | some a =>
    match s.takeStep a with
    | .next s' => .next s'.settled
    | .fault f => .fault f
    | .refused r => .refused r

/-- Page tables that map the first page of function 0 to the page at 0x10000, in slice 0, writable, and FUNCTAB's entry. -/
def fetchTables : List (Nat × Nat) :=
  [(0x1000, 2 ^ 63 + 0x20), (0x2000, 2 ^ 63 + 0x40), (0x4000, 2 ^ 63 + 0x80), (0x8000, 2 ^ 63 + 0xC0),
   (0xC000, 2 ^ 63 + 2 ^ 62 + 2 ^ 61 + 0x100)]

/-- The segment register through which the placed instruction is fetched: device addresses 0 to 0xFFFF, EX and RD. -/
def fetchSeg : Seg := { lo := 1#64 <<< 63, hi := w64 ((needEX + needRD) * 2 ^ 59 + 0xFFFF) }

/-- The machine with one running task of one thread, alone on the part, about to fetch an instruction. A program is loaded from
outside the machine; this stands for that load. [DESIGN CHOICE, log 7] -/
def State.withFetchWord (s : State) (nbits w : Nat) : State :=
  let tid := s.nextTask
  let vu := tid * 1024
  let k : Task := { tid := tid, fn := 0, tag := 0, q := 0, prio := 0, st := .running, placedGangs := [0],
                    levels := [⟨true, false, 5, 4, 1⟩, ⟨false, true, 2, 1, 1024⟩, ⟨false, false, 1, 0, 1⟩] }
  let v : Vcore := { vu := vu, task := tid, idx := 0, placed := true, pslots := List.range 8 }
  let t : Thread := { Thread.blank with
    uid := s.nextUid, task := tid, vu := vu, sg := (Vector.replicate 8 {}).set 0 fetchSeg }
  let s : State := { s with
    nextUid := s.nextUid + 1, nextTask := tid + 1, cur := none, op := {}, inputs := [], posted := [], stall := none, threads := [t],
    vcores := [v], tasks := [k], cmds := [], matq := [], fills := [], turns := [], msgs := [], tlb := [],
    functab := 0x1000, fns := [], ctxs := [], retired := [], ready := true,
    dies := s.dies.map fun d => { d with stage := 9, err := 0, steps := [], building := none, tinv := none, pcmd := none, cret := none } }
  let s := fetchTables.foldl (fun s x => s.setNum x.1 8 x.2) s
  s.setBytes 0x10000 (tableBytes (w % 2 ^ nbits))

end Sys2Proof.Machine
end

