-- ==== Sys2Proof/Safety.lean ====
section
/-!
DEFINITION. The terms in which statements about the machine speak: a thread that issues, a thread with nothing outstanding, what
an operand gives, and what holds between two steps.
-/
namespace Sys2Proof.Machine

/-- Between two steps no thread and no event is in hand. -/
def State.between (s : State) : Prop := s.cur = none ∧ s.op = {} ∧ s.stall = none

/-- `t` is the current thread; it reads its own registers, and it is no lane of a forecast loop. -/
structure Issuing (s : State) (t : Thread) : Prop where
  cur : s.cur = some t.uid
  thr : s.thread? t.uid = some t
  shadow : t.shadow = none
  lane : t.lane = none

/-- `t` issues with nothing outstanding: no window, no pending register, no verdict, no late fault, no runnel, no loop. -/
structure Calm (s : State) (t : Thread) : Prop extends Issuing s t where
  windows : t.windows = []
  pend : t.pend = []
  verdicts : t.verdicts = []
  late : t.late = []
  runnels : t.runnels = []
  loop : t.loop = none
  failed : t.failed = []
  /-- No thread is a lane of a loop of its own. -/
  lanes : ∀ x ∈ s.threads, ∀ l ∈ x.lane, l.loopOf ≠ t.uid

/-- None of the registers is the status register of an engine command that is still to be read (01 R19, R20). -/
def Thread.freeOf (t : Thread) (rs : List R5) : Prop := ∀ y ∈ t.pend, y.1 ∉ rs

/-- The value of a b() operand (10 R242, 11 R256). -/
def State.bValue (s : State) : BOp → Word
  | .reg r => s.me.gr r
  | .imm v => v.signExtend 64
  | .lit v => v
  | .cw n => s.dword (abBase s.me.vu + 8 * n.toNat)

/-- A b() operand can be read at once: one from the constant window when no acquiring operation's window is still to return, the
thread is at home, and the word is neither poisoned nor in conflict (10 R242; 11 R257, R274; 03 R82). -/
def State.bReady (s : State) : BOp → Prop
  | .cw n =>
    s.me.windows.all (fun w => !(w.acq && w.waiting)) = true ∧ s.away s.me = false ∧
    s.poisoned (abBase s.me.vu + 8 * n.toNat) = false ∧ s.clash (abBase s.me.vu + 8 * n.toNat) none false false = none
  | _ => True

/-- What reading a b() operand leaves: a constant-window read is a recorded access. -/
def State.afterB (s : State) : BOp → State
  | .cw n => s.record (abBase s.me.vu + 8 * n.toNat) (s.accOf false false)
  | _ => s

/-! ## Accesses -/

/-- An access of `t` to `size` bytes at offset `e` of a segment is made where the thread runs, at `p`: the segment check passes, no
flume stage stands in the way, the thread need not migrate where `mig` says that it would, and the address translates. -/
def Reaches (s : State) (t : Thread) (seg : BitVec 3) (e : Int) (size align need : Nat) (wr : Bool) (mig : SegA → Bool)
    (lcOk : Bool) (p : Place) : Prop :=
  ∃ a, s.unit seg e size align need wr = .ok a ∧
    (a.space = 1 → s.away t = false ∧ (s.vcore t.vu).stageAt t.spt a.addr size = none) ∧
    (mig a = true → s.migrateTo (s.sliceNow a) = none) ∧
    s.trans a wr lcOk (b2n wr) = .ok p

/-- What a snapshot load of `n` bytes at a place brings, none of whose words is poisoned, and the state that it leaves (02 R55). -/
def Snapshot (s : State) (p : Place) (n : Nat) (bs : List Byte) (s' : State) : Prop := s.loadBoth p n false = (bs, none, s')

/-- The doublewords of a record that was read as bytes. -/
def recWords (bs : List Byte) (n : Nat) : List Word := (List.range n).map fun i => w64 (natOfBytes ((bs.drop (8 * i)).take 8))

/-- A place whose bytes lie one after the other, in words as the address counts them: a place of a page that is not converted
(21 R445). -/
def Place.straight (p : Place) : Prop := p.lc = none ∧ p.loc % 8 = p.addr % 8

/-- The bytes that a program can read where a place's bytes are: every place is read through the channel map (21 R442). -/
def State.touches (s : State) (p : Place) (n a : Nat) : Prop := ∃ i < n, s.chan a = s.chan (p.at i)

/-- A thread without what only the order of accesses and the digests are made from. -/
def Thread.bare (t : Thread) : Thread :=
  { t with clock := [], epoch := 0, touched := 0, fenced := [], since := 0, seen := [],
           dig := 0, folded := 0, folds := [] }

/-- A state without what only race detection, FENCE and the report of a deterministic task read: side records of words, clocks and
epochs, touched slices, digests, and the lists of words that atomics wrote. Everything else that a program sees stays. -/
def State.bare (s : State) : State :=
  { s with recs := [], past := [], peers := [], threads := s.threads.map Thread.bare, tasks := s.tasks.map fun k => { k with atoms := [] } }

/-- A state whose memory holds what `m` says, with the poison marks given. -/
def State.withMem (s : State) (m : List Host.Cell) (poison : List Nat) : State := { s with mem := m, poison := poison }

/-! ## How a thread goes on -/

/-- A general register written: g0 discards it, and no engine command keeps the register pending any longer (01 R20, 11 R256). -/
def Thread.put (t : Thread) (d : R5) (x : Word) : Thread :=
  if d = 0 then t else { t with g := t.g.set d.toNat x d.isLt, pend := t.pend.filter fun y => y.1 != d }

/-- The thread after an instruction that changes no register but what `f` changes and leaves the program counter at `pc` (01 R12,
11 R265): one more instruction is counted, and every open window has one instruction less to go. -/
def Thread.wentTo (t : Thread) (f : Thread → Thread) (pc : Word) : Thread :=
  { f t with pc := pc, icount := t.icount + 1, seq := t.seq + 1, failed := [], shadow := none, again := false,
             halting := false, windows := t.windows.map fun w => { w with rem := w.rem - 1 } }

/-- The state in which the current thread went on behind its instruction of `n` bytes. -/
def State.wentOn (s : State) (n : Nat) (f : Thread → Thread := id) : State := s.upd fun t => t.wentTo f (t.pc + w64 n)

/-- The state in which the current thread went to an offset. -/
def State.jumped (s : State) (pc : Word) (f : Thread → Thread := id) : State := s.upd fun t => t.wentTo f pc

/-- One more open window, the youngest, of the instruction that has just issued (01 R12). -/
def Thread.opened (t : Thread) (look : Nat) (pc : Word) (res : WRes) (sync acq : Bool := false) : Thread :=
  { t with windows := t.windows ++ [{ wid := t.seq, rem := look, pc := pc, res := res, sync := sync, acq := acq }] }

/-- The thread at the entry of its trap handler (11 R271), of a trap that the instruction at `pc` raised at its own issue. -/
def Thread.trapped (t : Thread) (pc : Word) (code : Nat) (tval : Word) : Thread :=
  { t with tcause := BitVec.ofNat 64 code, tpc := pc, tpcd := pc, topc := pc, tval := tval, inh := true, pc := t.tvec,
           shadow := none, park := none, failed := [], halting := false }

/-- The state in which the current thread, back at its host core, has taken a trap of its own. -/
def State.trapped (s : State) (code : Nat) (tval : Word) : State := s.goHome.upd fun u => u.trapped s.me.pc code tval

/-! ## What every step keeps -/

/-- The commands that lanes hold back are instructions of programs (07 R200): in every thread, and in the threads that suspended tasks
have saved. -/
def State.holdsInstructions (s : State) : Prop :=
  ∀ t ∈ s.threads ++ (s.tasks.flatMap (·.saved)).flatMap (·.threads), ∀ l, t.lane = some l → ∀ h ∈ l.held, h.i.encoded = true

/-- The invariant of the machine: memory is in its canonical form, and lanes hold back instructions of programs. -/
def State.Inv (s : State) : Prop := Memory.wf s.mem = true ∧ s.holdsInstructions

/-- A core's turn as its thread finds it (01 R10, 08 R216): the pass has moved on, a serialised task's turn is the thread's, and the thread is
current. -/
def State.turned (s : State) (key : Nat) (t : Thread) (rest : List Thread) (fresh : Bool) : State :=
  let thr := if fresh then s.threads.map fun x => if x.coreKey == key then { x with skip := false } else x else s.threads
  { ({ s with turns := putTurn s.turns key (rest.map (·.pslot)), threads := thr } : State).giveTurn t with cur := some t.uid }

end Sys2Proof.Machine
end

