-- ==== Sys2Proof/Certificates/Slice0/Obligations.lean ====
section
/-!
DEFINITION. The statements for the provers, and the functions in which they say what the rules say: written from the rules of
the spec, beside the model's own.
-/

namespace Sys2Proof.Machine

/-! ## Functions of the rules -/

/-- 11 R258: the two-operand members of majors 0x01 and 0x02 and what each leaves in gD, of gA and b(). -/
def ruleAlu : Instr → Option (Alu × (Word → Word → Word))
  | .add x => some (x, fun a b => BitVec.ofNat 64 (a.toNat + b.toNat))
  | .sub x => some (x, fun a b => BitVec.ofInt 64 (a.toInt - b.toInt))
  | .mul x => some (x, fun a b => BitVec.ofNat 64 (a.toNat * b.toNat))
  | .mulh x => some (x, fun a b => BitVec.ofInt 64 ((a.toInt * b.toInt) >>> 64))
  | .mulhu x => some (x, fun a b => BitVec.ofNat 64 ((a.toNat * b.toNat) >>> 64))
  | .andr x => some (x, fun a b => a &&& b)
  | .orr x => some (x, fun a b => a ||| b)
  | .xor x => some (x, fun a b => a ^^^ b)
  | .andn x => some (x, fun a b => a &&& ~~~b)
  | .shl x => some (x, fun a b => BitVec.ofNat 64 (a.toNat * 2 ^ (b.toNat % 64)))
  | .shr x => some (x, fun a b => BitVec.ofNat 64 (a.toNat / 2 ^ (b.toNat % 64)))
  | .sar x => some (x, fun a b => BitVec.ofInt 64 (a.toInt >>> (b.toNat % 64)))
  | .rol x => some (x, fun a b => a.rotateLeft (b.toNat % 64))
  | .min x => some (x, fun a b => if a.toInt < b.toInt then a else b)
  | .max x => some (x, fun a b => if b.toInt < a.toInt then a else b)
  | .minu x => some (x, fun a b => if a.toNat < b.toNat then a else b)
  | .maxu x => some (x, fun a b => if b.toNat < a.toNat then a else b)
  | .slt x => some (x, fun a b => if a.toInt < b.toInt then 1 else 0)
  | .sltu x => some (x, fun a b => if a.toNat < b.toNat then 1 else 0)
  | .seq x => some (x, fun a b => if a = b then 1 else 0)
  | .sne x => some (x, fun a b => if a = b then 0 else 1)
  | .scadd x => some (x, fun a b => BitVec.ofNat 64 (8 * a.toNat + b.toNat))
  | _ => none

/-- 11 R258: what a one-operand member of major 0x02 leaves in gD, as a property of gA and the result. -/
def ruleUna : Instr → Option (Una × (Word → Word → Prop))
  | .clz x => some (x, fun a y => y.toNat ≤ 64 ∧ (∀ i < y.toNat, a.getMsbD i = false) ∧ (y.toNat < 64 → a.getMsbD y.toNat = true))
  | .ctz x => some (x, fun a y => y.toNat ≤ 64 ∧ (∀ i < y.toNat, a.getLsbD i = false) ∧ (y.toNat < 64 → a.getLsbD y.toNat = true))
  | .popc x => some (x, fun a y => y.toNat = ((List.range 64).map fun i => (a.getLsbD i).toNat).sum)
  | .brev x => some (x, fun a y => ∀ i < 64, y.getLsbD i = a.getMsbD i)
  | .bswap x => some (x, fun a y => ∀ i < 8, y.extractLsb' (8 * i) 8 = a.extractLsb' (8 * (7 - i)) 8)
  | .sextb x => some (x, fun a y => y = (a.setWidth 8).signExtend 64)
  | .sexth x => some (x, fun a y => y = (a.setWidth 16).signExtend 64)
  | .sextw x => some (x, fun a y => y = (a.setWidth 32).signExtend 64)
  | .zextw x => some (x, fun a y => y = (a.setWidth 32).setWidth 64)
  | _ => none

/-- 11 R260: what DIV, DIVU, REM and REMU commit. -/
def ruleDivide : Instr → Option (LongAlu × (Word → Word → Word))
  | .div x => some (x, fun a d => if d = 0 then BitVec.allOnes 64
      else if a.toInt = -2 ^ 63 ∧ d.toInt = -1 then a else BitVec.ofInt 64 (a.toInt.tdiv d.toInt))
  | .divu x => some (x, fun a d => if d = 0 then BitVec.allOnes 64 else BitVec.ofNat 64 (a.toNat / d.toNat))
  | .rem x => some (x, fun a d => if d = 0 then a
      else if a.toInt = -2 ^ 63 ∧ d.toInt = -1 then 0 else BitVec.ofInt 64 (a.toInt - d.toInt * a.toInt.tdiv d.toInt))
  | .remu x => some (x, fun a d => if d = 0 then a else BitVec.ofNat 64 (a.toNat - d.toNat * (a.toNat / d.toNat)))
  | _ => none

/-- 11 R261: when BR is taken. -/
def ruleBr (c : BrCond) (a b : Word) : Prop :=
  match c with
  | .eq => a = b
  | .ne => a ≠ b
  | .lt => a.toInt < b.toInt
  | .ge => b.toInt ≤ a.toInt
  | .ltu => a.toNat < b.toNat
  | .geu => b.toNat ≤ a.toNat

/-- 11 R262: when BRP is taken, over all 256 lanes. -/
def ruleBrp (c : BrpCond) (p : PReg) : Prop :=
  match c with
  | .any => ∃ i < 256, p.getLsbD i = true
  | .none => ∀ i < 256, p.getLsbD i = false
  | .all => ∀ i < 256, p.getLsbD i = true
  | .nall => ∃ i < 256, p.getLsbD i = false

end Sys2Proof.Machine

open Sys2Proof Sys2Proof.Machine

/-- 11 R258: each two-operand member of majors 0x01 and 0x02 writes its function of gA and b() to gD, a write to g0 is
discarded, and the thread goes on behind the instruction; nothing else changes but the record of a constant-window read. -/
def Obligations.IntegerArithmeticResult : Prop :=
  ∀ (s : State) (t : Thread) (i : Instr) (x : Alu) (f : Word → Word → Word), ruleAlu i = some (x, f) → Issuing s t →
    t.freeOf (x.d :: x.a :: bRegs x.b) → s.bReady x.b →
    exec i s = .next ((s.afterB x.b).wentOn (bLenS x.b) fun u => u.put x.d (f (t.gr x.a) (s.bValue x.b)))

/-- 11 R258: CLZ, CTZ, POPC, BREV, BSWAP and the extensions.
11 R258, R259: SEL reads the old gD; BFXS, BFXU and BFI take and put a field of w bits at POS. -/
def Obligations.UnaryAndBitFieldResult : Prop :=
  (∀ (s : State) (t : Thread) (i : Instr) (x : Una) (p : Word → Word → Prop), ruleUna i = some (x, p) → Issuing s t →
    t.freeOf [x.d, x.a] →
    ∃ y, p (t.gr x.a) y ∧ exec i s = .next (s.wentOn 4 fun u => u.put x.d y)) ∧
  (∀ (s : State) (t : Thread), Issuing s t →
    (∀ x : Alu, t.freeOf (x.d :: x.a :: bRegs x.b) → s.bReady x.b →
      exec (.sel x) s = .next ((s.afterB x.b).wentOn (bLenS x.b)
        fun u => u.put x.d (if t.gr x.d = 0 then s.bValue x.b else t.gr x.a))) ∧
    (∀ x : Bfx, t.freeOf [x.d, x.a] → x.pos.toNat + x.wm1.toNat + 1 ≤ 64 →
      exec (.bfxs x) s = .next (s.wentOn 12 fun u => u.put x.d
        (((t.gr x.a).extractLsb' x.pos.toNat (x.wm1.toNat + 1)).signExtend 64)) ∧
      exec (.bfxu x) s = .next (s.wentOn 12 fun u => u.put x.d
        (((t.gr x.a).extractLsb' x.pos.toNat (x.wm1.toNat + 1)).setWidth 64))) ∧
    (∀ x : BfiA, t.freeOf (x.d :: x.a :: bRegs x.b) → s.bReady x.b → x.pos.toNat + x.wm1.toNat + 1 ≤ 64 →
      ∃ y : Word, (∀ i < 64, y.getLsbD i =
          if x.pos.toNat ≤ i ∧ i ≤ x.pos.toNat + x.wm1.toNat then (s.bValue x.b).getLsbD (i - x.pos.toNat)
          else (t.gr x.a).getLsbD i) ∧
        exec (.bfi x) s = .next ((s.afterB x.b).wentOn (bLenX x.b) fun u => u.put x.d y)))

/-- 11 R260, 01 R12: a divide opens a window over the next LOOK instructions whose close writes the quotient or remainder. -/
def Obligations.DivideResult : Prop :=
  ∀ (s : State) (t : Thread) (i : Instr) (x : LongAlu) (f : Word → Word → Word), ruleDivide i = some (x, f) → Issuing s t →
    t.freeOf (x.a :: bRegs x.b) → s.bReady x.b →
    exec i s = .next (((s.afterB x.b).wentOn (bLenS x.b)).upd fun u =>
      u.opened x.look.toNat t.pc (.regs [.g x.d (f (t.gr x.a) (s.bValue x.b))]))

/-- 11 R261 to R265: the control transfers. -/
def Obligations.ControlTransfers : Prop :=
  ∀ (s : State) (t : Thread), Issuing s t →
    (∀ c a b off, t.freeOf [a, b] →
      (ruleBr c (t.gr a) (t.gr b) → exec (.br c a b off) s = .next (s.jumped (t.pc + 4 * off.signExtend 64))) ∧
      (¬ruleBr c (t.gr a) (t.gr b) → exec (.br c a b off) s = .next (s.wentOn 4))) ∧
    (∀ c p off,
      (ruleBrp c (t.pr p) → exec (.brp c p off) s = .next (s.jumped (t.pc + 4 * off.signExtend 64))) ∧
      (¬ruleBrp c (t.pr p) → exec (.brp c p off) s = .next (s.wentOn 4))) ∧
    (∀ off, exec (.jmp off) s = .next (s.jumped (t.pc + 4 * off.signExtend 64))) ∧
    (∀ link off, t.freeOf [link] →
      exec (.call link off) s = .next (s.jumped (t.pc + 4 * off.signExtend 64) fun u => u.put link (t.pc + 4))) ∧
    (∀ a b, t.freeOf (a :: bRegs b) → s.bReady b →
      exec (.jmpr a b) s = .next ((s.afterB b).jumped (t.gr a + s.bValue b))) ∧
    (∀ x : Alu, t.freeOf (x.d :: x.a :: bRegs x.b) → s.bReady x.b →
      exec (.callr x) s = .next ((s.afterB x.b).jumped (t.gr x.a + s.bValue x.b) fun u => u.put x.d (t.pc + 4))) ∧
    (t.freeOf [31] → exec .ret s = .next (s.jumped (t.gr 31)))

namespace Sys2Proof.Machine

/-- 11 R275, R276, R208: what GETS reads from the system register of a number, for a thread that may name it. -/
def ruleGets (s : State) (t : Thread) : Nat → Option Word
  | 0x00 => some t.tcause
  | 0x01 => some t.tpc
  | 0x02 => some t.tval
  | 0x03 => some t.topc
  | 0x04 => some (BitVec.ofNat 64 (4 * t.fw.isSome.toNat + 2 * (s.task t.task).det.toNat + t.inh.toNat))
  | 0x05 => some t.tvec
  | 0x06 => some t.tscr0
  | 0x07 => some t.tscr1
  | 0x08 => some (BitVec.ofNat 64 (8 * (t.vu % 1024) + t.slot))
  | 0x09 => some (t.vlive.setWidth 64)
  | 0x0A => some ((s.vcore t.vu).ringhd.setWidth 64)
  | 0x0B => some ((s.vcore t.vu).ringtl.setWidth 64)
  | 0x0C => some (t.mmxsrc.setWidth 64)
  | 0x10 => some (if (s.task t.task).det then 0 else Config.cycle s.tick)
  | 0x11 => some (if (s.task t.task).det then 0 else t.icount)
  | 0x12 => some 0
  | 0x80 => t.fw.map fun d => (s.die d).split
  | 0x81 => t.fw.map fun d => (s.die d).leeptr
  | 0x82 => t.fw.map fun d => (s.die d).attcfg
  | _ => none

/-- 11 R275, R276: what SETS of a register of the thread changes; a read-only register ignores the write. -/
def ruleSets (x : Word) : Nat → Option (Thread → Thread)
  | 0x00 => some fun t => { t with tcause := x &&& 0x80FF }
  | 0x01 => some fun t => { t with tpc := x }
  | 0x02 => some fun t => { t with tval := x }
  | 0x03 => some fun t => { t with topc := x }
  | 0x05 => some fun t => { t with tvec := x }
  | 0x06 => some fun t => { t with tscr0 := x }
  | 0x07 => some fun t => { t with tscr1 := x }
  | 0x09 => some fun t => { t with vlive := x.setWidth 39 }
  | 0x04 | 0x08 | 0x0A | 0x0B | 0x0C | 0x10 | 0x11 => some id
  | _ => none

/-- 11 R275: what SETS of a firmware register changes of the management core's die. -/
def ruleSetsDie (x : Word) : Nat → Option (Die → Die)
  | 0x80 => some fun d => { d with split := x &&& 0xFF }
  | 0x81 => some fun d => { d with leeptr := x }
  | 0x82 => some fun d => { d with attcfg := x &&& 0xFFFFFF }
  | _ => none

end Sys2Proof.Machine

/-- 11 R268, R271, 10 R253: TRAP, BKPT and an illegal instruction take their trap: code, TVAL, TPC, TOPC,
INH and the handler's address as R271 says, and nothing else changes.
11 R273: a trap inside a handler ends the task: every thread of it is gone, its status is DOUBLETRAP (6), and the second
trap's code is kept for the completion record. -/
def Obligations.TrapsAreTaken : Prop :=
  (∀ (s : State) (t : Thread), Calm s t → t.inh = false →
    (∀ b, s.bReady b → exec (.trap b) s = .next ((s.afterB b).trapped 9 (s.bValue b))) ∧
    (∀ b, s.bReady b → exec (.bkpt b) s = .next ((s.afterB b).trapped 10 (s.bValue b))) ∧
    (∀ w, exec (.illegalInstruction w) s = .next (s.trapped 1 (w.setWidth 64)))) ∧
  (∀ (s : State) (t : Thread) (b : BOp), Calm s t → t.inh = true → s.bReady b →
    ∃ s' : State, exec (.trap b) s = .next s' ∧ (∀ x ∈ s'.threads, x.task ≠ t.task) ∧
      ∀ k ∈ s'.tasks, k.tid = t.task → k.status = 6 ∧ k.trap2 = 9)

/-- 11 R269, R275, R276: GETS of every register that the thread may name; any other number is the illegal-operand fault.
11 R269, R275, R276: SETS of every register of the thread and, in firmware mode, of the die's; a read-only register keeps its
value; a number that names none is the illegal-operand fault. -/
def Obligations.SystemRegisters : Prop :=
  (∀ (s : State) (t : Thread) (d : R5) (n : BitVec 8), Issuing s t → t.freeOf [d] → (n.toNat ≤ 0x0C → s.away t = false) →
    (∀ v, ruleGets s t n.toNat = some v →
      exec (.gets d n) s = .next ((if n.toNat = 0x10 then s.next else s).wentOn 4 fun u => u.put d v)) ∧
    (ruleGets s t n.toNat = none → Calm s t → t.inh = false →
      exec (.gets d n) s = .next (s.trapped 3 (n.setWidth 64)))) ∧
  (∀ (s : State) (t : Thread) (n : BitVec 8) (a : R5), Issuing s t → t.freeOf [a] → (n.toNat ≤ 0x0C → s.away t = false) →
    (∀ f, ruleSets (t.gr a) n.toNat = some f → exec (.sets n a) s = .next ((s.upd f).wentOn 4)) ∧
    (∀ f d, ruleSetsDie (t.gr a) n.toNat = some f → t.fw = some d →
      exec (.sets n a) s = .next ((s.setDie d f).wentOn 4)) ∧
    (ruleSets (t.gr a) n.toNat = none → n.toNat ≠ 0x12 → (ruleSetsDie (t.gr a) n.toNat = none ∨ t.fw = none) → Calm s t →
      t.inh = false → exec (.sets n a) s = .next (s.trapped 3 (n.setWidth 64))))

/-- 06 R184: STEPGO hands a descriptor that is a multiple of 32 to the step builder of the thread's die while it holds fewer
than eight, with SPLIT.STEP as it stands then (20 R419); a misaligned one is the illegal-operand fault and nothing is handed over. -/
def Obligations.StepgoHandsOver : Prop :=
  ∀ (s : State) (t : Thread) (a : R5), Calm s t →
    ((t.gr a).toNat % 32 = 0 → (s.die t.die).steps.length < 8 →
      exec (.stepgo a) s = .next ((s.newEpoch.setDie t.die fun d => { d with steps := d.steps ++
        [{ fn := s.fnOf t, task := t.task, addr := (t.gr a).toNat % 2 ^ 52, clock := t.relClock t false,
           host := (s.die t.die).split.getLsbD 2 }] }).wentOn 4)) ∧
    ((t.gr a).toNat % 32 ≠ 0 → t.inh = false → exec (.stepgo a) s = .next (s.trapped 3 (t.gr a)))

namespace Sys2Proof.Machine

/-- 12 R281: what a load of `2 ^ sz` bytes gives: the bytes in little-endian order, sign- or zero-extended. -/
def ruleLoad (bs : List Byte) (signed : Bool) : Word :=
  let x : Nat := ((bs.zip (List.range 8)).map fun y => y.1.toNat * 256 ^ y.2).sum
  if signed && decide (2 ^ (8 * bs.length - 1) ≤ x) then BitVec.ofInt 64 ((x : Int) - 2 ^ (8 * bs.length)) else BitVec.ofNat 64 x

/-- The offset of an M-format access: gB and OFF3 times the size, or the literal (12 R277, R281). -/
def ruleOff (t : Thread) (base : R5) (o : MOff) (size : Nat) : Int :=
  (t.gr base).toInt + match o with | .small x => x.toInt * size | .lit v => v.toInt

/-- What `s'` holds after a store of bytes to a straight place: those bytes there, every other byte, and every other thing a
program sees, as it was. -/
def Stored (s s' : State) (p : Place) (bs : List Byte) : Prop :=
  (∀ i, i < bs.length → s'.byte (p.at i) = bs.getD i 0) ∧ (∀ a, ¬s.touches p bs.length a → s'.byte a = s.byte a) ∧
  (s'.withMem s.mem s.poison).bare = s.bare

end Sys2Proof.Machine

/-- 12 R281, 01 R13, 03 R78: LD opens a window that brings the value read; nothing else changes but, for a fresh load and one of
AB or the cistern, the record of the access, which returns the newest value.
02 R55: a snapshot load of device memory brings, of each word, the value that it holds, or one that it still held after the thread's
last synchronising operation, its last store to the word and the moment of the value it last loaded; no state that a program reads
changes.
21 R423: a management core's load of a register of its block, once its core's writes have reached the block, brings what the register
reads (where the block lies is the model's reading, DEDUCED notes/assumptions/93). -/
def Obligations.LoadResult : Prop :=
  (∀ (s : State) (t : Thread) (x : LoadA) (p : Place), Calm s t → (∀ d, t.fw = some d → s.posting d = false) →
    Reaches s t x.seg (ruleOff t x.base x.off (2 ^ x.sz.toNat)) (2 ^ x.sz.toNat) (2 ^ x.sz.toNat) needRD false
      (fun a => x.fr || a.space == 2) (!x.fr) p →
    let n := 2 ^ x.sz.toNat
    let brings (s' : State) (y : Word) : Prop :=
      exec (.ld x) s = .next ((s'.wentOn (mLen x.off)).upd fun u => u.opened x.look.toNat t.pc (.regs [.g x.d y]))
    (∀ d r, blockAt p.loc n = some (d, r) → brings s (s.readDieReg d r)) ∧
    (blockAt p.loc n = none →
      (x.fr = false ∧ p.space = 0 → ∀ bs s', Snapshot s p n bs s' → brings s' (ruleLoad bs x.sx)) ∧
      (¬(x.fr = false ∧ p.space = 0) → s.poisonTrap p n = none → s.clashP p n false false = none →
        brings (s.recordP p n false false) (ruleLoad (s.readP p n) x.sx)))) ∧
  ∀ (s : State) (t : Thread) (p : Place) (n : Nat), Issuing s t →
    (s.poisonTrap p n = none → (∀ i < n, ∀ o ∈ s.pastOf (p.key i), o.upto ≤ s.snapFrom (p.key i)) → Snapshot s p n (s.readP p n) s) ∧
    ∀ bs s', Snapshot s p n bs s' → s'.bare = s.bare ∧ bs.length = n ∧
      ∀ k, ∃ y : Word, (y = s.dword (8 * k) ∨ ∃ o ∈ s.pastOf k, s.snapFrom k < o.upto ∧ y = o.x) ∧
        ∀ i < n, p.key i = k → bs.getD i 0 = y.extractLsb' (8 * (p.at i % 8)) 8

/-- 12 R281, R282: ST writes the low bytes of gD at the place that its address translates to, and nothing else; the FE bit stays;
a store of eight bytes clears the word's poison and a narrower one leaves every poison mark.
21 R423: a management core's store to a register of its block is a write of that register behind its earlier ones, and no byte
changes. -/
def Obligations.StoreResult : Prop :=
  ∀ (s : State) (t : Thread) (x : StoreA) (p : Place), Calm s t → Memory.wf s.mem = true →
    Reaches s t x.seg (ruleOff t x.base x.off (2 ^ x.sz.toNat)) (2 ^ x.sz.toNat) (2 ^ x.sz.toNat) needWR true
      (fun _ => true) false p →
    (∀ d r, blockAt p.loc (2 ^ x.sz.toNat) = some (d, r) →
      exec (.st x) s = .next ((s.post (blockWrite d r (t.gr x.d))).wentOn (mLen x.off))) ∧
    (blockAt p.loc (2 ^ x.sz.toNat) = none → p.straight → p.addr % 2 ^ x.sz.toNat = 0 →
      s.clash (p.loc / 8 * 8) p.slice true false = none →
      ∃ s' : State, exec (.st x) s = .next (s'.wentOn (mLen x.off)) ∧
        Stored s s' p ((List.range (2 ^ x.sz.toNat)).map fun i => (t.gr x.d).extractLsb' (8 * i) 8) ∧
        s'.poison = if x.sz = 3 then eraseKey s.poison (s.chan (p.loc / 8 * 8) / 8) else s.poison)

namespace Sys2Proof.Machine

/-- What an LDF of a word is ordered after (03 R81): the write that filled it, where a synchronising one left it, and the engine writes
since. -/
def State.ldfClock (s : State) (a : Nat) : Clock :=
  (if (s.wordRec a).synLive then (s.wordRec a).syn else []).join (s.wordRec a).eng

end Sys2Proof.Machine

/-- 12 R281, R282, 03 R81: LDF of a full word whose turn it is brings its value at the close, and with take leaves the word empty;
nothing else changes but records and clocks.
12 R281, R282, 03 R89: STF of an empty word for which nobody waits writes gD, makes the word full and clears its poison;
every other byte stays. -/
def Obligations.FullEmptyLoadsAndStores : Prop :=
  (∀ (s : State) (t : Thread) (x : LoadA) (p : Place), Calm s t → x.sz = 3 →
    Reaches s t x.seg (ruleOff t x.base x.off 8) 8 8 (needRD + needSY + if x.sx then needWR else 0) x.sx (fun _ => true) false p →
    s.full p.loc = true → s.firstAt (p.loc / 8) s.order true = true → s.poisoned p.loc = false →
    s.clashAfter (s.ldfClock p.loc) p.loc p.slice x.sx true = none →
    ∃ s' : State, exec (.ldf x) s = .next ((s'.wentOn (mLen x.off)).upd fun u =>
        u.opened x.look.toNat t.pc (.regs [.g x.d (s.dword p.loc)]) true true) ∧
      s'.bare = (if x.sx then s.setFull p.loc false else s).bare) ∧
  (∀ (s : State) (t : Thread) (x : StoreA) (p : Place), Calm s t → Memory.wf s.mem = true → x.sz = 3 →
    Reaches s t x.seg (ruleOff t x.base x.off 8) 8 8 (needWR + needSY) true (fun _ => true) false p →
    p.straight → p.addr % 8 = 0 → t.touched = 0 → s.full p.loc = false → s.stfWaiters (p.loc / 8) = false →
    s.clashAfter (s.wordRec p.loc).take p.loc p.slice true true = none →
    ∃ s' : State, exec (.stf x) s = .next (s'.wentOn (mLen x.off)) ∧
      Stored (s.setFull p.loc true) s' p ((List.range 8).map fun i => (t.gr x.d).extractLsb' (8 * i) 8) ∧
      s'.poison = eraseKey s.poison (s.chan p.loc / 8))

/-- 12 R281: LDF of an empty word and STF of a full one wait: LDF with its window open, STF parked at its instruction; memory
and FE bits stay.
12 R283: FESET, FECLR and FEGET: the FE bit set, cleared or read; no data changes. -/
def Obligations.FullEmptyBitsAndWaits : Prop :=
  (∀ (s : State) (t : Thread) (p : Place), Calm s t →
    (∀ x : LoadA, x.sz = 3 →
      Reaches s t x.seg (ruleOff t x.base x.off 8) 8 8 (needRD + needSY + if x.sx then needWR else 0) x.sx (fun _ => true) false p →
      s.full p.loc = false →
      ∃ (s' : State) (sh : Shadow), exec (.ldf x) s = .next ((s'.wentOn (mLen x.off)).upd fun u =>
          u.opened x.look.toNat t.pc (.wait (.defer (.full (p.loc / 8) s.order) (.ldf x) sh)) true true) ∧
        s'.mem = s.mem ∧ s'.empty = s.empty) ∧
    (∀ x : StoreA, x.sz = 3 →
      Reaches s t x.seg (ruleOff t x.base x.off 8) 8 8 (needWR + needSY) true (fun _ => true) false p → t.touched = 0 →
      s.full p.loc = true →
      exec (.stf x) s = .next (s.parkMe (.stf p (t.gr x.d) (mLen x.off))))) ∧
  (∀ (s : State) (t : Thread) (x : SliceA) (p : Place), Calm s t →
    (Reaches s t x.seg ((t.gr x.a).toInt + x.off.toInt * 8) 8 8 (needWR + needSY) true (fun _ => true) false p →
      s.clash p.loc p.slice true true = none →
      exec (.feset x) s = .next ((((s.record p.loc (s.accOf true true)).touchMe p.slice).setFull p.loc true).wentOn 4) ∧
      exec (.feclr x) s = .next ((((s.record p.loc (s.accOf true true)).touchMe p.slice).setFull p.loc false).wentOn 4)) ∧
    (Reaches s t x.seg ((t.gr x.a).toInt + x.off.toInt * 8) 8 8 (needRD + needSY) false (fun _ => true) false p →
      s.clash p.loc p.slice false true = none →
      exec (.feget x) s = .next (((s.record p.loc (s.accOf false true)).touchMe p.slice).wentOn 4
        fun u => u.put x.d (if s.full p.loc then 1 else 0))))

/-- 12 R296: LDB and STB move 256 bytes between vD and AB at gA + b(), at the host core, outside flumes. -/
def Obligations.BlockLoadStoreResult : Prop :=
  ∀ (s : State) (t : Thread) (x : Alu) (e : Nat), Calm s t → s.bReady x.b → s.away t = false →
    (t.gr x.a).toInt + (s.bValue x.b).toInt = (e : Int) → e % 256 = 0 → e + 256 ≤ (s.task t.task).absz * 4096 →
    (s.vcore t.vu).flumesAt e 256 = [] →
    (let p : Place := { space := 1, addr := e, loc := abBase t.vu + e, slice := none }
     s.poisonTrap p 256 = none → (s.afterB x.b).clashP p 256 false false = none →
     exec (.ldb x) s = .next (((s.afterB x.b).recordP p 256 false false).wentOn (bLenS x.b) fun u =>
       u.wv x.d (BitVec.ofNat 2048 (natOfBytes (s.bytes (abBase t.vu + e) 256))))) ∧
    (let p : Place := { space := 1, addr := e, loc := abBase t.vu + e, slice := none }
     Memory.wf s.mem = true → ¬(1984 < e + 256 ∧ e < 2048) → (s.afterB x.b).clashP p 256 true false = none →
     ∃ s' : State, exec (.stb x) s = .next (s'.wentOn (bLenS x.b)) ∧
       Stored s s' p ((List.range 256).map fun i => (t.v[x.d.toNat]'x.d.isLt).extractLsb' (8 * i) 8))

/-- 11 R271, 03 R82, R83, R84: the memory-model exception. A fresh load that conflicts with a recorded access brings a fault at its
window's close, code 5 with the word's address and the earlier party, of this module or of a peer, and reads nothing; a store that conflicts writes nothing and
leaves the thread such a verdict. -/
def Obligations.RacesAreCaught : Prop :=
  ∀ (s : State) (t : Thread) (p : Place) (r : Acc), Calm s t →
    (∀ x : LoadA, x.fr = true →
      Reaches s t x.seg (ruleOff t x.base x.off (2 ^ x.sz.toNat)) (2 ^ x.sz.toNat) (2 ^ x.sz.toNat) needRD false
        (fun _ => true) false p → p.straight → p.addr % 2 ^ x.sz.toNat = 0 →
      blockAt p.loc (2 ^ x.sz.toNat) = none → (∀ d, t.fw = some d → s.posting d = false) →
      s.clash p.loc p.slice false false = some r →
      exec (.ld x) s = .next ((s.wentOn (mLen x.off)).upd fun u => u.opened x.look.toNat t.pc
        (.fault ⟨5, p.tval 0, some (BitVec.ofNat 16 (2 ^ 14 * r.write.toNat + 2 ^ 13 * r.peer.toNat + r.gtid % 2 ^ 13))⟩))) ∧
    (∀ x : StoreA,
      Reaches s t x.seg (ruleOff t x.base x.off (2 ^ x.sz.toNat)) (2 ^ x.sz.toNat) (2 ^ x.sz.toNat) needWR true
        (fun _ => true) false p → p.straight → p.addr % 2 ^ x.sz.toNat = 0 → blockAt p.loc (2 ^ x.sz.toNat) = none →
      s.clash (p.loc / 8 * 8) p.slice true false = some r →
      ∃ s' : State, exec (.st x) s = .next (s'.wentOn (mLen x.off)) ∧ s'.mem = s.mem ∧ s'.poison = s.poison ∧ s'.empty = s.empty ∧
        s'.me.verdicts = [⟨⟨t.seq + 1, t.pc,
          ⟨5, p.tval 0, some (BitVec.ofNat 16 (2 ^ 15 + 2 ^ 14 * r.write.toNat + 2 ^ 13 * r.peer.toNat + r.gtid % 2 ^ 13))⟩⟩, false⟩])

namespace Sys2Proof.Machine

/-- What an atomic with .acq is ordered after (03 R81): the synchronising write whose value it reads. -/
def State.amoClock (s : State) (a : Nat) (acq : Bool) : Clock := if acq && (s.wordRec a).synLive then (s.wordRec a).syn else []

/-- A number of `n` bits read as a signed one. -/
def ruleSigned (n x : Nat) : Int := if x < 2 ^ (n - 1) then (x : Int) else (x : Int) - 2 ^ n

/-- 12 R285, 08 R210: the atomics, each with the new value of the word of its bits (of old value and operand, both below 2 to the
number of bits), whether its old value is returned signed, its nondeterminism code, and whether destination g0 escapes that. -/
def ruleAmo (t : Thread) : Instr → Option (AmoA × (Nat → Nat → Nat → Nat) × Bool × Nat × Bool)
  | .amoadd x => some (x, fun n o v => (o + v) % 2 ^ n, false, 1, true)
  | .amoand x => some (x, fun _ o v => o &&& v, false, 1, true)
  | .amoor x => some (x, fun _ o v => o ||| v, false, 1, true)
  | .amoxor x => some (x, fun _ o v => o ^^^ v, false, 1, true)
  | .amomin x => some (x, fun n o v => if ruleSigned n v < ruleSigned n o then v else o, true, 1, true)
  | .amomax x => some (x, fun n o v => if ruleSigned n o < ruleSigned n v then v else o, true, 1, true)
  | .amominu x => some (x, fun _ o v => if v < o then v else o, false, 1, true)
  | .amomaxu x => some (x, fun _ o v => if o < v then v else o, false, 1, true)
  | .amoswp x => some (x, fun _ _ v => v, false, 3, false)
  | .amocas x => some (x, fun n o v => if o = (t.gr x.cr).toNat % 2 ^ n then v else o, false, 3, false)
  | .amofadd x => some (x, fun _ o v => add32 o v, false, 2, false)
  | _ => none

/-- A new state with one more message of the current thread under way (01 R34). -/
def Sent (s s' : State) (t : Thread) (m : Msg) : Prop :=
  s'.msgs = s.msgs ++ [(t.uid, m)] ∧ s'.me.msg = some m ∧ s'.mem = s.mem ∧ s'.empty = s.empty ∧
  s'.threads.map (fun u => { u.bare with msg := none }) = s.threads.map (fun u => { u.bare with msg := none })

/-- The header of a message (01 R33): WORDS, KIND, SENDER; REASON 0. -/
def ruleHeader (words kind sender : Nat) : Word := BitVec.ofNat 64 (words * 2 ^ 20 + kind * 2 ^ 14 + sender)

/-- One more command at its engine, issued by the current thread, and nothing else that a program sees. -/
def Entered (s s' : State) (c : Cmd) : Prop :=
  s'.cmds = s.cmds ++ [c] ∧ s'.mem = s.mem ∧ s'.empty = s.empty ∧ s'.poison = s.poison ∧
  s'.threads.map Thread.bare = s.threads.map Thread.bare

end Sys2Proof.Machine

/-- 12 R284, R285: an atomic replaces the word of four or eight bytes at its address by its function of the old value and b(), and
brings the old value at its window's close; FE bit and poison stay, and so does every other byte.
08 R210, 12 R280: in a deterministic task an atomic raises the nondeterminism fault with its code, but for one of the first
eight whose destination is g0; nothing is written. -/
def Obligations.AtomicResult : Prop :=
  (∀ (s : State) (t : Thread) (i : Instr) (x : AmoA) (f : Nat → Nat → Nat → Nat) (sg : Bool) (code : Nat) (g0 : Bool) (p : Place)
    (n : Nat), ruleAmo t i = some (x, f, sg, code, g0) → n = (if x.dbl then 8 else 4) → i.wf = true → Calm s t →
    Memory.wf s.mem = true → s.bReady x.b →
    Reaches (s.afterB x.b) t x.seg ((t.gr x.a).toInt + x.off.toInt) n n (needRD + needWR + needSY) true (fun _ => true) false p →
    p.straight → p.addr % n = 0 → ((s.task t.task).det = false ∨ (g0 = true ∧ x.d = 0)) → t.touched = 0 →
    (s.afterB x.b).clashAfter (s.amoClock (p.loc / 8 * 8) x.acq) (p.loc / 8 * 8) p.slice true true = none → s.poisoned (p.loc / 8 * 8) = false →
    let old := s.num p.loc n
    let new := f (8 * n) old ((s.bValue x.b).toNat % 2 ^ (8 * n))
    ∃ s' : State, exec i s = .next ((s'.wentOn (bLenX x.b)).upd fun u => u.opened x.look.toNat t.pc
        (.regs [.g x.d (if sg then BitVec.ofInt 64 (ruleSigned (8 * n) old) else BitVec.ofNat 64 old)]) (x.acq || x.rel) x.acq) ∧
      Stored s s' p (bytesOfNat n new) ∧ s'.poison = s.poison) ∧
  (∀ (s : State) (t : Thread) (i : Instr) (x : AmoA) (f : Nat → Nat → Nat → Nat) (sg : Bool) (code : Nat) (g0 : Bool) (a : SegA),
    ruleAmo t i = some (x, f, sg, code, g0) → Calm s t → s.bReady x.b → t.inh = false → (s.task t.task).det = true →
    ¬(g0 = true ∧ x.d = 0) →
    (s.afterB x.b).unit x.seg ((t.gr x.a).toInt + x.off.toInt) (if x.dbl then 8 else 4) (if x.dbl then 8 else 4)
      (needRD + needWR + needSY) true = .ok a →
    exec i s = .next ((s.afterB x.b).trapped 7 (BitVec.ofNat 64 code)))

/-- 12 R286, R287, 02 R62, 03 R88: FENCE ends the region when no slice of its scope is touched, which at thread and core scope is
always so, and parks for the echoes of the others; DRAIN ends when nothing of the vcore is outstanding, and parks while something
of its path is. -/
def Obligations.FenceAndDrain : Prop :=
  ∀ (s : State) (t : Thread), Calm s t →
    (∀ sc, (sc = .thread ∨ sc = .core ∨ t.touched = 0) → exec (.fence sc) s = .next (s.newEpoch.synced.wentOn 4)) ∧
    (t.touched ≠ 0 → exec (.fence .system) s = .next (s.parkMe (.fence t.touched))) ∧
    (∀ p, (∀ c ∈ s.cmds, c.vu = t.vu → c.st = .finished) → (∀ m ∈ s.matq, m.vu ≠ t.vu) → (∀ f ∈ s.fills, f.vu ≠ t.vu) →
      ∃ s' : State, exec (.drain p) s = .next (s'.wentOn 4) ∧ s'.mem = s.mem ∧ s'.empty = s.empty ∧
        s'.threads.map Thread.bare = s.threads.map Thread.bare) ∧
    (∀ p, s.drainWaits t.vu p s.order = true → exec (.drain p) s = .next (s.parkMe (.drain p s.order)))

/-- 12 R288: BAR counts its thread as arrived at the barrier of its level and parks; the last arrival, where every other member has
arrived or halted and the peer modules of a peer-group level have, completes the barrier. A level that does not exist is the illegal-operand fault.
12 R289, R290, 02 R64, R65: SBAR of a member adds one to its stage pointer and to its count at the flume; FLUME binds a flume
that R63 and R64 take and starts every member at stage 0, and releases one that nothing outstanding was resolved against. -/
def Obligations.BarriersAndFlumes : Prop :=
  (∀ (s : State) (t : Thread) (n : BitVec 3) (k : Task), Calm s t → s.task? t.task = some k →
    (n.toNat < k.levels.length → t.child = false → t.item = none → t.touched = 0 →
      let i := t.vu % 1024 * k.slots + t.slot
      let b := k.barOf n.toNat (k.instOf n.toNat i)
      ∃ s' : State, exec (.bar n) s = .next s' ∧ s'.me.park = some (.bar n.toNat (k.instOf n.toNat i) b.gen) ∧
        ∃ b' k', s'.task? t.task = some k' ∧ k'.barOf n.toNat (k.instOf n.toNat i) = b' ∧
          (if (k.members n.toNat (k.instOf n.toNat i)).all (fun j => j == i || b.arrived.contains j || s.haltedNo k j) &&
              k.peersHere n.toNat b
           then b'.gen = b.gen + 1 ∧ b'.arrived = [] else b'.gen = b.gen ∧ b'.arrived = i :: b.arrived)) ∧
    (k.levels.length ≤ n.toNat → t.inh = false → exec (.bar n) s = .next (s.trapped 3 (BitVec.ofNat 64 n.toNat)))) ∧
  (∀ (s : State) (t : Thread) (n : BitVec 3), Calm s t → s.away t = false →
    (∀ v f, s.vcore? t.vu = some v → (v.flumes.find? fun y => y.f == n.toNat) = some f → f.member t.slot = true →
      ∃ s' : State, exec (.sbar n) s = .next ((s'.wentOn 4).switchPoint t.vu) ∧ s'.mem = s.mem ∧
        s'.me.spt = t.spt.set n.toNat (t.spt[n.toNat]'n.isLt + 1) n.isLt ∧
        ∃ v' f', s'.vcore? t.vu = some v' ∧ (v'.flumes.find? fun y => y.f == n.toNat) = some f' ∧
          f'.count = f.count.set (t.slot % 8) (f.count[t.slot % 8] + 1)) ∧
    (∀ a, t.gr a ≠ 0 → s.flumeOk t.vu n.toNat (t.gr a) = true →
      ∃ s' : State, exec (.flume n a) s = .next (s'.wentOn 4) ∧ s'.mem = s.mem ∧
        s'.vcores = s.vcores.map (fun v => if v.vu = t.vu then { v with flumes := v.flumes ++ [flumeOf n.toNat (t.gr a)] } else v) ∧
        s'.threads = s.threads.map fun u => if u.vu = t.vu ∧ (flumeOf n.toNat (t.gr a)).member u.slot = true
          then { u with spt := u.spt.set n.toNat 0 n.isLt } else u) ∧
    (∀ a, t.gr a = 0 → s.flumeBusy t.vu n.toNat = false →
      exec (.flume n a) s = .next ((s.setVcore t.vu fun v => { v with flumes := v.flumes.filter fun y => y.f != n.toNat }).wentOn 4)))

/-- 12 R293, 01 R33, R34: MSEND and, outside deterministic tasks, SPAWN send a message to vcore gA: the header, the first doublewords
of vD and zeros; gA of 1,024 or more is the illegal-operand fault.
12 R294, 01 R38: a receive whose turn it is takes the entry at RINGTL, which advances: gD gets the header, vA the whole entry
and zeros; a polling receive of an empty ring gives all ones and takes nothing; another waits. -/
def Obligations.MessagesAreSentAndReceived : Prop :=
  (∀ (s : State) (t : Thread) (d a : R5), Calm s t →
    ((t.gr a).toNat < 1024 → t.msg = none → t.touched = 0 →
      (∀ n : BitVec 3, ∃ s' : State, exec (.msend d a n) s = .next (s'.wentOn 4) ∧ Sent s s' t
        { fromVu := t.vu, target := t.task * 1024 + (t.gr a).toNat, spawn := false, clock := t.relClock t false,
          words := ruleHeader n.toNat 0 t.gtid :: (List.range 7).map fun k =>
            if k < n.toNat then (t.v[d.toNat]'d.isLt).extractLsb' (64 * k) 64 else 0 }) ∧
      ((s.task t.task).det = false → ∃ s' : State, exec (.spawn d a) s = .next (s'.wentOn 4) ∧ Sent s s' t
        { fromVu := t.vu, target := t.task * 1024 + (t.gr a).toNat, spawn := true, clock := t.relClock t false,
          words := ruleHeader 7 1 t.gtid :: (List.range 7).map fun k => (t.v[d.toNat]'d.isLt).extractLsb' (64 * k) 64 })) ∧
    (1024 ≤ (t.gr a).toNat → t.inh = false → (∀ n, exec (.msend d a n) s = .next (s.trapped 3 (t.gr a))) ∧
      exec (.spawn d a) s = .next (s.trapped 3 (t.gr a)))) ∧
  (∀ (s : State) (t : Thread) (v : Vcore) (look : BitVec 4) (d a : R5), Calm s t → s.away t = false → s.vcore? t.vu = some v →
    (v.ringhd ≠ v.ringtl → s.ringFirst t.vu s.order = true →
      let k := s.task v.task
      let ws := s.dwords (abBase t.vu + k.ringoff + 64 * (v.ringtl.toNat % (16 * 2 ^ k.ringlg))) 8
      let x : VReg := BitVec.ofNat 2048 (ws.foldr (fun w a => a * 2 ^ 64 + w.toNat) 0)
      let v' : Vcore := { v with ringtl := v.ringtl + 1, ringClk := v.ringClk.tail, ringBnc := v.ringBnc.tail }
      ∃ s' : State, s'.mem = s.mem ∧ s'.vcore? t.vu = some v' ∧
        s'.threads.map Thread.bare = s.threads.map Thread.bare ∧
        ∀ i, (i = .mrecv look d a ∨ i = .mrecvPoll look d a) → exec i s = .next ((s'.wentOn 4).upd fun u =>
          u.opened look.toNat t.pc (.regs [.g d (ws.getD 0 0), .v a (BitVec.allOnes 256) x]) true true)) ∧
    (v.ringhd = v.ringtl → exec (.mrecvPoll look d a) s = .next ((s.synced.wentOn 4).upd fun u =>
      u.opened look.toNat t.pc (.regs [.g d (BitVec.allOnes 64)]) true true)) ∧
    (v.ringhd = v.ringtl → ∃ (s' : State) (sh : Shadow), s'.mem = s.mem ∧ s'.vcores = s.vcores ∧
      exec (.mrecv look d a) s = .next ((s'.wentOn 4).upd fun u =>
        u.opened look.toNat t.pc (.wait (.defer (.ring s.order) (.mrecv look d a) sh)) true true)))

/-- 02 R44: which descriptors are well formed. SEGLD loads one into its segment register, where the next instruction finds it, with reserved
bits that read zero; of one that is not well formed it is the illegal-operand fault, and the register keeps its value. -/
def Obligations.SegmentDescriptors : Prop :=
  (∀ (e : Seg) (absz : Nat), e.wf absz = true ↔
    (e.lo.getLsbD 63 = false ∨
      ((e.lo.extractLsb' 61 2).toNat ≠ 3 ∧ e.lo.extractLsb' 0 6 = 0 ∧ e.lo.extractLsb' 52 2 = 0 ∧ e.hi.extractLsb' 52 7 = 0 ∧
       ((e.lo.extractLsb' 61 2).toNat ≠ 2 → e.lo.extractLsb' 54 7 = 0) ∧
       (let top := (e.lo.extractLsb' 0 52).toNat + (e.hi.extractLsb' 0 52).toNat
        match (e.lo.extractLsb' 61 2).toNat with
        | 0 => top ≤ 2 ^ 52 - 1
        | 1 => top < absz * 4096
        | _ => top ≤ 0x17FFFF)))) ∧
  ∀ (s : State) (t : Thread), Calm s t →
    ∀ (d : BitVec 3) (a : R5) (seg : BitVec 3) (p : Place),
      Reaches s t seg (t.gr a).toInt 16 16 needRD false (fun _ => false) false p → s.poisonTrap p 16 = none →
      s.clashP p 16 false false = none →
      let lo := w64 (natOfBytes ((s.readP p 16).take 8))
      let hi := w64 (natOfBytes ((s.readP p 16).drop 8))
      let e : Seg := if lo.getLsbD 63 then ⟨lo, hi⟩ else ⟨lo &&& ~~~(3#64 <<< 52), hi &&& ~~~(127#64 <<< 52)⟩
      (e.wf (s.task t.task).absz = true → exec (.segld d a seg) s = .next ((s.recordP p 16 false false).wentOn 4
        fun u => { u with sg := u.sg.set d.toNat e d.isLt, sgw := u.sgw ||| (1#8 <<< d.toNat) })) ∧
      (e.wf (s.task t.task).absz = false → t.inh = false → exec (.segld d a seg) s = .next ((s.recordP p 16 false false).trapped 3 0))

/-- 12 R295: SEGRD reads a segment register as it stands.
02 R45, R46: seg_check, in its order of priority: invalid, rights, limit, alignment; and the address that it gives. -/
def Obligations.SegmentsReadAndChecked : Prop :=
  (∀ (s : State) (t : Thread), Calm s t → ∀ (d : R5) (a : BitVec 3),
      exec (.segrd d a false) s = .next (s.wentOn 4 fun u => u.put d (t.sg[a.toNat]'a.isLt).lo) ∧
      exec (.segrd d a true) s = .next (s.wentOn 4 fun u => u.put d (t.sg[a.toNat]'a.isLt).hi)) ∧
  (∀ (d : Seg) (n : Nat) (e : Int) (size align need : Nat), 0 < size → 0 < align →
    let v := d.lo.getLsbD 63
    let rights := (d.hi.extractLsb' 59 5).toNat
    let lim : Int := ((d.hi.extractLsb' 0 52).toNat : Int)
    (v = false → segCheck d n e size align need = .bad 1) ∧
    (v = true → rights &&& need ≠ need → segCheck d n e size align need = .bad 2) ∧
    (v = true → rights &&& need = need → (e < 0 ∨ lim < e + size - 1) → segCheck d n e size align need = .bad 3) ∧
    (v = true → rights &&& need = need → ¬(e < 0 ∨ lim < e + size - 1) → e % align ≠ 0 → segCheck d n e size align need = .bad 4) ∧
    (v = true → rights &&& need = need → ¬(e < 0 ∨ lim < e + size - 1) → e % align = 0 → segCheck d n e size align need =
      .ok ⟨(d.lo.extractLsb' 61 2).toNat, (d.lo.extractLsb' 54 7).toNat, (d.lo.extractLsb' 0 52).toNat + e.toNat, n⟩))

/-- 12 R298, R299, R302, R303, 01 R19: CPY, CPYR, CPYR.ord and RQCPY read their record at issue; a record that R299 takes, of the
instruction's operation, enters the cluster's queue where it has room, and the status register is pending from the close of a
window. Nothing has moved yet.
12 R303, 04 R108: RQCPY reads its record and both of its frames at issue, and enters the queue with all of them. -/
def Obligations.CulvertCommandsAreIssued : Prop :=
  (∀ (s : State) (t : Thread) (x : XCmd) (p : Place) (i : Instr) (op : Nat) (ord : Bool),
    (i, op, ord) ∈ [(Instr.cpy x, 0, false), (.cpyr x, 1, false), (.cpyrOrd x, 1, true)] → Calm s t → s.bReady x.b →
    Reaches (s.afterB x.b) t x.seg ((t.gr x.a).toInt + (s.bValue x.b).toInt) 64 64 needRD false (fun _ => false) true p →
    t.touched = 0 → s.away t = false → s.queued (t.core / 16) < 64 → ∀ bs s1, Snapshot (s.afterB x.b) p 64 bs s1 →
    let r := recWords bs 8
    trOp r = op → trOrd r = ord → trBad r = none → ((s.task t.task).det = true → ¬(op = 1 ∧ ord = false ∧ trRop r = 8)) →
    (∃ l, s1.trIssue (s1.draft .record) r none = .good l) →
    ∃ (s' : State) (c : Cmd), exec i s = .next ((s'.wentOn (bLenX x.b)).upd fun u =>
        u.opened x.look.toNat t.pc (.regs [.status x.d c.id])) ∧
      Entered (s.afterB x.b) s' c ∧ c.id = s.nextCmd ∧ c.thr = t.uid ∧ c.task = t.task ∧ c.vu = t.vu ∧ c.core = t.core ∧
      c.kind = .record ∧ c.st = .queued ∧ c.code = 0 ∧ c.record = r ∧ c.segs = t.sg) ∧
  (∀ (s : State) (t : Thread) (x : XCmd) (p pa pb : Place) (a b : SegA), Calm s t → s.bReady x.b →
    Reaches (s.afterB x.b) t x.seg ((t.gr x.a).toInt + (s.bValue x.b).toInt) 64 64 needRD false (fun _ => false) true p →
    t.touched = 0 → s.away t = false → s.queued (t.core / 16) < 64 →
    ∀ bs ba bb s1 s2 s3, Snapshot (s.afterB x.b) p 64 bs s1 →
    let r := recWords bs 8
    let c0 := s1.draft .record
    trOp r = 2 → trOrd r = false → trBad r = none → s1.rqFrameAddr c0 (some t.slot) r = .good (a, b) →
    s1.trans a false true 2 = .ok pa → s1.trans b false true 2 = .ok pb →
    Snapshot s1 pa 32 ba s2 → Snapshot s2 pb 32 bb s3 →
    (∃ l, s3.trIssue c0 r (some (recWords ba 4, recWords bb 4)) = .good l) →
    ∃ (s' : State) (c : Cmd), exec (.rqcpy x) s = .next ((s'.wentOn (bLenX x.b)).upd fun u =>
        u.opened x.look.toNat t.pc (.regs [.status x.d c.id])) ∧
      Entered (s.afterB x.b) s' c ∧ c.id = s.nextCmd ∧ c.thr = t.uid ∧ c.kind = .record ∧ c.st = .queued ∧ c.code = 0 ∧
      c.record = r ++ (recWords ba 4 ++ recWords bb 4))

/-- 12 R304, R309, R311: CHAIN and CCHAIN start a walker at gA + b(), or complete BUSY where one still walks the channel or the
vcore's confluence chain; CSTEP enters with the record that it read; DGST enters with the thread digest of its issue.
12 R312, R313: PIN of a free line pins it in its frame (21 R428), of a pinned one answers 2, of a full slice 1; UNPIN of a pinned line frees it, else
answers 3; CISTRN of a granted slice sets its converted ways, which read zero and are full where they are added, and answers 0; of
another slice it answers 1 and changes nothing. -/
def Obligations.ChainsDigestsPinsAndCisterns : Prop :=
  (∀ (s : State) (t : Thread) (x : XCmd), Calm s t → s.bReady x.b → t.touched = 0 → s.away t = false →
    let s1 := s.afterB x.b
    let e : Int := (t.gr x.a).toInt + (s.bValue x.b).toInt
    (∀ (i : Instr) (kind : CmdKind) (busy : Bool) (a : SegA), s1.unit x.seg e 64 64 needRD false = .ok a →
      ((∃ ch, i = .chain ⟨x, ch⟩ ∧ kind = .chain ch.toNat ∧
          busy = s.walking fun c => c.kind == .chain ch.toNat && c.core / 16 == t.core / 16) ∨
        (i = .cchain x ∧ kind = .cchain ∧ busy = s.walking fun c => c.kind == .cchain && c.vu == t.vu)) →
      ∃ (s' : State) (c : Cmd), exec i s = .next ((s'.wentOn (bLenX x.b)).upd fun u =>
          u.opened x.look.toNat t.pc (.regs [.status x.d c.id])) ∧
        Entered s1 s' c ∧ c.id = s.nextCmd ∧ c.thr = t.uid ∧ c.kind = kind ∧ c.head = e.toNat ∧ c.seg = x.seg.toNat ∧
        (if busy then c.st = .sent ∧ c.code = 4 else c.st = .queued ∧ c.code = 0)) ∧
    (∀ p bs s2, Reaches s1 t x.seg e 64 64 needRD false (fun _ => false) true p → Snapshot s1 p 64 bs s2 →
      let r := recWords bs 8
      (stBad (s.task t.task) r ≠ none ∨
        ∀ k < stCount r, ∀ y ∈ [(stSends r, 1, stSize (stIfmt r), false), (stLands r, 2, stSize (stIfmt r), true),
            (stForms r, 3, stSize (stRfmt r), true)], y.1 = true →
          ∃ a, s2.engAddr (s2.draft .cstep) (some t.slot) x.seg.toNat (((r.getD y.2.1 0).extractLsb' 0 52).toNat + y.2.2.1 * k)
            y.2.2.1 y.2.2.1 (needRD + needWR + needEN) y.2.2.2 = .good a) →
      ∃ (s' : State) (c : Cmd), exec (.cstep x) s = .next ((s'.wentOn (bLenX x.b)).upd fun u =>
          u.opened x.look.toNat t.pc (.regs [.status x.d c.id])) ∧
        Entered s1 s' c ∧ c.id = s.nextCmd ∧ c.thr = t.uid ∧ c.kind = .cstep ∧ c.st = .queued ∧ c.record = r) ∧
    (∀ (d a : R5) (seg : BitVec 3) (g : SegA), s.unit seg (t.gr a).toInt 32 32 (needWR + needEN) true = .ok g →
      (g.space = 1 → (s.vcore t.vu).stageAt t.spt g.addr 32 = none) →
      ∃ (s' : State) (c : Cmd), exec (.dgst d a seg) s = .next (s'.wentOn 4) ∧ s'.cmds = s.cmds ++ [c] ∧
        s'.mem = s.mem ∧ c.kind = .dgst ∧ c.st = .queued ∧ c.head = g.addr ∧
        (t.folds = [] → c.record =
          [t.dig.setWidth 64, (t.dig >>> 64).setWidth 64, BitVec.ofNat 64 t.gtid, BitVec.ofNat 64 t.folded]) ∧
        (d ≠ 0 → s'.me.pend = [(d, s.nextCmd)]))) ∧
  (∀ (s : State) (t : Thread), Calm s t →
    (∀ (x : SliceA) (p : Place) (a : SegA), s.unit x.seg ((t.gr x.a).toInt + x.off.toInt * 8) 8 8 needRD false = .ok a → a.space = 0 →
      s.trans a false false 0 = .ok p →
      let sl := p.slice.getD 0
      let me : Pin := ⟨sl, s.fnOf t, p.loc / 512, t.task⟩
      let there : Bool := s.pins.any fun q => q.slice == sl && q.fn == s.fnOf t && q.line == p.loc / 512
      (there = false → (s.pins.filter fun q => q.slice == sl).length < 32 →
        exec (.pin x) s = .next (({ s with pins := me :: s.pins } : State).wentOn 4 fun u => u.put x.d 0)) ∧
      (there = false → 32 ≤ (s.pins.filter fun q => q.slice == sl).length →
        exec (.pin x) s = .next (s.wentOn 4 fun u => u.put x.d 1)) ∧
      (there = true → exec (.pin x) s = .next (s.wentOn 4 fun u => u.put x.d 2)) ∧
      exec (.unpin x) s = .next (({ s with pins := s.pins.filter fun q =>
        !(q.slice == sl && q.fn == s.fnOf t && q.line == p.loc / 512) } : State).wentOn 4 fun u => u.put x.d (if there then 0 else 3))) ∧
    (∀ (d a : R5) (n : BitVec 8), (t.gr a).toNat ≤ 127 → n.toNat ≤ 12 →
      (s.granted (s.fnOf t) (t.gr a).toNat = true →
        ∃ s' : State, exec (.cistrn d a n) s = .next (s'.wentOn 4 fun u => u.put d 0) ∧ s'.waysOf (t.gr a).toNat = n.toNat ∧
          s'.threads = s.threads ∧
          ∀ o, s.waysOf (t.gr a).toNat * 2 ^ 17 ≤ o → o < n.toNat * 2 ^ 17 →
            s'.byte (cistBase (t.gr a).toNat + o) = 0 ∧ s'.full (cistBase (t.gr a).toNat + o) = true) ∧
      (s.granted (s.fnOf t) (t.gr a).toNat = false → exec (.cistrn d a n) s = .next (s.wentOn 4 fun u => u.put d 1))) ∧
    (∀ (d a : R5) (n : BitVec 8), t.inh = false → 127 < (t.gr a).toNat → exec (.cistrn d a n) s = .next (s.trapped 3 (t.gr a))))

namespace Sys2Proof.Machine

/-- Element `i` of a register with elements of `w` bytes (13 R314). -/
def ruleEl (w : Nat) (x : VReg) (i : Nat) : Nat := (x.extractLsb' (8 * w * i) (8 * w)).toNat

/-- A new vector register: the elements that `f` names take its values, the others stay (13 R315). -/
def RuleV (w : Nat) (f : Nat → Option Nat) (old new : VReg) : Prop :=
  ∀ e, e < 256 / w → ruleEl w new e = (f e).getD (ruleEl w old e)

/-- A predicate of elements of `w` bytes: every bit of an element says the same (13 R314). -/
def RuleP (w : Nat) (f : Nat → Bool) (q : PReg) : Prop := ∀ k, k < 256 → q.getLsbD k = f (k / w)

/-- Saturation of a signed number to `n` bits (04 R103). -/
def ruleSat (n : Nat) (x : Int) : Int := if x < -2 ^ (n - 1) then -2 ^ (n - 1) else if 2 ^ (n - 1) ≤ x then 2 ^ (n - 1) - 1 else x

/-- 13 R321: the integer members, whether the second operand is gB, and each one's number, of element size in bits, a and b;
an element takes it modulo 2 to the number of bits. -/
def ruleVInt : Instr → Option (V3 × Bool × (Nat → Nat → Nat → Int))
  | .viadd x => some (x, false, fun _ a b => a + b)
  | .visub x => some (x, false, fun _ a b => a - b)
  | .vimul x => some (x, false, fun _ a b => a * b)
  | .vand x => some (x, false, fun _ a b => (a &&& b : Nat))
  | .vor x => some (x, false, fun _ a b => (a ||| b : Nat))
  | .vxor x => some (x, false, fun _ a b => (a ^^^ b : Nat))
  | .vshl x => some (x, false, fun n a b => (a <<< (b % n) : Nat))
  | .vshr x => some (x, false, fun n a b => (a >>> (b % n) : Nat))
  | .vsar x => some (x, false, fun n a b => ruleSigned n a >>> (b % n))
  | .vimin x => some (x, false, fun n a b => if ruleSigned n a < ruleSigned n b then a else b)
  | .vimax x => some (x, false, fun n a b => if ruleSigned n a < ruleSigned n b then b else a)
  | .viminu x => some (x, false, fun _ a b => if a < b then a else b)
  | .vimaxu x => some (x, false, fun _ a b => if a < b then b else a)
  | .viaddS x => some (x, true, fun _ a b => a + b)
  | .visubS x => some (x, true, fun _ a b => a - b)
  | .vimulS x => some (x, true, fun _ a b => a * b)
  | .vandS x => some (x, true, fun _ a b => (a &&& b : Nat))
  | .vorS x => some (x, true, fun _ a b => (a ||| b : Nat))
  | .vxorS x => some (x, true, fun _ a b => (a ^^^ b : Nat))
  | .vshlS x => some (x, true, fun n a b => (a <<< (b % n) : Nat))
  | .vshrS x => some (x, true, fun n a b => (a >>> (b % n) : Nat))
  | .vsarS x => some (x, true, fun n a b => ruleSigned n a >>> (b % n))
  | .viminS x => some (x, true, fun n a b => if ruleSigned n a < ruleSigned n b then a else b)
  | .vimaxS x => some (x, true, fun n a b => if ruleSigned n a < ruleSigned n b then b else a)
  | .viminuS x => some (x, true, fun _ a b => if a < b then a else b)
  | .vimaxuS x => some (x, true, fun _ a b => if a < b then b else a)
  | _ => none

/-- 13 R319, R320: the floating-point members, whether the second operand is gB, and each one's element, of the format and the
elements a, b and d. -/
def ruleVFlt : Instr → Option (V3 × Bool × (Fmt → Nat → Nat → Nat → Nat))
  | .vadd x => some (x, false, fun m a b _ => m.enc .rne false ((m.dec a).add (m.dec b)))
  | .vsub x => some (x, false, fun m a b _ => m.enc .rne false ((m.dec a).add (m.dec b).neg))
  | .vmul x => some (x, false, fun m a b _ => m.enc .rne false ((m.dec a).mul (m.dec b)))
  | .vfma x => some (x, false, fun m a b d => m.enc .rne false (((m.dec a).mul (m.dec b)).add (m.dec d)))
  | .vfms x => some (x, false, fun m a b d => m.enc .rne false ((m.dec d).add ((m.dec a).mul (m.dec b)).neg))
  | .vnfma x => some (x, false, fun m a b d => m.enc .rne false (((m.dec a).mul (m.dec b)).neg.add (m.dec d).neg))
  | .vmin x => some (x, false, fun m a b _ => m.enc .rne false ((m.dec a).minF (m.dec b)))
  | .vmax x => some (x, false, fun m a b _ => m.enc .rne false ((m.dec a).maxF (m.dec b)))
  | .vabs x => some (x, false, fun m a _ _ => m.enc .rne false (m.dec a).absF)
  | .vneg x => some (x, false, fun m a _ _ => m.enc .rne false (m.dec a).neg)
  | .vrcpe x => some (x, false, fun m a _ _ => rcpe m (m.dec a))
  | .vrsqe x => some (x, false, fun m a _ _ => rsqe m (m.dec a))
  | .vaddS x => some (x, true, fun m a b _ => m.enc .rne false ((m.dec a).add (m.dec b)))
  | .vsubS x => some (x, true, fun m a b _ => m.enc .rne false ((m.dec a).add (m.dec b).neg))
  | .vmulS x => some (x, true, fun m a b _ => m.enc .rne false ((m.dec a).mul (m.dec b)))
  | .vfmaS x => some (x, true, fun m a b d => m.enc .rne false (((m.dec a).mul (m.dec b)).add (m.dec d)))
  | .vfmsS x => some (x, true, fun m a b d => m.enc .rne false ((m.dec d).add ((m.dec a).mul (m.dec b)).neg))
  | .vnfmaS x => some (x, true, fun m a b d => m.enc .rne false (((m.dec a).mul (m.dec b)).neg.add (m.dec d).neg))
  | .vminS x => some (x, true, fun m a b _ => m.enc .rne false ((m.dec a).minF (m.dec b)))
  | .vmaxS x => some (x, true, fun m a b _ => m.enc .rne false ((m.dec a).maxF (m.dec b)))
  | _ => none

/-- The number that a finite value is. -/
def ruleVal : Fp → Rat
  | .fin neg m e => (if neg then -1 else 1) * (m : Rat) * (2 : Rat) ^ e
  | _ => 0

/-- 13 R322: a condition on floating-point values. -/
def ruleCmpF (c : VCond) (a b : Fp) : Prop :=
  let nan := a = .nan ∨ b = .nan
  match c with
  | .unord => nan
  | .ord => ¬nan
  | .eq => ¬nan ∧ ¬a.lt b ∧ ¬b.lt a
  | .ne => nan ∨ a.lt b ∨ b.lt a
  | .lt => ¬nan ∧ a.lt b
  | .le => ¬nan ∧ ¬b.lt a
  | .gt => ¬nan ∧ b.lt a
  | .ge => ¬nan ∧ ¬a.lt b
  | _ => False

/-- 10 R250: a condition on integer elements of `n` bits. -/
def ruleCmpI (c : VCond) (n a b : Nat) : Prop :=
  match c with
  | .eq => a = b
  | .ne => a ≠ b
  | .lt => ruleSigned n a < ruleSigned n b
  | .le => ruleSigned n a ≤ ruleSigned n b
  | .gt => ruleSigned n b < ruleSigned n a
  | .ge => ruleSigned n b ≤ ruleSigned n a
  | .ltu => a < b
  | .leu => a ≤ b
  | .gtu => b < a
  | .geu => b ≤ a
  | _ => False

end Sys2Proof.Machine

/-- 13 R317, R321: each integer vector member writes its active elements of vD, and the inactive ones stay; nothing else changes. -/
def Obligations.VectorIntegerResult : Prop :=
  ∀ (s : State) (t : Thread) (i : Instr) (x : V3) (sc : Bool) (f : Nat → Nat → Nat → Int), ruleVInt i = some (x, sc, f) →
    i.wf = true → Issuing s t → t.runnels = [] → (sc = true → t.freeOf [x.b]) →
    let w := tySize x.ty
    let n := 8 * w
    let b (e : Nat) : Nat := if sc then (ruleSat n (t.gr x.b).toInt % 2 ^ n).toNat else ruleEl w (t.v[x.b.toNat]'x.b.isLt) e
    ∃ g : VReg → VReg, (∀ old, RuleV w (fun e => if (t.pr x.pg).getLsbD (w * e)
        then some (f n (ruleEl w (t.v[x.a.toNat]'x.a.isLt) e) (b e) % 2 ^ n).toNat else none) old (g old)) ∧
      exec i s = .next (s.wentOn 4 fun u => u.wv x.d (g (u.v[x.d.toNat]'x.d.isLt)))

/-- 13 R317, R319, R320: each floating-point vector member writes its active elements of vD, of the elements of vA, vB or the
broadcast of gB, and vD before the instruction; the inactive ones stay; nothing else changes. -/
def Obligations.VectorFloatResult : Prop :=
  ∀ (s : State) (t : Thread) (i : Instr) (x : V3) (sc : Bool) (f : Fmt → Nat → Nat → Nat → Nat),
    ruleVFlt i = some (x, sc, f) → i.wf = true → Issuing s t → t.runnels = [] → (sc = true → t.freeOf [x.b]) →
    let m : Fmt := if x.ty = 0 then ⟨24, -149⟩ else ⟨8, -133⟩
    let w := if x.ty = 0 then 4 else 2
    let b (e : Nat) : Nat := if sc then m.enc .rne false (.fin ((t.gr x.b).toInt < 0) (t.gr x.b).toInt.natAbs 0)
      else ruleEl w (t.v[x.b.toNat]'x.b.isLt) e
    ∃ g : VReg → VReg, (∀ old, RuleV w (fun e => if (t.pr x.pg).getLsbD (w * e)
        then some (f m (ruleEl w (t.v[x.a.toNat]'x.a.isLt) e) (b e) (ruleEl w (t.v[x.d.toNat]'x.d.isLt) e)) else none)
        old (g old)) ∧
      exec i s = .next (s.wentOn 4 fun u => u.wv x.d (g (u.v[x.d.toNat]'x.d.isLt)))

/-- 04 R98, R101: sums and products are exact, order is numeric, and a value is rounded once to FP32 or BF16: to a nearest finite
value of the format, of two nearest ones to the even one; from half a step above the greatest finite value on it is an infinity;
a NaN is the canonical one. -/
def Obligations.RoundedOnceToNearestEven : Prop :=
  (∀ (na nb : Bool) (m n : Nat) (e d : Int),
    (∃ c k f, (Fp.fin na m e).add (.fin nb n d) = .fin c k f) ∧ (∃ c k f, (Fp.fin na m e).mul (.fin nb n d) = .fin c k f) ∧
    ruleVal ((Fp.fin na m e).add (.fin nb n d)) = ruleVal (.fin na m e) + ruleVal (.fin nb n d) ∧
    ruleVal ((Fp.fin na m e).mul (.fin nb n d)) = ruleVal (.fin na m e) * ruleVal (.fin nb n d) ∧
    ((Fp.fin na m e).lt (.fin nb n d) = true ↔ ruleVal (.fin na m e) < ruleVal (.fin nb n d))) ∧
  (∀ a : Fp, Fp.add .nan a = .nan ∧ Fp.add a .nan = .nan ∧ Fp.mul .nan a = .nan ∧ Fp.mul a .nan = .nan) ∧
  (∀ m : Fmt, m ∈ [f32, bf16] → m.enc .rne false .nan = 511 * 2 ^ (m.p - 2) ∧
    (∀ (neg : Bool) (k : Nat) (e : Int),
      let x := ruleVal (.fin neg k e)
      let edge : Rat := (2 : Rat) ^ (128 : Int) - (2 : Rat) ^ ((127 : Int) - m.p)
      (edge ≤ x.abs → m.dec (m.enc .rne false (.fin neg k e)) = .inf neg) ∧
      (x.abs < edge → ∃ k' e', m.dec (m.enc .rne false (.fin neg k e)) = .fin neg k' e' ∧
        ∀ z, z < 2 ^ (m.p + 8) → ∀ c k'' e'', m.dec z = .fin c k'' e'' →
          (ruleVal (.fin neg k' e') - x).abs ≤ (ruleVal (.fin c k'' e'') - x).abs ∧
          ((ruleVal (.fin neg k' e') - x).abs = (ruleVal (.fin c k'' e'') - x).abs →
            ruleVal (.fin c k'' e'') ≠ ruleVal (.fin neg k' e') → m.enc .rne false (.fin neg k e) % 2 = 0))))

/-- 13 R322, R324: VCMP sets the elements of pD to the condition where active and to false elsewhere; PAND, POR, PXOR and PANDN work
on all 256 bits; WHILELT and WHILELE compare positions with s(gA); VPOPC counts and VFIRST finds. A write to p0 is discarded.
13 R324: VSEL, VEXT, VINS, VBCAST, VIOTA, VLEN and VMOV. -/
def Obligations.ComparesSelectionAndLanes : Prop :=
  (∀ (s : State) (t : Thread) (x : V3), Issuing s t → t.runnels = [] →
    let w := tySize x.ty
    let p (r : R5) : PReg := t.pr (r.extractLsb' 0 3)
    let on (e : Nat) : Bool := (t.pr x.pg).getLsbD (w * e)
    let both (e : Nat) : Bool := (p x.a).getLsbD (w * e) && on e
    (∀ c : VCond, c.tyOk x.ty = true → ∃ q : PReg, exec (.vcmp c x) s = .next (s.wentOn 4 fun u => u.wp (x.d.extractLsb' 0 3) q) ∧
      ∀ k, k < 256 → (q.getLsbD k = true ↔ on (k / w) = true ∧
        let a := ruleEl w (t.v[x.a.toNat]'x.a.isLt) (k / w)
        let b := ruleEl w (t.v[x.b.toNat]'x.b.isLt) (k / w)
        if x.ty = 0 then ruleCmpF c (f32.dec a) (f32.dec b) else if x.ty = 1 then ruleCmpF c (bf16.dec a) (bf16.dec b)
        else ruleCmpI c (8 * w) a b)) ∧
    exec (.pand x) s = .next (s.wentOn 4 fun u => u.wp (x.d.extractLsb' 0 3) (u.pr (x.a.extractLsb' 0 3) &&& u.pr x.pg)) ∧
    exec (.por x) s = .next (s.wentOn 4 fun u => u.wp (x.d.extractLsb' 0 3) (u.pr (x.a.extractLsb' 0 3) ||| u.pr x.pg)) ∧
    exec (.pxor x) s = .next (s.wentOn 4 fun u => u.wp (x.d.extractLsb' 0 3) (u.pr (x.a.extractLsb' 0 3) ^^^ u.pr x.pg)) ∧
    exec (.pandn x) s = .next (s.wentOn 4 fun u => u.wp (x.d.extractLsb' 0 3) (u.pr (x.a.extractLsb' 0 3) &&& ~~~(u.pr x.pg))) ∧
    (t.freeOf [x.a] →
      (∃ q, RuleP w (fun e => on e && decide ((e : Int) < (t.gr x.a).toInt)) q ∧
        exec (.whilelt x) s = .next (s.wentOn 4 fun u => u.wp (x.d.extractLsb' 0 3) q)) ∧
      (∃ q, RuleP w (fun e => on e && decide ((e : Int) ≤ (t.gr x.a).toInt)) q ∧
        exec (.whilele x) s = .next (s.wentOn 4 fun u => u.wp (x.d.extractLsb' 0 3) q))) ∧
    (t.freeOf [x.d] →
      exec (.vpopc x) s = .next (s.wentOn 4 fun u => u.put x.d
        (BitVec.ofNat 64 ((List.range (256 / w)).map fun e => (both e).toNat).sum)) ∧
      ∃ y : Word, exec (.vfirst x) s = .next (s.wentOn 4 fun u => u.put x.d y) ∧
        ((y = BitVec.allOnes 64 ∧ ∀ e, e < 256 / w → both e = false) ∨
          (y.toNat < 256 / w ∧ both y.toNat = true ∧ ∀ e, e < y.toNat → both e = false)))) ∧
  (∀ (s : State) (t : Thread) (x : V3), Issuing s t → t.runnels = [] →
    let w := tySize x.ty
    let a (e : Nat) : Nat := ruleEl w (t.v[x.a.toNat]'x.a.isLt) e
    let b (e : Nat) : Nat := ruleEl w (t.v[x.b.toNat]'x.b.isLt) e
    let on (e : Nat) : Bool := (t.pr x.pg).getLsbD (w * e)
    let first (e : Nat) : Prop := e < 256 / w ∧ on e = true ∧ ∀ k, k < e → on k = false
    let low : Nat := (t.gr x.a).toNat % 2 ^ (8 * w)
    let writes (i : Instr) (f : Nat → Option Nat) : Prop := ∃ g : VReg → VReg, (∀ old, RuleV w f old (g old)) ∧
      exec i s = .next (s.wentOn 4 fun u => u.wv x.d (g (u.v[x.d.toNat]'x.d.isLt)))
    writes (.vsel x) (fun e => some (if on e then a e else b e)) ∧
    writes (.vmov x) (fun e => if on e then some (a e) else none) ∧
    writes (.viota x) (fun e => if on e then some e else none) ∧
    (t.freeOf [x.a] →
      writes (.vbcast x) (fun e => if on e then some low else none) ∧
      (∀ f, first f → writes (.vins x) (fun e => if e = f then some low else none)) ∧
      ((∀ e, e < 256 / w → on e = false) → exec (.vins x) s = .next (s.wentOn 4))) ∧
    (t.freeOf [x.d] →
      exec (.vlen x) s = .next (s.wentOn 4 fun u => u.put x.d (BitVec.ofNat 64 (256 / w))) ∧
      (∀ f, first f → exec (.vext x) s = .next (s.wentOn 4 fun u => u.put x.d
        (if x.ty.toNat < 2 then BitVec.ofNat 64 (a f) else BitVec.ofInt 64 (ruleSigned (8 * w) (a f))))) ∧
      ((∀ e, e < 256 / w → on e = false) → exec (.vext x) s = .next (s.wentOn 4 fun u => u.put x.d 0))))

namespace Sys2Proof.Machine

/-- 13 R325: the permutes: each result element, of the number of elements, of what is active, and of the elements of vA and vB. -/
def rulePerm : Instr → Option (V3 × (Nat → (Nat → Bool) → (Nat → Nat) → (Nat → Nat) → Nat → Nat))
  | .vperm x => some (x, fun n _ a b i => if b i < n then a (b i) else 0)
  | .vziplo x => some (x, fun _ _ a b i => if i % 2 = 0 then a (i / 2) else b (i / 2))
  | .vziphi x => some (x, fun n _ a b i => if i % 2 = 0 then a (n / 2 + i / 2) else b (n / 2 + i / 2))
  | .vunzlo x => some (x, fun n _ a b i => if 2 * i < n then a (2 * i) else b (2 * i - n))
  | .vunzhi x => some (x, fun n _ a b i => if 2 * i + 1 < n then a (2 * i + 1) else b (2 * i + 1 - n))
  | .vslideup x => some (x, fun n _ a b i => if i = 0 then b (n - 1) else a (i - 1))
  | .vslidedn x => some (x, fun n _ a b i => if i + 1 < n then a (i + 1) else b 0)
  | .vrev x => some (x, fun n _ a _ i => a (n - 1 - i))
  | .vcompact x => some (x, fun n on a _ i =>
      let l := (List.range n).filter on
      if i < l.length then a (l.getD i 0) else 0)
  | _ => none

end Sys2Proof.Machine

/-- 13 R325, R326: the permutes write their active elements, VCOMPACT every one; VROPE rotates the pairs whose even element is
active. -/
def Obligations.PermutesAndRotation : Prop :=
  ∀ (s : State) (t : Thread) (x : V3), Issuing s t → t.runnels = [] →
    let w := tySize x.ty
    let a (e : Nat) : Nat := ruleEl w (t.v[x.a.toNat]'x.a.isLt) e
    let b (e : Nat) : Nat := ruleEl w (t.v[x.b.toNat]'x.b.isLt) e
    let on (e : Nat) : Bool := (t.pr x.pg).getLsbD (w * e)
    (∀ i f, rulePerm i = some (x, f) → ∃ g : VReg → VReg,
      (∀ old, RuleV w (fun e => if on e = true ∨ i = .vcompact x then some (f (256 / w) on a b e) else none) old (g old)) ∧
      exec i s = .next (s.wentOn 4 fun u => u.wv x.d (g (u.v[x.d.toNat]'x.d.isLt)))) ∧
    (x.ty.toNat < 2 → ∃ g : VReg → VReg,
      (∀ old, RuleV w (fun e => if on (e / 2 * 2) then
          let r := ropePair (if x.ty = 0 then f32 else bf16) (a (e / 2 * 2)) (a (e / 2 * 2 + 1)) (b (e / 2 * 2)) (b (e / 2 * 2 + 1))
          some (if e % 2 = 0 then r.1 else r.2) else none) old (g old)) ∧
      exec (.vrope x) s = .next (s.wentOn 4 fun u => u.wv x.d (g (u.v[x.d.toNat]'x.d.isLt))))

namespace Sys2Proof.Machine

/-- 13 R328: the long members of major 0x27, whether vB is read, the rounding mode and the function. -/
def ruleVLong : Instr → Option (XvA × RM × (Fp → Fp → Fp))
  | .vdiv x => some (x, rmOf x.rm, Fp.div)
  | .vsqrt x => some (x, rmOf x.rm, fun a _ => a.sqrt)
  | .vexp x => some (x, .rne, fun a _ => a.exp)
  | .vlog x => some (x, .rne, fun a _ => a.log)
  | .vtanh x => some (x, .rne, fun a _ => a.tanh)
  | .verf x => some (x, .rne, fun a _ => a.erf)
  | _ => none

/-- The state in which a long vector instruction of 12 bytes has opened its window, with what its close writes. -/
def Opened (s : State) (t : Thread) (i : Instr) (look : BitVec 4) (l : List RegW) : Prop :=
  exec i s = .next ((s.wentOn 12).upd fun u => u.opened look.toNat t.pc (.regs l))

end Sys2Proof.Machine

namespace Sys2Proof.Machine

/-- 13 R337: one step of the generator: the output and the next state. -/
def ruleRng (x : BitVec 256) : Word × BitVec 256 :=
  let s0 := x.extractLsb' 0 64
  let s1 := x.extractLsb' 64 64
  let s2 := x.extractLsb' 128 64
  let s3 := x.extractLsb' 192 64
  let a := s2 ^^^ s0
  let b := s3 ^^^ s1
  ((s0 + s3).rotateLeft 23 + s0, b.rotateLeft 45 ++ (a ^^^ (s1 <<< 17)) ++ (s1 ^^^ a) ++ (s0 ^^^ b))

/-- `n` steps of the generator: the outputs and the state after them. -/
def ruleDraws : Nat → BitVec 256 → List Word × BitVec 256
  | 0, x => ([], x)
  | n + 1, x => let r := ruleDraws n (ruleRng x).2; ((ruleRng x).1 :: r.1, r.2)

end Sys2Proof.Machine

/-- 13 R328, R329, R336, R315: the long vector operations open a window whose close writes the active elements of vD, or gD for a
reduction: division and the functions rounded once, the sums, extremes and running sums, and the converted elements.
13 R337 to R339: VRNG draws 128 outputs whatever the predicate and the type, and writes its active elements from their bytes;
RSEED replaces the base state by the mixed one and sets the state to it, advanced for the thread's number. -/
def Obligations.LongVectorAndRandom : Prop :=
  (∀ (s : State) (t : Thread), Issuing s t → t.runnels = [] →
    (∀ i x rm f, ruleVLong i = some (x, rm, f) → i.wf = true →
      let w := tySize x.ty
      let m : Fmt := if x.ty = 0 then f32 else bf16
      ∃ (q : PReg) (v : VReg), RuleP w (fun e => (t.pr x.pg).getLsbD (w * e)) q ∧ Opened s t i x.look [.v x.d q v] ∧
        ∀ e, e < 256 / w → ruleEl w v e = m.enc rm false (f (m.dec (ruleEl w (t.v[x.a.toNat]'x.a.isLt) e))
          (m.dec (ruleEl w (t.v[x.b.toNat]'x.b.isLt) e)))) ∧
    (∀ x : XvA, (Instr.vredadd x).wf = true →
      let w := if x.b8 then 1 else tySize x.ty
      let n := 8 * w
      let on (e : Nat) : Bool := (t.pr x.pg).getLsbD (w * e)
      let a := (List.range (256 / w)).map (ruleEl w (t.v[x.a.toNat]'x.a.isLt))
      let act : List Int := ((List.range (256 / w)).filter on).map fun e => ruleSigned n (ruleEl w (t.v[x.a.toNat]'x.a.isLt) e)
      if x.b8 = false ∧ x.ty.toNat < 2 then
        Opened s t (.vredadd x) x.look [.g x.d (BitVec.ofNat 64 (fTree x.ty add32 0x80000000 (t.pr x.pg) a 1023))] ∧
        Opened s t (.vredmax x) x.look [.g x.d (BitVec.ofNat 64 (fTree x.ty max32 0xFF800000 (t.pr x.pg) a 1023))] ∧
        Opened s t (.vredmin x) x.look [.g x.d (BitVec.ofNat 64 (fTree x.ty min32 0x7F800000 (t.pr x.pg) a 1023))] ∧
        ∃ (q : PReg) (v : VReg), RuleP w on q ∧ Opened s t (.vscanadd x) x.look [.v x.d q v] ∧
          ∀ j, j < 256 / w → ruleEl w v j =
            let y := fTree x.ty add32 0x80000000 (t.pr x.pg) a j
            if x.ty = 0 then y else toBf .rne y
      else
        Opened s t (.vredadd x) x.look [.g x.d (BitVec.ofInt 64 act.sum)] ∧
        (∃ y : Int, Opened s t (.vredmax x) x.look [.g x.d (BitVec.ofInt 64 y)] ∧
          y ∈ -2 ^ (n - 1) :: act ∧ ∀ z ∈ act, z ≤ y) ∧
        (∃ y : Int, Opened s t (.vredmin x) x.look [.g x.d (BitVec.ofInt 64 y)] ∧
          y ∈ (2 ^ (n - 1) - 1) :: act ∧ ∀ z ∈ act, y ≤ z) ∧
        ∃ (q : PReg) (v : VReg), RuleP w on q ∧ Opened s t (.vscanadd x) x.look [.v x.d q v] ∧
          ∀ j, j < 256 / w → (ruleEl w v j : Int) = (((List.range (j + 1)).filter on).map fun e =>
            ruleSigned n (ruleEl w (t.v[x.a.toNat]'x.a.isLt) e)).sum % 2 ^ n) ∧
    (∀ x : CvtA, (Instr.vcvt x).wf = true →
      let size (c : BitVec 4) : Nat := if c = 4 then 1 else if c.toNat % 2 = 0 then 4 else 2
      let ws := size x.sty
      let wd := size x.dty
      let m := 256 / max ws wd
      let first := if wd ≤ ws then x.part.toNat * m else 0
      ∃ (q : PReg) (v : VReg), Opened s t (.vcvt x) x.look [.v x.d q v] ∧
        RuleP wd (fun e => (t.pr x.pg).getLsbD (wd * e) && decide (first ≤ e ∧ e < first + m)) q ∧
        ∀ e, first ≤ e → e < first + m → ruleEl wd v e = cvtEl x.dty.toNat x.sty.toNat (rmOf x.rm)
          (ruleEl ws (t.v[x.a.toNat]'x.a.isLt) (if wd ≤ ws then e - first else x.part.toNat * m + e)))) ∧
  (∀ (s : State) (t : Thread), Issuing s t → t.runnels = [] →
    (∀ (d : R5) (pg : BitVec 3) (ty : BitVec 2),
      let w := tySize ty
      let l := (ruleDraws 128 t.rng).1
      let u (e : Nat) : Nat := ((l.getD (w * e / 8) 0).extractLsb' (8 * (w * e % 8)) (8 * w)).toNat
      ∃ g : VReg → VReg, (∀ old, RuleV w (fun e => if (t.pr pg).getLsbD (w * e) then
          some (if ty = 0 then f32.enc .rne false (.fin false (u e / 256) (-24))
            else if ty = 1 then bf16.enc .rne false (.fin false (u e / 256) (-8)) else u e) else none) old (g old)) ∧
        exec (.vrng d pg ty) s = .next (s.wentOn 4 fun y =>
          { y.wv d (g (y.v[d.toNat]'d.isLt)) with rng := (ruleDraws 128 t.rng).2 })) ∧
    (∀ a : R5, t.freeOf [a] →
      let k (i : Nat) : BitVec 64 := BitVec.ofNat 64 (mix ((t.gr a ^^^ t.rngBase.extractLsb' (64 * i) 64).toNat))
      let b : BitVec 256 := k 3 ++ k 2 ++ k 1 ++ k 0
      exec (.rseed a) s = .next (s.wentOn 4 fun y => { y with rngBase := b, rng := rngJump b (y.vu % 1024 * 8 + y.slot) })))

/-- 12 R291, 02 R70, R73: BIND reads its stream descriptor and binds v24 to v31, which lose their contents; UNBIND releases a
runnel whose elements have been stored, and the register reads zero.
02 R72, R73, 13 R315, R316: a source that names a read runnel takes its next element, as it was fetched where no snapshot load must
return a later value, else as it stands; a destination that names a write runnel pushes one, with zero in the inactive elements, as an
access of its instruction. Shown on VMOV. -/
def Obligations.RunnelsMoveElements : Prop :=
  (∀ (s : State) (t : Thread) (d : R5), Issuing s t → s.away t = false →
    (∀ a seg p bs s1, Calm s t → 24 ≤ d.toNat →
      Reaches s t seg (t.gr a).toInt 32 32 needRD false (fun _ => false) true p → Snapshot s p 32 bs s1 →
      let ws := recWords bs 4
      streamOk t (ws.getD 0 0) (runnelOf d.toNat ws) = true → s.runnelsOn t.core < 16 →
      exec (.bind d a seg) s = .next (s1.wentOn 4 fun u => { u.wv d 0 with runnels := u.runnels ++ [runnelOf d.toNat ws] })) ∧
    (∀ y, t.runnel d.toNat = some y → y.pushed = [] →
      exec (.unbind d) s = .next (s.wentOn 4 fun u => { u.wv d 0 with runnels := u.runnels.filter fun z => z.v != d.toNat }))) ∧
  (∀ (s : State) (t : Thread) (x : V3) (y : Runnel) (a : SegA), Issuing s t → y.taken < y.len →
    (∀ w ∈ t.windows, w.acq = true → w.waiting = false) → s.elemAt t y y.taken = .ok a →
    let w := tySize x.ty
    let on (e : Nat) : Bool := (t.pr x.pg).getLsbD (w * e)
    (∀ ps z rest, t.runnel x.a.toNat = some y → t.runnel x.d.toNat = none → y.write = false → y.wait = none → y.ahead = z :: rest →
      s.elemPlaces t y a = .inr ps →
      let takes (v : VReg) : Prop := ∃ (s' : State) (g : VReg → VReg), s'.bare = s.bare ∧
        (∀ old, RuleV w (fun e => if on e then some (ruleEl w v e) else none) old (g old)) ∧
        exec (.vmov x) s = .next (s'.wentOn 4 fun u => (u.setRunnel x.a.toNat fun z =>
          { z with taken := z.taken + 1, done := max z.done (z.taken + 1), ahead := z.ahead.drop 1, wait := none }).wv x.d (g (u.v[x.d.toNat]'x.d.isLt)))
      (y.fresh = false → s.elemFresh ps z.moment = true → z.bad = none → takes z.x) ∧
      (y.fresh = false → s.elemFresh ps z.moment = false → s.elemPoison ps = none → takes (s.elemValue ps)) ∧
      (y.fresh = true → s.elemClash ps false = none → s.elemPoison ps = none → takes (s.elemValue ps))) ∧
    (t.runnel x.d.toNat = some y → t.runnel x.a.toNat = none → y.write = true → y.pushed.length < 8 →
      ∃ (s' : State) (v : VReg), RuleV w (fun e => if on e then some (ruleEl w (t.v[x.a.toNat]'x.a.isLt) e) else some 0) 0 v ∧
        s'.bare = s.bare ∧ exec (.vmov x) s = .next (s'.wentOn 4 fun u => u.setRunnel x.d.toNat fun z =>
          { z with taken := z.taken + 1, pushed := z.pushed ++ [⟨v, t.pc, u.seq, t.epoch, t.clock⟩] })))

/-- 11 R270: ERET, the word 0x70000034 alone: from a handler it clears INH and goes to TPC as it stands; outside one it is the
illegal-operand fault. (In a forecast loop 07 R205 governs a TPC that the handler changed.)
11 R272: a thread whose thermal displacement waited for its handler's end moves then. -/
def Obligations.EretReturns : Prop :=
  (∀ w : BitVec 32, decodeWords (wordsOf [w]) = .ok .eret ↔ w = 0x70000034) ∧
  (∀ (s : State) (t : Thread), Issuing s t → t.inh = true →
    (t.loop ≠ none → t.tpc = t.tpcd ∨ t.tpc = t.tpcd + w64 (s.lenAt t.tpcd)) →
    (t.displace = none → exec .eret s = .next (s.upd fun u => { u.wentTo id u.tpc with inh := false })) ∧
    ∀ c, t.displace = some c → exec .eret s =
      .next ((s.upd fun u => { u.wentTo id u.tpc with inh := false, displace := none }).parkMe (.moving c false))) ∧
  ∀ (s : State) (t : Thread), Calm s t → t.inh = false → exec .eret s = .next (s.trapped 3 0)

/-- 11 R266: NOP and YIELD.
11 R267, 08 R214: HALT of a thread with nothing outstanding ends it: it is gone, every other thread stays as it is, and a vcore
that has no other thread has ended. -/
def Obligations.NopYieldHalt : Prop :=
  (∀ (s : State) (t : Thread), Issuing s t →
    exec .nop s = .next (s.wentOn 4) ∧
    exec .yield s = .next (s.wentOn 4 fun u => { u with skip := true })) ∧
  (∀ (s : State) (t : Thread), Calm s t → (∀ c ∈ s.cmds, c.thr = t.uid → c.st = .finished) →
    ∃ s' : State, exec .halt s = .next s' ∧ s'.cur = none ∧ (∀ u ∈ s'.threads, u.uid ≠ t.uid) ∧
      (∀ u ∈ s.threads, u.uid ≠ t.uid → u ∈ s'.threads) ∧
      ((∀ u ∈ s.threads, u.vu = t.vu → u.fw = none → u.uid = t.uid) → ∀ v ∈ s'.vcores, v.vu = t.vu → v.ended = true))

namespace Sys2Proof.Machine

/-- A vector load may perform its access to a place: it meets no poison in what the words hold or may still show, and no race. -/
def VloadOk (s : State) (p : Place) (n : Nat) : Prop :=
  s.poisonTrap p n = none ∧ s.clashP p n false false = none ∧ (p.lc = none ∨ ∀ k < n, ∀ o ∈ s.pastOf (p.key k), o.bad = false)

/-- The words of a place can show a vector load their newest values alone. -/
def VloadNew (s : State) (p : Place) (n : Nat) : Prop := p.lc = none ∨ s.hasOld p n = false

/-- 13 R330, R331: the vector loads and stores: lookahead, length, predicate, register, element size, segment, and the offset of
an element, of gA and of the index elements. -/
structure VmemRule where
  store : Bool
  look : BitVec 4
  len : Nat
  pg : BitVec 3
  a : R5
  d : R5
  ix : Option R5
  w : Nat
  seg : BitVec 3
  ofs : Int → Int → Nat → Int

/-- The bytes of an element type (13 R314, R330). -/
def ruleSize (b8 : Bool) (ty : BitVec 2) : Nat := if b8 then 1 else if ty.toNat % 2 = 0 then 4 else 2

/-- The parameters of each vector load and store. -/
def ruleVmem : Instr → Option VmemRule
  | .vld x => some ⟨false, x.look, 4, x.pg, x.a, x.d, none, ruleSize false x.ty, 2, fun g _ e => g + ruleSize false x.ty * e⟩
  | .vst x => some ⟨true, 0, 4, x.pg, x.a, x.d, none, ruleSize false x.ty, 2, fun g _ e => g + ruleSize false x.ty * e⟩
  | .vldStrided x => some ⟨false, x.look, 12, x.pg, x.a, x.d, none, ruleSize x.b8 x.ty, x.seg,
      fun g _ e => g + x.off.toInt + x.stride.toInt * e⟩
  | .vstStrided x => some ⟨true, 0, 12, x.pg, x.a, x.d, none, ruleSize x.b8 x.ty, x.seg,
      fun g _ e => g + x.off.toInt + x.stride.toInt * e⟩
  | .vldx x => some ⟨false, x.look, match x.off with | .small _ => 12 | .lit _ => 20, x.pg, x.a, x.d, some x.b,
      ruleSize x.b8 x.ty, x.seg,
      fun g i _ => g + (match x.off with | .small o => o.toInt | .lit v => v.toInt) + i * 2 ^ x.sc.toNat⟩
  | .vstx x => some ⟨true, 0, match x.off with | .small _ => 12 | .lit _ => 20, x.pg, x.a, x.d, some x.b,
      ruleSize x.b8 x.ty, x.seg,
      fun g i _ => g + (match x.off with | .small o => o.toInt | .lit v => v.toInt) + i * 2 ^ x.sc.toNat⟩
  | _ => none

/-- Element `e` is active for the access. -/
def VmemRule.on (x : VmemRule) (t : Thread) (e : Nat) : Prop := e < 256 / x.w ∧ (t.pr x.pg).getLsbD (x.w * e) = true

/-- The segment offset of element `e`. -/
def VmemRule.off (x : VmemRule) (t : Thread) (e : Nat) : Int :=
  x.ofs (t.gr x.a).toInt (match x.ix with | some r => ruleSigned (8 * x.w) (ruleEl x.w (t.v[r.toNat]'r.isLt) e) | none => 0) e

end Sys2Proof.Machine

/-- 13 R330 to R334, R315: a vector load checks and reads its active elements alone, each at its offset, and opens a window whose
close writes them; a loaded word that is not ordered is a race as R82 says, and nothing else changes.
02 R55: through a converted page each byte is what its word holds, or what it still held after the thread's last synchronising
operation and the rest that 02 R55 names. -/
def Obligations.VectorLoadResult : Prop :=
  ∀ (s : State) (t : Thread) (i : Instr) (x : VmemRule) (p : Nat → Place), ruleVmem i = some x → x.store = false → i.wf = true →
    Calm s t →
    (∀ e, x.on t e → Reaches s t x.seg (x.off t e) x.w x.w needRD false (fun _ => false) true (p e) ∧
      VloadOk s (p e) x.w) →
    ∃ (s' : State) (q : PReg) (v : VReg), s'.bare = s.bare ∧
      exec i s = .next ((s'.wentOn x.len).upd fun u => u.opened x.look.toNat t.pc (.regs [.v x.d q v])) ∧
      RuleP x.w (fun e => (t.pr x.pg).getLsbD (x.w * e)) q ∧
      ∀ e, x.on t e →
        (VloadNew s (p e) x.w → ruleEl x.w v e = ((List.range x.w).map fun k => (s.byte ((p e).at k)).toNat * 256 ^ k).sum) ∧
        ∀ k < x.w, ∃ y : Word, (y = s.dword (8 * (p e).key k) ∨
            ∃ o ∈ s.pastOf ((p e).key k), s.snapFrom ((p e).key k) < o.upto ∧ y = o.x) ∧
          v.extractLsb' (8 * (x.w * e + k)) 8 = y.extractLsb' (8 * ((p e).at k % 8)) 8

/-- 13 R330 to R334: a vector store writes its active elements alone, each at its offset; of elements at one offset the one with the
highest index wins; every other byte, the FE bits and everything else stay. -/
def Obligations.VectorStoreResult : Prop :=
  ∀ (s : State) (t : Thread) (i : Instr) (x : VmemRule) (p : Nat → Place), ruleVmem i = some x → x.store = true → i.wf = true →
    Calm s t → Memory.wf s.mem = true →
    (∀ e, x.on t e → Reaches s t x.seg (x.off t e) x.w x.w needWR true (fun _ => false) false (p e) ∧
      (p e).straight ∧ (p e).addr % x.w = 0 ∧ s.clash ((p e).loc / 8 * 8) (p e).slice true false = none) →
    (∀ e f, x.on t e → x.on t f → ∀ j k, j < x.w → k < x.w → s.chan ((p e).at j) = s.chan ((p f).at k) →
      x.off t e + j = x.off t f + k) →
    ∃ s' : State, exec i s = .next (s'.wentOn x.len) ∧ (s'.withMem s.mem s.poison).bare = s.bare ∧ s'.empty = s.empty ∧
      (∀ k ∈ s'.poison, k ∈ s.poison) ∧
      (∀ e, x.on t e → (∀ f, x.on t f → e < f → x.off t f ≠ x.off t e) → ∀ k, k < x.w →
        s'.byte ((p e).at k) = (t.v[x.d.toNat]'x.d.isLt).extractLsb' (8 * (x.w * e + k)) 8) ∧
      ∀ a, (∀ e, x.on t e → ¬s.touches (p e) x.w a) → s'.byte a = s.byte a

/-- 14 R361 to R363: VLDQ gives its active elements the values of their codes, zero outside the frame; VSTQ writes the codes of its
active elements inside the frame, each under the scale and the dither of its place, and no other nibble or byte. -/
def Obligations.QuantisedVectorAccess : Prop :=
  ∀ (s s1 : State) (t : Thread) (x : VQuA) (pf : Place) (pc ps : Nat → Place) (f : Frame) (bs : List Byte), Calm s t → tyF x.ty = true →
    Reaches s t x.seg (t.gr x.f).toInt 32 32 needRD false (fun _ => false) true pf → Snapshot s pf 32 bs s1 →
    frameOf (recWords bs 4) = some f →
    (t.gr x.b).extractLsb' 40 24 = 0 → nfmt? x.qf.toNat = some f.fmt →
    let w := if x.ty = 0 then 4 else 2
    let m : Fmt := if x.ty = 0 then f32 else bf16
    let o0 := ((t.gr x.b).extractLsb' 0 20).toNat
    let o1 := ((t.gr x.b).extractLsb' 20 20).toNat
    let idx (e : Nat) : List Nat := [o0 + e, o1, 0, 0]
    let act (e : Nat) : Prop := e < 256 / w ∧ (t.pr x.pg).getLsbD (w * e) = true
    let on (e : Nat) : Prop := act e ∧ f.inside (idx e) = true
    let code (e : Nat) : Int := (t.gr x.a).toInt + (f.place (idx e)).1
    let scale (e : Nat) : Int := (t.gr x.s).toInt + 4 * ((o0 + e) / 128 - o0 / 128 : Nat)
    let sv (e : Nat) : Nat := natOfBytes (s.readP (ps e) 4)
    (∀ e, on e → Reaches s t x.seg (scale e) 4 4 needRD false (fun _ => false) true (ps e) ∧
      VloadOk s (ps e) 4) →
    ((∀ e, on e → Reaches s t x.seg (code e) 1 1 needRD false (fun _ => false) true (pc e) ∧
        VloadOk s (pc e) 1) →
      ∃ (s' : State) (q : PReg) (v : VReg), s'.bare = s.bare ∧
        exec (.vldq x) s = .next ((s'.wentOn 12).upd fun u => u.opened x.look.toNat t.pc (.regs [.v x.d q v])) ∧
        RuleP w (fun e => (t.pr x.pg).getLsbD (w * e)) q ∧
        ∀ e, act e → (¬on e → ruleEl w v e = 0) ∧ (on e → VloadNew s (pc e) 1 → VloadNew s (ps e) 4 → ruleEl w v e =
          match dequant f.fmt (f.fmt.code (s.byte ((pc e).at 0)) (f.place (idx e)).2) (f.dither (idx e)) with
          | none => m.qnan
          | some y => m.enc .rne false ((val32 (sv e)).mul y.fp))) ∧
    (Memory.wf s.mem = true →
      (∀ e, on e → Reaches s t x.seg (code e) 1 1 needWR true (fun _ => false) false (pc e) ∧ (pc e).straight ∧
        s.clash ((pc e).loc / 8 * 8) (pc e).slice true false = none) →
      (∀ e g, on e → on g → s.chan ((pc e).at 0) = s.chan ((pc g).at 0) → code e = code g) →
      ∃ s' : State, exec (.vstq x) s = .next (s'.wentOn 12) ∧ (s'.withMem s.mem s.poison).bare = s.bare ∧ s'.empty = s.empty ∧
        (∀ e, on e → f.fmt.code (s'.byte ((pc e).at 0)) (f.place (idx e)).2 =
          quantStore f.fmt (rne32 (m.dec (ruleEl w (t.v[x.d.toNat]'x.d.isLt) e))) (sv e) (f.dither (idx e))) ∧
        (∀ e h, on e → f.fmt = .int4 → h ∈ [0, 4] → (∀ g, on g → ¬(code g = code e ∧ (f.place (idx g)).2 = h)) →
          f.fmt.code (s'.byte ((pc e).at 0)) h = f.fmt.code (s.byte ((pc e).at 0)) h) ∧
        ∀ a, (∀ e, on e → s.chan a ≠ s.chan ((pc e).at 0)) → s'.byte a = s.byte a)

namespace Sys2Proof.Machine

/-- `t` issues to the matrix engine: no window is open, no register pending, it is at home, part of no loop, and none of its
matrix instructions is at the engine (14 R341). -/
structure AtEngine (s : State) (t : Thread) : Prop extends Issuing s t where
  windows : t.windows = []
  pend : t.pend = []
  loop : t.loop = none
  home : s.away t = false
  alone : ∀ m ∈ s.matq, m.thr = t.uid → m.matrix = false

/-- The frame descriptor of 32 bytes that a register names in a segment is read without a fault, and it is valid (04 R107, R108); `s'` is
the state after the read. -/
def FrameAt (s : State) (t : Thread) (seg : BitVec 3) (r : R5) (ws : List Word) (f : Frame) (s' : State) : Prop :=
  ∃ p bs, Reaches s t seg (t.gr r).toInt 32 32 needRD false (fun _ => false) true p ∧ Snapshot s p 32 bs s' ∧
    ws = recWords bs 4 ∧ frameOf ws = some f

/-- An origin register whose reserved bits are zero, of an operand of the frame's format (14 R345). -/
def OriginOk (o : Word) (f : Frame) (fmt : Nat) : Prop := o.extractLsb' 40 24 = 0 ∧ nfmt? fmt = some f.fmt

/-- O0 and O1 of an origin register. -/
def ruleOrg (o : Word) : Nat × Nat := ((o.extractLsb' 0 20).toNat, (o.extractLsb' 20 20).toNat)

/-- A row of AB units passes the checks of 14 R345, and no flume stage stands in the way. -/
def AbGood (s : State) (t : Thread) (store : Bool) (n : Nat) (l : List (Int × Nat)) : Prop :=
  s.rowSplit l = false ∧ ∀ u ∈ l, ∃ a, s.abOne u.1 u.2 store = .ok a ∧ (s.vcore t.vu).stageAt t.spt a.addr n = none

/-- The window of an instruction of the matrix or the attention engine that has just issued. -/
def engineWindow (t : Thread) (look : BitVec 4) (matrix : Bool) : Window :=
  { wid := t.seq + 1, rem := look.toNat, pc := t.pc, res := .wait (if matrix then .matrix else .attn) }

/-- An instruction of `len` bytes stands in its core's queue, and its window is open; nothing has moved yet (14 R341, R342). -/
def Enqueued (s s' : State) (t : Thread) (i : Instr) (look : BitVec 4) (len : Nat) (m : MatQ) : Prop :=
  s'.matq = s.matq ++ [m] ∧ m.i = i ∧ m.thr = t.uid ∧ m.vu = t.vu ∧ m.core = t.core ∧ m.prio = t.mpri.toNat ∧ m.pc = t.pc ∧
  m.wid = some (t.seq + 1) ∧ m.performed = false ∧ s'.mem = s.mem ∧ s'.empty = s.empty ∧ s'.vcores = s.vcores ∧
  s'.me.pc = t.pc + BitVec.ofNat 64 len ∧ s'.me.windows = [engineWindow t look m.matrix]

end Sys2Proof.Machine

/-- 14 R341, R345 to R356: WLD, MMA (its A operand in AB or a runnel's element, or one whose page is not there, which it takes later),
MSACC, MST and MLDA whose operands pass their checks
enter the queue of the thread's core with a window each, and the thread goes on; the engine works on them later.
14 R357, R359: MSTQ, plain and with the KV epilogue, whose operands pass their checks at issue enters the queue.
14 R341, R355, 15 R372: MZERO of a tile that the vcore has enters the queue and parks its thread behind itself; MPRI sets the
thread's priority; ATEDRAIN discards the capture sets that it names and counts their blocks; ATBOUND gives the last β. -/
def Obligations.MatrixCommandsAreQueued : Prop :=
  (∀ (s : State) (t : Thread), AtEngine s t →
    let k := s.task t.task
    (∀ (x : WldA) (ws : List Word) (f : Frame) (s1 : State), x.tile.toNat < k.nwb → FrameAt s t x.seg x.f ws f s1 →
      OriginOk (t.gr x.d) f x.wf.toNat → s.bReady x.b →
      (∀ e ∈ wldOffs f (ruleOrg (t.gr x.d)) ((t.gr x.a).toInt + (s.bValue x.b).toInt),
        ∃ a, s1.unit x.seg e 1 1 (needRD + needEN) false = .ok a ∧
          (a.space = 1 → (s1.vcore t.vu).stageAt t.spt a.addr 1 = none)) →
      ∃ s' m, exec (.wld x) s = .next s' ∧ Enqueued s s' t (.wld x) x.look (bLenX x.b) m ∧ m.frame = ws) ∧
    (∀ (x : MmaA) (ws : List Word) (f : Frame) (s1 : State), x.pt.toNat < k.npt → x.tile.toNat < k.nwb →
      FrameAt s t x.fseg x.f ws f s1 →
      OriginOk (t.gr x.d) f (if x.i8 then 2 else 1) →
      (x.run = 0 → s.bReady x.b →
        let base := (t.gr x.a).toInt + (s.bValue x.b).toInt
        base % 128 = 0 → (∀ l ∈ mmaRows f (ruleOrg (t.gr x.d)) base (x.rm1.toNat + 1), AbGood s1 t false 1 l) →
        ∃ s' m, exec (.mma x) s = .next s' ∧ Enqueued s s' t (.mma x) x.look (bLenX x.b) m ∧ m.frame = ws ∧ m.elem = none) ∧
      (x.run ≠ 0 → x.rm1.toNat ≤ 1 → ∀ (y : Runnel) (a : SegA), t.runnel x.run.toNat = some y → y.write = false →
        y.taken < y.len → s1.elemAt s1.me y y.taken = .ok a → y.fresh = false →
        (∀ ps z rest, y.ahead = z :: rest → s1.elemPlaces s1.me y a = .inr ps → s1.elemFresh ps z.moment = true → z.bad = none →
          ∃ s' m, exec (.mma x) s = .next s' ∧ Enqueued s s' t (.mma x) x.look (bLenX x.b) m ∧ m.frame = ws ∧ m.elem = some z.x ∧
            m.replay = false ∧ ∃ y', s'.me.runnel x.run.toNat = some y' ∧ y'.taken = y.taken + 1 ∧ y'.ahead = rest) ∧
        (∀ w, y.ahead = [] → y.wait = some w → w.failed = false →
          ∃ s' m, exec (.mma x) s = .next s' ∧ Enqueued s s' t (.mma x) x.look (bLenX x.b) m ∧ m.frame = ws ∧ m.replay = true ∧
            m.check = some (y, y.taken) ∧ m.page = some w ∧ ∃ y', s'.me.runnel x.run.toNat = some y' ∧ y'.taken = y.taken + 1))) ∧
    (∀ (x : MsaccA), x.acc.toNat < k.nacc → x.pt.toNat < k.npt → s.bReady x.b → (t.gr x.a).toInt % 4 = 0 →
      (∀ r ≤ x.rm1.toNat, AbGood s t false 4 [((t.gr x.a).toInt + 4 * r, 4)]) →
      x.arow.toNat + x.rm1.toNat + 1 ≤ 128 → x.prow.toNat + x.rm1.toNat + 1 ≤ 32 →
      ∃ s' m, exec (.msacc x) s = .next s' ∧ Enqueued s s' t (.msacc x) x.look (bLenX x.b) m ∧ m.x = s.bValue x.b) ∧
    (∀ (x : MstA) (i : Instr) (store : Bool), (i, store) ∈ [(Instr.mst x, true), (.mlda x, false)] → x.acc.toNat < k.nacc →
      s.bReady x.b →
      let base := (t.gr x.a).toInt + (s.bValue x.b).toInt
      let row := if x.bf then 256 else 512
      let stride := if x.rstr = 0 then row else 64 * x.rstr.toNat
      base % 64 = 0 → (∀ r ≤ x.rm1.toNat, AbGood s t store 8 ((List.range (row / 8)).map fun q => (base + (stride * r + 8 * q : Nat), 8))) →
      x.arow.toNat + x.rm1.toNat + 1 ≤ 128 →
      ∃ s' m, exec i s = .next s' ∧ Enqueued s s' t i x.look (bLenX x.b) m)) ∧
  (∀ (s : State) (t : Thread), AtEngine s t →
    let k := s.task t.task
    (∀ (x : MstqA) (ws : List Word) (f : Frame) (s1 : State), x.acc.toNat < k.nacc → FrameAt s t x.fseg x.f ws f s1 →
      OriginOk (t.gr x.d) f x.qf.toNat → s.bReady x.b → (t.gr x.s).toInt % 4 = 0 →
      x.arow.toNat + x.rm1.toNat + 1 ≤ 128 → ¬(f.fmt = .int4 ∧ (ruleOrg (t.gr x.d)).1 % 2 = 1) →
      (∀ r ≤ x.rm1.toNat, AbGood s1 t x.derive 4 [((t.gr x.s).toInt + 4 * r, 4)]) →
      (∀ l ∈ mmaRows f (ruleOrg (t.gr x.d)) ((t.gr x.a).toInt + (s.bValue x.b).toInt) (x.rm1.toNat + 1), AbGood s1 t true 1 l) →
      ∃ s' m, exec (.mstq x) s = .next s' ∧ Enqueued s s' t (.mstq x) x.look (bLenX x.b) m ∧ m.frame = ws) ∧
    (∀ (x : KvA) (p : Place) (d : SegA) (bs : List Byte) (s1 : State), x.acc.toNat < k.nacc → x.arow.toNat + x.rm1.toNat + 1 ≤ 128 →
      s.unit x.fseg (t.gr x.r).toInt 32 32 needRD false = .ok d → (d.space = 1 → (s.vcore t.vu).stageAt t.spt d.addr 32 = none) →
      s.trans d false true 0 = .ok p → Snapshot s p 32 bs s1 →
      (x.val = false → s.bReady x.b ∧ ((t.gr x.a).toInt + (s.bValue x.b).toInt) % 64 = 0 ∧
        AbGood s1 t false 256 [((t.gr x.a).toInt + (s.bValue x.b).toInt, 256)]) →
      ∃ s' m, exec (.mstqKv x) s = .next s' ∧ Enqueued s s' t (.mstqKv x) x.look (bLenX x.b) m ∧
        m.frame = recWords bs 4 ∧
        m.x = if x.stg then t.gr x.d else 0)) ∧
  (∀ (s : State) (t : Thread), AtEngine s t →
    (∀ n : BitVec 2, n.toNat % 2 < (if n.toNat < 2 then (s.task t.task).nacc else (s.task t.task).npt) →
      ∃ s' m, exec (.mzero n) s = .next s' ∧ s'.matq = s.matq ++ [m] ∧ m.i = .mzero n ∧ m.thr = t.uid ∧ m.wid = none ∧
        s'.me.park = some .matrix ∧ s'.me.pc = t.pc + 4 ∧ s'.mem = s.mem ∧ s'.vcores = s.vcores) ∧
    (∀ n, exec (.mpri n) s = .next (s.wentOn 4 fun u => { u with mpri := n })) ∧
    ((∀ m ∈ s.matq, m.thr ≠ t.uid) →
      (∀ look d (mask : BitVec 2), ∃ s' : State, s'.mem = s.mem ∧
        (∀ i : Fin 2, s'.me.caps[i] = if mask.getLsbD i.val then none else t.caps[i]) ∧
        exec (.atedrain look d mask) s = .next ((s'.wentOn 12).upd fun u => u.opened look.toNat t.pc (.regs [.g d (BitVec.ofNat 64
          ((List.range 2).map fun i => if mask.getLsbD i then
            ((t.caps.toList.getD i none).map fun c => c.blocks.length).getD 0 else 0).sum)]))) ∧
      ∀ look d, exec (.atbound look d) s = .next ((s.wentOn 12).upd fun u => u.opened look.toNat t.pc
        (.regs [.g d ((t.lastbeta.getD 0).setWidth 64)]))))

/-- 15 R366 to R370: GATHB adds the blocks that its lanes name to the capture set and gives code 0 with the number captured, or
answers BADCTX (3) and captures nothing; ATTN whose descriptor and places pass their checks enters the queue. -/
def Obligations.CapturesAndAttention : Prop :=
  ∀ (s : State) (t : Thread), Calm s t → s.away t = false → (∀ m ∈ s.matq, m.thr ≠ t.uid) →
    (∀ (x : GathbA) (p : Place), s.bReady x.b →
      Reaches (s.afterB x.b) t x.seg ((t.gr x.a).toInt + (s.bValue x.b).toInt) 16 16 needRD false (fun _ => false) true p →
      ∀ bs s1, Snapshot (s.afterB x.b) p 16 bs s1 →
      let ws := recWords bs 2
      let d0 := ws.getD 0 0
      let d1 := ws.getD 1 0
      let old := if x.cs then t.caps[1] else t.caps[0]
      let n := (old.map fun c => c.blocks.length).getD 0
      let lanes := ((List.range 32).filter fun k => (t.pr x.pg).getLsbD (8 * k)).map fun k =>
        (k, (t.v[x.vi.toNat]'x.vi.isLt).extractLsb' (64 * k) 64)
      d1.extractLsb' 60 4 = 0 → d0.extractLsb' 0 9 = 0 →
      (s.ctxFor (s.fnOf t) (d0.extractLsb' 52 12).toNat = none → ∃ s' : State, s'.mem = s.mem ∧ s'.me.caps = t.caps ∧
        exec (.gathb x) s = .next ((s'.wentOn (bLenX x.b)).upd fun u => u.opened x.look.toNat t.pc
          (.regs [.g x.d (BitVec.ofNat 64 (n % 2 ^ 32 * 2 ^ 32 + 3))]))) ∧
      (∀ c l, s.ctxFor (s.fnOf t) (d0.extractLsb' 52 12).toNat = some c →
        s1.gather s1.view c (d1.extractLsb' 52 8).toNat (d0.extractLsb' 0 52).toNat (d1.extractLsb' 0 52).toNat lanes = .ok (.inr l) →
        n + l.length ≤ 4096 → s.vcoreBlocks t.vu + l.length ≤ 8192 → (old = none → s.engineSets (t.core / 16) < 64) →
        (∀ o, old = some o → o.ctx = c.h ∧ o.layer = (d1.extractLsb' 52 8).toNat) →
        ∃ (s' : State) (set : CapSet), s'.mem = s.mem ∧ s'.ctxs = s.ctxs ∧
          (if x.cs then s'.me.caps[1] else s'.me.caps[0]) = some set ∧ set.ctx = c.h ∧
          set.layer = (d1.extractLsb' 52 8).toNat ∧ set.blocks = ((old.map (·.blocks)).getD []) ++ l ∧
          exec (.gathb x) s = .next ((s'.wentOn (bLenX x.b)).upd fun u => u.opened x.look.toNat t.pc
            (.regs [.g x.d (BitVec.ofNat 64 ((n + l.length) * 2 ^ 32))])))) ∧
    (∀ (x : AttnA) (p : Place), s.bReady x.x.b →
      Reaches (s.afterB x.x.b) t x.x.seg ((t.gr x.x.a).toInt + (s.bValue x.x.b).toInt) 64 64 needRD false (fun _ => false) true p →
      ∀ bs s1, Snapshot (s.afterB x.x.b) p 64 bs s1 →
      let ws := recWords bs 8
      atBad ws = none → ¬(atMode ws = 2 ∧ x.cs = true) →
      ∀ (rt : List Word) (s2 : State), (atRec ws = false → rt = [] ∧ s2 = s1) →
      (atRec ws = true → ∃ q bs', Reaches s1 t x.x.seg (atRtd ws) 16 16 needRD false (fun _ => false) true q ∧
        Snapshot s1 q 16 bs' s2 ∧ rt = recWords bs' 2 ∧ (rt.getD 1 0).extractLsb' 60 4 = 0 ∧ (rt.getD 0 0).extractLsb' 0 9 = 0) →
      ∀ l o, (match (if atMode ws = 2 then (s.ctxFor (s.fnOf t) (atCtx ws)).map Ctx.d
          else (if x.cs then t.caps[1] else t.caps[0]).map fun c => 2 ^ c.hdlg) with
        | some d => attnPlaces ws d s2 = .ok (l, o) s2
        | none => l = [] ∧ o = []) →
      ∃ s' m, exec (.attn x) s = .next s' ∧ Enqueued s s' t (.attn x) x.x.look (bLenX x.x.b) m ∧ m.frame = ws ++ rt ∧
        m.a = l.map Prod.snd ∧ m.b = o.map Prod.snd)

/-- 04 R120: where a code of its row or column is a NaN, even against a factor of zero, a block product holds the NaN marker; elsewhere it
is the exact sum over the 128 pairs (04 R119), which for codes of the pairs of formats that there are stays below 2^59 in magnitude, so
that no sum is the marker. -/
def Obligations.BlockProductsAreExact : Prop :=
  ∀ (sh : Nat) (a : List (Option Int)) (w : List (List (Option Int))), a.length = 128 → w.length = 128 →
    (∀ r ∈ w, r.length = 128) → ∀ c, c < 128 →
    let nan : Prop := ∃ k, k < 128 ∧ (a.getD k none = none ∨ (w.getD k []).getD c none = none)
    let sum : Int := ((List.range 128).map fun k => (a.getD k none).getD 0 * ((w.getD k []).getD c none).getD 0).sum * 2 ^ sh
    (nan → (blockProduct sh a w).getD c 0 = 0x8000000000000000) ∧
    (¬nan → (blockProduct sh a w).getD c 0 = BitVec.ofInt 64 sum) ∧
    ∀ fa fw : NFmt, fa ≠ .int4 → sh = (fa.step + fw.step - unitLog fa fw).toNat →
      (∀ x ∈ a, x = some 0 ∨ ∃ code k, code < 256 ∧ k < 128 ∧ x = stepVal fa code k) →
      (∀ r ∈ w, ∀ x ∈ r, x = some 0 ∨ ∃ code k, code < 2 ^ fw.bits ∧ k < 128 ∧ x = stepVal fw code k) →
      ¬nan → ((blockProduct sh a w).getD c 0).toInt = sum ∧ -2 ^ 59 < sum ∧ sum < 2 ^ 59

namespace Sys2Proof.Machine

/-- `n` doublewords at an offset of a segment are read at issue without a fault (01 R476); `s'` is the state after the read. -/
def WordsAt (s : State) (t : Thread) (seg : BitVec 3) (e : Int) (n align : Nat) (ws : List Word) (s' : State) : Prop :=
  ∃ p bs, Reaches s t seg e (8 * n) align needRD false (fun _ => false) true p ∧ Snapshot s p (8 * n) bs s' ∧ ws = recWords bs n

/-- 15 R373 to R376: the edit instructions with their fields, and the edit that a slot word and a token ask for. -/
def ruleEdit : Instr → Option (EditA × (Word → Bool) × (Word → BitVec 32 → EditOp))
  | .edins x => some (x, fun b => b.extractLsb' 38 26 == 0 && (!b.getLsbD 20 || b.extractLsb' 0 20 == 0), fun b t =>
      .ins (b.getLsbD 20) (b.extractLsb' 0 20).toNat (if b.getLsbD 37 then some (b.extractLsb' 21 16).toNat else none) t)
  | .eddel x => some (x, fun b => b.extractLsb' 20 44 == 0, fun b _ => .del (b.extractLsb' 0 20).toNat)
  | .edsub x => some (x, fun b => b.extractLsb' 20 44 == 0, fun b t => .sub (b.extractLsb' 0 20).toNat t)
  | _ => none

/-- The state after an edit of a context was sent to its arbiter: its window waits, and it stands last among the context's. -/
def EditSent (s : State) (t : Thread) (look : BitVec 4) (len : Nat) (d : R5) (h : Nat) (e : EditOp) : State :=
  ((s.synced.newEpoch.wentOn len).upd fun u => u.opened look.toNat t.pc (.wait .edit) true true).setCtx h fun c =>
    { c with edits := c.edits ++ [⟨t.uid, t.seq + 1, d, e, t.relClock t false⟩] }

end Sys2Proof.Machine

/-- 15 R373 to R376: EDINS, EDDEL, EDSUB and REPACK of a context of the function go to its arbiter with a window each; of a handle
that names none they give BADCTX (3).
05 R135 to R138, 15 R374: the arbiter takes the first edit of a context. A deletion or a substitution of an occupied slot gets the
number A + 1, takes the slot out or changes its token, and leaves the entry of its silt block at layer 0 DIRTY (or, PENDING, marked
so); the edit of a slot that is not occupied gives code 9 and leaves A. -/
def Obligations.EditsAndArbitration : Prop :=
  (∀ (s : State) (t : Thread), Calm s t → t.touched = 0 →
    (∀ i x ok e, ruleEdit i = some (x, ok, e) → s.bReady x.b → (t.gr x.a).toNat < 4096 → ok (s.bValue x.b) = true →
      let h := (t.gr x.a).toNat
      (∀ c, s.ctx? h = some c → c.fn = s.fnOf t → exec i s = .next (EditSent (s.afterB x.b) t x.look (bLenX x.b) x.d h
        (e (s.bValue x.b) ((t.gr x.t).setWidth 32)))) ∧
      ((∀ c, s.ctx? h = some c → c.fn ≠ s.fnOf t) → exec i s = .next (((s.afterB x.b).wentOn (bLenX x.b)).upd fun u =>
        u.opened x.look.toNat t.pc (.regs [.g x.d 3])))) ∧
    (∀ look d a,
      let h := (t.gr a).toNat
      (∀ c, s.ctx? h = some c → c.fn = s.fnOf t → exec (.repack look d a) s = .next (EditSent s t look 12 d h .repack)) ∧
      ((∀ c, s.ctx? h = some c → c.fn ≠ s.fnOf t) → exec (.repack look d a) s = .next ((s.wentOn 12).upd fun u =>
        u.opened look.toNat t.pc (.regs [.g d 3]))))) ∧
  (∀ (s : State) (c : Ctx) (r : EditReq) (rest : List EditReq), s.ctx? s.op.ctx = some c → c.edits = r :: rest →
    c.editReady = true → c.releasing = none → c.a < 2 ^ 32 - 1 →
    ∃ (s' : State) (c' : Ctx), exec .editArbitration s = .next s' ∧ s'.ctx? s.op.ctx = some c' ∧ c'.edits = rest ∧
      (∀ slot f, (r.e = .del slot ∧ f = (fun l => l.filter fun x => x.slot != slot)) ∨
          (∃ tok, r.e = .sub slot tok ∧
            f = fun l => l.map fun x : SlotRec => if x.slot = slot then { x with token := tok } else x) →
        (c.occ slot ≠ none → c'.a = c.a + 1 ∧ c'.slots = f c.slots ∧
          ((c'.entry 0 (slot / 2 ^ c.siltlg)).state = 2 ∨
            (3 ≤ (c'.entry 0 (slot / 2 ^ c.siltlg)).state ∧ 2 ≤ (c'.entry 0 (slot / 2 ^ c.siltlg)).remark)) ∧
          (∀ u ∈ s'.threads, u.uid = r.thr → ∀ w ∈ u.windows, w.wid = r.wid →
            w.res = .regs [.g r.d (BitVec.ofNat 64 ((c.a + 1) * 2 ^ 32 + slot * 2 ^ 12))])) ∧
        (c.occ slot = none → c'.a = c.a ∧ c'.slots = c.slots ∧
          ∀ u ∈ s'.threads, u.uid = r.thr → ∀ w ∈ u.windows, w.wid = r.wid → w.res = .regs [.g r.d 9])))

/-- 15 R377, R380: SETTLE answers when its edit is numbered and nothing is outstanding for it, and waits otherwise; SILT gives the two
doublewords of an entry. -/
def Obligations.SettleAndSilt : Prop :=
  ∀ (s : State) (t : Thread) (x : LongAlu), Calm s t → s.bReady x.b →
    let h := (t.gr x.a).toNat
    let s1 := s.afterB x.b
    let b := s.bValue x.b
    (b.extractLsb' 32 32 = 0 →
      ((∀ c, s.ctx? h = some c → c.fn ≠ s.fnOf t) → exec (.settle x) s = .next ((s1.wentOn (bLenX x.b)).upd fun u =>
        u.opened x.look.toNat t.pc (.regs [.g x.d (BitVec.ofNat 64 (b.toNat * 2 ^ 32 + 3))]) true true)) ∧
      (∀ c, s.ctx? h = some c → c.fn = s.fnOf t → c.releasing = none → 0 < b.toNat →
        (b.toNat ≤ c.a → (∀ e ∈ c.silt, e.state ≠ 0 → b.toNat ≤ e.stamp) → ∃ s' : State, s'.bare = s.bare ∧
          exec (.settle x) s = .next ((s'.wentOn (bLenX x.b)).upd fun u =>
            u.opened x.look.toNat t.pc (.regs [.g x.d (BitVec.ofNat 64 (b.toNat * 2 ^ 32))]) true true)) ∧
        ((c.a < b.toNat ∨ ∃ e ∈ c.silt, e.state ≠ 0 ∧ e.stamp < b.toNat) → ∃ (s' : State) (sh : Shadow), s'.bare = s.bare ∧
          exec (.settle x) s = .next ((s'.wentOn (bLenX x.b)).upd fun u =>
            u.opened x.look.toNat t.pc (.wait (.defer (.settle h b.toNat) (.settle x) sh)) true true)))) ∧
    (b.extractLsb' 28 36 = 0 → ∀ c, s.ctx? h = some c → c.fn = s.fnOf t →
      let l := (b.extractLsb' 20 8).toNat
      let k := (b.extractLsb' 0 20).toNat
      l ≤ c.nlm1 → k < c.nsb →
      let e := c.entry l k
      exec (.silt x) s = .next ((s1.wentOn (bLenX x.b)).upd fun u => u.opened x.look.toNat t.pc (.regs
        [.g x.d (BitVec.ofNat 64 (e.first * 2 ^ 32 + e.stamp)),
         .g (x.d + 1) (BitVec.ofNat 64 (e.pfirst * 2 ^ 32 + e.force.toNat * 16 + e.remark * 4 + e.state))])))

/-- 15 R378, R379: CTXRD.now copies the current version of a block of a layer to its destination and gives code 0 with the entry's
state and stamp; CTXRD.at does so when the entry has reached edit N and its version is not younger.
15 R381 to R383, 05 R127, R157: CTXREG of a good block makes a context with no edit, block or slot under a free handle; CTXREG.rel
begins the release of one, whose SUSPECT and DIRTY entries become VALID. -/
def Obligations.ContextAccess : Prop :=
  (∀ (s s2 s3 : State) (t : Thread) (x : CtxrdA) (at_ : Bool) (rb td : List Word) (c : Ctx) (r : KRec) (n : Nat) (bs : List Byte)
    (dest : List SegA) (ps : List Place), Calm s t → s.bReady x.x.b →
    let s1 := s.afterB x.x.b
    let l := rbLayer (rb ++ td)
    let b := rbBlk rb
    let e := c.entry l b
    WordsAt s1 t x.x.seg ((t.gr x.x.a).toInt + (s.bValue x.x.b).toInt) 4 32 rb s2 →
    WordsAt s2 t x.x.seg ((rb.getD 1 0).extractLsb' 0 52).toNat 2 16 td s3 → tdBad td = false →
    s3.ctxrdFind (rb ++ td) = .ok (.inr (c, r, n)) → destR x.x.seg (rbDest rb) n s3 = .ok dest s3 →
    (at_ = true → rbN rb ≤ c.effStamp l b ∧ e.first ≤ rbN rb) →
    s3.versionBytes s3.view c (rb ++ td) r (r.cur c.siltlg b) = .ok bs →
    vxAll (fun a : SegA => match a.space with
      | 1 => .ok ({ space := 1, addr := a.addr, loc := abBase t.vu + a.addr, slice := none } : Place)
      | 2 => .ok ({ space := 2, addr := a.addr, loc := cistBase a.slice + a.addr, slice := some a.slice } : Place)
      | _ => s3.vaAt s3.view a.addr true) dest = .ok ps →
    (∀ p ∈ ps, p.straight ∧ p.addr % 64 = 0) →
    (∀ j k u v, j < ps.length → k < ps.length → u < 64 → v < 64 →
      s.chan ((ps.map (·.loc)).getD j 0 + u) = s.chan ((ps.map (·.loc)).getD k 0 + v) → j = k ∧ u = v) → Memory.wf s.mem = true →
    ∃ s' : State, s'.tick = s.tick ∧
      exec (if at_ then .ctxrdAt x else .ctxrdNow x) s = .next ((s'.wentOn (bLenX x.x.b)).upd fun u =>
        u.opened x.x.look.toNat t.pc (.regs (ctxrdRegs x
          (BitVec.ofNat 64 (c.effStamp l b * 2 ^ 32 + e.state * 256)) (BitVec.ofNat 64 e.first) s)) at_ at_) ∧
      ∀ k, k < bs.length → k < 64 * ps.length → s'.byte ((ps.map (·.loc)).getD (k / 64) 0 + k % 64) = bs.getD k 0) ∧
  (∀ (s : State) (t : Thread), Calm s t →
    (∀ (x : XCmd) (s2 s3 : State) (r m lay : List Word) (p : Place) (h : Nat), s.bReady x.b →
      let s1 := s.afterB x.b
      let nl := ((m.getD 0 0).extractLsb' 0 8).toNat + 1
      WordsAt s1 t x.seg ((t.gr x.a).toInt + (s.bValue x.b).toInt) 4 32 r s2 → regBad r = false →
      WordsAt s2 t x.seg ((r.getD 0 0).extractLsb' 0 52).toNat 8 16 m s3 → modelBad m = false →
      s3.vaWords s3.view (m.getD 3 0).toNat (2 * nl) = .ok lay → s3.vaAt s3.view (m.getD 4 0).toNat false = .ok p →
      (∀ i, i < nl → layerBad (lay.getD (2 * i) 0) (lay.getD (2 * i + 1) 0) = false) →
      s.freeHandle = some h →
      ∃ (s' : State) (c : Ctx), s'.mem = s.mem ∧ s'.ctxs = s.ctxs ++ [c] ∧
        exec (.ctxreg x) s = .next ((s'.wentOn (bLenX x.b)).upd fun u => u.opened x.look.toNat t.pc
          (.regs [.g x.d (BitVec.ofNat 64 (h % 2 ^ 32 * 2 ^ 32))])) ∧
        c.h = h ∧ c.fn = s.fnOf t ∧ c.a = 0 ∧ c.blocks = [] ∧ c.slots = [] ∧ c.silt = [] ∧ c.edits = [] ∧ c.releasing = none ∧
        c.nlm1 + 1 = nl ∧ c.siltlg = ((m.getD 0 0).extractLsb' 16 3).toNat ∧ c.shift = (m.getD 0 0).getLsbD 19 ∧
        c.det = (m.getD 0 0).getLsbD 23 ∧ c.seed = (m.getD 2 0).toNat) ∧
    (∀ look d a c, s.ctx? (t.gr a).toNat = some c → c.fn = s.fnOf t → c.releasing = none →
      ∃ (s' : State) (c' : Ctx), exec (.ctxregRel look d a) s = .next s' ∧ s'.mem = s.mem ∧
        s'.ctx? (t.gr a).toNat = some c' ∧ c'.releasing = some (t.uid, t.seq + 1) ∧ (∀ e ∈ c'.silt, e.state ≠ 1 ∧ e.state ≠ 2) ∧
        s'.me.pc = t.pc + 12 ∧ s'.me.windows = [{ wid := t.seq + 1, rem := look.toNat, pc := t.pc, res := .wait (.release d) }]))

namespace Sys2Proof.Machine

/-- The thread is the PENDING work item of an entry of a context that is not being released, and its table entry is good: what
COMMITB and PROBE act on (05 R145, 15 R384). -/
def ItemAt (s : State) (t : Thread) (it : Item) (c : Ctx) (e : Silt) (d : Disp) : Prop :=
  t.item = some it ∧ it.committed = false ∧ s.ctx? it.ctx = some c ∧ c.fn = s.fnOf t ∧
  c.entry it.layer it.block = e ∧ e.state = 3 ∧ e.disp = some d ∧ d.thr = some t.uid

end Sys2Proof.Machine

/-- 05 R141, R145 to R150, 15 R384, R385: COMMITB.skip of an item whose probe is at most τ commits without a write; COMMITB commits, and
writes where it is forced or the difference exceeds τ, which makes the dispatch's edit the version's first and marks the layer above;
PROBE gives B and leaves it with the item: +∞ where the entry was DIRTY or forced, 0 at layer 0, the bound of R146 elsewhere. -/
def Obligations.CommitsAndProbe : Prop :=
  ∀ (s : State) (t : Thread) (x : CommitA) (it : Item) (c : Ctx) (e : Silt) (d : Disp), Calm s t → t.touched = 0 →
    s.bReady x.x.b → (t.gr x.gx).toNat < 2 ^ 16 → ItemAt s t it c e d →
    let s1 := s.afterB x.x.b
    let e0 : Int := (t.gr x.x.a).toInt + (s.bValue x.x.b).toInt
    let gx := (t.gr x.gx).toNat
    let won (i : Instr) (s' : State) (lo hi : Nat) : Prop := exec i s = .next ((s'.wentOn (bLenX x.x.b)).upd fun u =>
      u.opened x.x.look.toNat t.pc (.regs [.g x.x.d (BitVec.ofNat 64 (hi % 2 ^ 32 * 2 ^ 32 + lo * 256))]))
    (∀ s2 td w r, WordsAt s1 t x.x.seg e0 2 16 td s2 → tdBad td = false → c.releasing = none →
      (∀ m ∈ s.matq, m.thr ≠ t.uid) → s.drainWaits t.vu .ab s.order = false → s.drainWaits t.vu .mem s.order = false →
      s2.tableEntry s2.view c td gx it.layer (some (c.blkOf it.block)) = .ok (.inr (w, r)) →
      let cur := r.cur c.siltlg it.block
      let slots := (d.slots.map (·.1)).filter (c.same d.stamp)
      let committed (s' : State) (write : Bool) : Prop := ∃ c', s'.ctx? it.ctx = some c' ∧
        s'.me.item = some { it with committed := true } ∧
        (let f := c'.entry it.layer it.block
         f.stamp = d.stamp ∧ f.state = e.remark ∧ f.disp = none ∧
         if write then f.first = d.stamp ∧ f.pfirst = e.first else f.first = e.first ∧ f.pfirst = e.pfirst)
      (∀ p : BitVec 32, it.probe = some p → (val32 (c.tau.getD it.layer 0).toNat).lt (val32 p.toNat) = false →
        ∃ s', won (.commitbSkip x) s' 0 p.toNat ∧
          (d.cleared = true ∨ s2.readersOf r.fn r.va (1 - cur) ≠ 0 → s'.mem = s.mem) ∧ committed s' false) ∧
      (∀ (dd : Fp) k, (∀ y ∈ slots, d.cleared = true ∧ r.stored (1 - cur) y = true) →
        let forced := d.force || slots.any fun y => !(r.stored cur y && (c.occ y).any fun z => z.holds it.layer false)
        (if forced then .ok (.inf false) else s2.commitDiff s2.view c r it.layer it.block cur slots) = .ok dd →
        s2.chunks s2.view r.va 192 true = .ok k → (d.cleared = true ∨ s2.readersOf r.fn r.va (1 - cur) = 0) →
        let write := forced || (val32 (c.tau.getD it.layer 0).toNat).lt dd
        ∃ s', won (.commitb x) s' write.toNat (f32.enc .rup false dd) ∧ committed s' write)) ∧
    (let b (y : Nat) : Prop := ∃ s', won (.probe x) s' 0 y ∧ s'.mem = s.mem ∧
        s'.me.item = some { it with probe := some (BitVec.ofNat 32 y) }
     (c.probeInf it e d = true → b 0x7F800000) ∧
     (c.probeInf it e d = false → it.layer = 0 → b 0) ∧
     (∀ s2 td w r rs y, c.probeInf it e d = false → it.layer ≠ 0 → WordsAt s1 t x.x.seg e0 4 16 td s2 →
        tdBad (td.take 2) = false → tdBad (td.drop 2) = false →
        s2.tableEntry s2.view c td gx it.layer (some (c.blkOf it.block)) = .ok (.inr (w, r)) →
        s2.upstreamRecs s2.view c (td.drop 2) (it.layer - 1) (c.blkOf it.block)
          (((td.getD 3 0).extractLsb' 0 52).toNat / 8 + 1) 0 = .ok (.inr rs) →
        s2.probeSum s2.view c it e r rs = .ok y → b y))

namespace Sys2Proof.Machine

/-- `t` is the current thread, with nothing outstanding; it may be a lane or hold a loop open. -/
structure Quiet (s : State) (t : Thread) : Prop where
  cur : s.cur = some t.uid
  thr : s.thread? t.uid = some t
  shadow : t.shadow = none
  windows : t.windows = []
  pend : t.pend = []
  verdicts : t.verdicts = []
  late : t.late = []
  runnels : t.runnels = []

/-- The forecast descriptor's checks (07 R188), with no append region named. -/
def FcGood (d0 d1 : Word) : Prop :=
  let n := (d0.extractLsb' 9 3).toNat
  let cr : List (BitVec 5) := [d0.extractLsb' 12 5, d0.extractLsb' 17 5, d0.extractLsb' 22 5, d0.extractLsb' 27 5]
  n ≤ 4 ∧ (∀ r ∈ cr.take n, r ≠ 0) ∧ (cr.take n).Nodup ∧ (∀ r ∈ cr.drop n, r = 0) ∧ d0.getLsbD 0 = false ∧ d0.getLsbD 1 = false ∧
  d1 = 0

end Sys2Proof.Machine

/-- 07 R187 to R194, 15 R387: FCST opens the loop and lane 0 goes on at the next instruction, with lanes that wait for their guesses;
FEND latches the guess and enters the body; FACC with gE other than 0 ends the loop, with gE = 0 it accepts the next lane where the guess
is the carries that it leaves, and starts the next round with them where no lane guessed so; FACC and FEND outside a loop raise the misuse
trap. -/
def Obligations.ForecastLoops : Prop :=
  ∀ (s : State) (t : Thread),
    (∀ (x : XCmd) (s2 : State) (ws : List Word), Calm s t → s.away t = false → s.bReady x.b →
      WordsAt (s.afterB x.b) t x.seg ((t.gr x.a).toInt + (s.bValue x.b).toInt) 2 16 ws s2 → FcGood (ws.getD 0 0) (ws.getD 1 0) →
      let d0 := ws.getD 0 0
      let pc := t.pc + w64 (bLenX x.b)
      ∃ (s' : State) (u : Thread) (l : Loop), exec (.fcst x) s = .next s' ∧ s'.me = u ∧ u.uid = t.uid ∧ u.loop = some l ∧
        s'.mem = s.mem ∧ u.pc = pc ∧ u.g = t.g ∧ u.p = t.p ∧
        (∀ i : Fin 32, u.v[i] = if t.vlive.getLsbD i.val then t.v[i] else 0) ∧ u.windows = [] ∧ u.pend = [] ∧
        l.bodyPc = pc ∧ l.guessPc = (d0.extractLsb' 32 32).setWidth 64 ∧ l.iter = 0 ∧
        l.carries = ([d0.extractLsb' 12 5, d0.extractLsb' 17 5, d0.extractLsb' 22 5, d0.extractLsb' 27 5].take
          (d0.extractLsb' 9 3).toNat) ∧
        l.lanes.length ≤ (d0.extractLsb' 6 3).toNat ∧ l.lanes.length ≤ (s.freeLogical t.vu).length ∧
        l.lanes.length ≤ (s.freePhysical t.vu).length ∧
        (∀ v ∈ s'.vcores, v.vu = t.vu → v.acc = [] ∧ v.pts = []) ∧
        ∀ j < l.lanes.length, ∃ y ∈ s'.threads, y.uid = l.lanes.getD j 0 ∧ y.slot = (s.freeLogical t.vu).getD j 0 ∧
          ∃ ln, y.lane = some ln ∧ ln.loopOf = t.uid ∧ ln.index = j + 1 ∧ ln.iter = j + 1 ∧ ln.accepted = false) ∧
    (∀ (look : BitVec 4) (y : Lane) (t0 : Thread) (l : Loop), Quiet s t → t.lane = some y → y.phase = .guess → y.accepted = false →
      s.thread? y.loopOf = some t0 → t0.loop = some l →
      ∃ s', exec (.fend look) s = .next s' ∧ s'.me.uid = t.uid ∧ s'.me.pc = l.bodyPc ∧ s'.mem = s.mem ∧
        s'.me.lane = some { y with phase := .body, guess := some (l.carries.map t.gr) } ∧
        ∀ r : Fin 32, s'.me.g[r] = if BitVec.ofNat 5 r.val ∈ l.carries then t.gr (BitVec.ofNat 5 r.val) else l.start.g[r]) ∧
    (∀ (look : BitVec 4) (a : R5) (l : Loop), Quiet s t → t.lane = none → t.loop = some l → l.displaced = none →
      (t.gr a ≠ 0 → ∃ s', exec (.facc look a) s = .next s' ∧ s'.me.uid = t.uid ∧ s'.me.loop = none ∧ s'.me.pc = t.pc + 12 ∧
        s'.me.g = t.g ∧ s'.me.p = t.p ∧ (∀ i : Fin 32, s'.me.v[i] = if t.vlive.getLsbD i.val then t.v[i] else 0) ∧
        (∀ v ∈ s'.vcores, v.vu = t.vu → v.acc = [] ∧ v.pts = []) ∧
        ∀ y ∈ s'.threads, y.uid ∈ l.lanes → y.lane = none) ∧
      (t.gr a = 0 → l.app = none →
        ((∀ x ∈ s.threads, ∀ y, x.lane = some y → y.loopOf = t.uid → y.index = 1 → y.guess ≠ some (l.carries.map t.gr)) →
          ∃ s' l', exec (.facc look a) s = .next s' ∧ s'.me.uid = t.uid ∧ s'.me.loop = some l' ∧ l'.iter = l.iter + 1 ∧
            s'.me.pc = l.bodyPc ∧ s'.me.park = none ∧
            ∀ r : Fin 32, s'.me.g[r] =
              if BitVec.ofNat 5 r.val ∈ l.carries then t.gr (BitVec.ofNat 5 r.val) else l.start.g[r]) ∧
        (∀ x, s.laneAt t.uid 1 = some x → s.thread? x.uid = some x → laneFits x (l.carries.map t.gr) = true →
          ∃ s' y ln, exec (.facc look a) s = .next s' ∧ s'.me.uid = t.uid ∧ s'.me.park = some .lane ∧
            s'.me.loop = some { l with done := true } ∧ s'.me.pc = t.pc + 12 ∧
            s'.thread? x.uid = some y ∧ y.lane = some ln ∧ ln.accepted = true ∧ ln.buf = []))) ∧
    (Calm s t → t.inh = false → ∀ look a, exec (.facc look a) s = .next (s.trapped 8 1) ∧
      exec (.fend look) s = .next (s.trapped 8 1))

namespace Sys2Proof.Machine

/-- 01 R39, R40: when the cause of a park no longer holds, of the causes after which the thread's instruction is issued again. -/
def ruleWake (s : State) (t : Thread) : Park → Prop
  | .windows => if ∃ w ∈ t.windows, w.rem = 0 then ∀ w ∈ t.windows, w.rem = 0 → w.waiting = false
      else ∀ w ∈ t.windows, w.waiting = false
  | .message => ∀ x, s.thread? t.agent = some x → x.msg = none
  | .page w => w.woken = true ∧ w.failed = false ∧ s.heldFirst t w = true
  | .fence need => need = 0
  | .verdicts => ∀ v ∈ t.verdicts, v.returned = true
  | .matrix => ∀ m ∈ s.matq, m.thr = t.uid → m.matrix = false
  | .queue cl => s.queued cl < 64
  | .engines => ∀ c ∈ s.cmds, c.thr = t.agent → c.st = .finished
  | .builder d => (s.die d).steps.length < 8
  | .accesses => ∀ w ∈ t.windows, w.unmade = false
  | .element r => s.elementHere t r = true
  | .posted d => s.posting d = false
  | _ => False

/-- 01 R35, R36: why a message is refused at its target. -/
def ruleRefusal (s : State) (m : Msg) : Option Nat :=
  if m.spawn = true ∧ (s.task (s.vcore m.fromVu).task).det = true then some 4 else
  match s.vcore? m.target with
  | none => some 3
  | some v =>
    if v.placed = false ∨ v.ended = true then some 3
    else if ∀ t ∈ s.threads, t.vu = m.target → t.halting = true then some 5
    else if m.spawn then (if s.childLogical m.target = [] ∨ s.freePhysical m.target = [] then some 1 else none)
    else if (s.task v.task).ringE ≤ v.ringUsed + 8 then some 2 else none

/-- The entry that was put last into a vcore's ring (01 R33, R34). -/
def RingGot (s s' : State) (vu : Nat) (v : Vcore) (ws : List Word) : Prop :=
  ∃ v', s'.vcore? vu = some v' ∧ v'.ringhd = v.ringhd + 1 ∧ v'.ringtl = v.ringtl ∧
    ∀ i < 8, s'.dword (abBase vu + (s.task v.task).ringoff + 64 * (v.ringhd.toNat % (s.task v.task).ringE) + 8 * i) = ws.getD i 0

/-- A byte of a SEALKEY payload, and the slot that it names (22 R457). -/
def ruleSealByte (r : SealReq) (i : Nat) : Nat := (r.payload.getD i 0).toNat
def ruleSealSlot (r : SealReq) : Nat := ruleSealByte r 2 + 256 * ruleSealByte r 3

/-- A SEALKEY request that 22 R457 does not call INVALID, for an operation. -/
def SealGood (r : SealReq) (op : Nat) : Prop :=
  ruleSealByte r 0 = 1 ∧ ruleSealByte r 1 = op ∧ r.payload.length = (if op = 1 then 72 else 8) ∧ 1 ≤ ruleSealSlot r ∧
  ruleSealSlot r ≤ 4095 ∧ (∀ i, 4 ≤ i → i < 8 → ruleSealByte r i = 0) ∧ r.secured = true

/-- The sites that round `n + 1` of the discovery of a die first reaches, with their parents (22 R460): enabled sites not yet reached, each
by the first neighbour in port order that round `n` reached. -/
def ruleReached (die : Nat) (d : Die) (n s p : Nat) : Prop :=
  s < 1024 ∧ Config.fused (die % 2) s = false ∧ d.site s = none ∧
  ([0, 1, 2, 3].filterMap (neighbour s)).find? (fun q => (d.site q).any fun x => x.hop == n) = some p

/-- The error of an image (22 R454, R459). -/
def ruleImageErr (svn : Nat) (i : FwImage) : Nat :=
  if i.sigOk = false ∨ 8 * 2 ^ 20 < i.length then 1 else if i.svn < svn then 2 else 0

end Sys2Proof.Machine

/-- 01 R13, R37 to R40, 02 R50, R51, R54, R72, R73, 03 R83, R87, R88, 12 R281, R287, R288, 21 R433: a parked thread whose cause is over is
ready again (STF, BAR, DRAIN and the read of a status register are performed then); a waiting instruction is performed when what it waits for has come and its window has
the result; contexts arrive with their live registers; verdicts and echoes return; a runnel's unit fetches and stores elements. -/
def Obligations.WakesAndArrivals : Prop :=
  ∀ (s : State) (t : Thread), s.thread? s.op.thr = some t →
    (∀ p, t.park = some p → s.wakeFirst t = true →
      (ruleWake s t p → exec .threadWake s = .next (s.updT t.uid fun u => { u with park := none })) ∧
      (∀ w, p = .page w → w.woken = true → w.failed = true → s.heldFirst t w = true →
        exec .threadWake s = .next (s.updT t.uid fun u => { u with park := none, failed := (w.die, w.page) :: u.failed })) ∧
      (∀ c k, p = .status c → s.cmd? c = some k → k.st = .finished →
        ∃ s' u, exec .threadWake s = .next s' ∧ s'.thread? t.uid = some u ∧ u.park = none ∧ u.pc = t.pc ∧ u.g = t.g ∧
          s'.mem = s.mem ∧ s'.cmd? c = some { k with folded := true }) ∧
      (∀ l i gen, p = .bar l i gen → gen < ((s.task t.task).barOf l i).gen →
        ∃ s' u, exec .threadWake s = .next s' ∧ s'.thread? t.uid = some u ∧ u.park = none ∧ u.pc = t.pc + 4 ∧
          u.icount = t.icount + 1 ∧ s'.mem = s.mem) ∧
      (∀ q n, p = .drain q n → s.drainWaits t.vu q n = false →
        ∃ s' u, exec .threadWake s = .next s' ∧ s'.thread? t.uid = some u ∧ u.park = none ∧ u.pc = t.pc + 4 ∧
          u.icount = t.icount + 1 ∧ s'.mem = s.mem) ∧
      (∀ q x n, p = .stf q x n → s.full q.loc = false → ({ s with cur := some t.uid } : State).firstAt (q.loc / 8) t.ticket false = true →
        (let s1 : State := { s.updT t.uid fun u => { u with park := none } with cur := some t.uid }
         s1.clashAfter (s1.wordRec q.loc).take q.loc q.slice true true = none) → Memory.wf s.mem = true →
        (∀ i j, i < 8 → j < 8 → s.chan (q.loc + i) = s.chan (q.loc + j) → i = j) →
        ∃ s' u, exec .threadWake s = .next s' ∧ s'.thread? t.uid = some u ∧ u.park = none ∧ u.pc = t.pc + w64 n ∧
          s'.dword q.loc = x ∧ ∀ a, (∀ i < 8, s.chan a ≠ s.chan (q.loc + i)) → s'.byte a = s.byte a)) ∧
    (∀ core home, t.park = some (.moving core home) → (∀ w ∈ t.windows, w.waiting = false) →
      (home = true ∨ s.freeSlots core ≠ []) →
      ∃ s' u, exec .migrationArrival s = .next s' ∧ s'.thread? t.uid = some u ∧ u.park = none ∧ u.core = core ∧
        u.pslot = (if home then t.home else (s.freeSlots core).headD 0) ∧ u.g = t.g ∧ u.sg = t.sg ∧ u.pc = t.pc ∧
        (∀ i : Fin 32, u.v[i] = if t.vlive.getLsbD i.val then t.v[i] else 0) ∧
        (∀ i : Fin 8, i.val ≠ 0 → u.p[i] = if t.vlive.getLsbD (31 + i.val) then t.p[i] else 0) ∧
        u.touched = t.touched ||| (1#128 <<< coreSlice t.core) ∧ s'.mem = s.mem) ∧
    (∀ before v after, t.verdicts = before ++ v :: after → (∀ x ∈ before, x.returned = true) → v.returned = false →
      ∃ s' u, exec .storeVerdict s = .next s' ∧ s'.thread? t.uid = some u ∧ s'.mem = s.mem ∧
        u.verdicts = before ++ { v with returned := true } :: after) ∧
    (∀ need, t.park = some (.fence need) → s.op.wid < 128 → need.getLsbD s.op.wid = true →
      ∃ s' u, exec .fenceEcho s = .next s' ∧ s'.thread? t.uid = some u ∧ s'.mem = s.mem ∧
        u.park = some (.fence (need &&& ~~~(1#128 <<< s.op.wid))) ∧ u.touched = t.touched &&& ~~~(1#128 <<< s.op.wid)) ∧
    (∀ w sh, t.windows.find? (fun w => w.wid == s.op.wid) = some w →
      (∀ h n x c, w.res = .wait (.defer (.settle h n) (.settle x) sh) → s.ctx? h = some c → c.fn = s.fnOf t → c.releasing = none →
        0 < n → n ≤ c.a → (∀ e ∈ c.silt, e.state ≠ 0 → n ≤ e.stamp) →
        ∃ s' u, exec .resultArrival s = .next s' ∧ s'.thread? t.uid = some u ∧ s'.mem = s.mem ∧ u.pc = t.pc ∧ u.g = t.g ∧
          u.windows.find? (fun w => w.wid == s.op.wid) = some { w with res := .regs [.g x.d (BitVec.ofNat 64 (n % 2 ^ 32 * 2 ^ 32))] }) ∧
      (∀ p i, w.res = .wait (.defer (.page p) i sh) → p.woken = true → p.failed = true → s.heldFirst t p = true →
        ∃ s' u, exec .resultArrival s = .next s' ∧ s'.thread? t.uid = some u ∧ s'.mem = s.mem ∧ u.pc = t.pc ∧ u.g = t.g ∧
          u.windows.find? (fun w => w.wid == s.op.wid) = some { w with res := .fault ⟨4, segTval 3 0, none⟩ })) ∧
    (∀ y a ps, t.runnel s.op.wid = some y →
      (y.write = false → y.ahead.length < 8 → y.taken + y.ahead.length < y.len → y.wait = none →
        s.elemAt t y (y.taken + y.ahead.length) = .ok a → s.elemPlaces t y a = .inr ps →
        ∃ s' u y', exec .runnelFill s = .next s' ∧ s'.thread? t.uid = some u ∧ s'.mem = s.mem ∧ u.runnel s.op.wid = some y' ∧
          y'.taken = y.taken ∧ y'.ahead = y.ahead ++ [⟨BitVec.ofNat 2048 (natOfBytes (ps.flatMap fun p => s.readP p 64)),
            s.elemPoison ps, s.tick⟩]) ∧
      (∀ e rest, y.pushed = e :: rest → y.wait = none → s.elemAt t y y.done = .ok a →
        s.elemPlaces t y a = .inr ps → (∀ p ∈ ps, p.straight ∧ p.addr % 64 = 0) →
        ({ s with cur := some t.uid } : State).pushTrap e ps = none → Memory.wf s.mem = true →
        (∀ j k u v, j < 4 → k < 4 → u < 64 → v < 64 →
          s.chan ((ps.map (·.loc)).getD j 0 + u) = s.chan ((ps.map (·.loc)).getD k 0 + v) → j = k ∧ u = v) →
        ∃ s' u y', exec .runnelDrain s = .next s' ∧ s'.thread? t.uid = some u ∧ u.runnel s.op.wid = some y' ∧ y'.pushed = rest ∧
          y'.done = y.done + 1 ∧ ∀ j < 4, ∀ k < 64, s'.byte ((ps.map (·.loc)).getD j 0 + k) = e.x.extractLsb' (8 * (64 * j + k)) 8))

/-- 01 R33 to R36: a message enters its target's ring and a spawn starts a child in the lowest free slot, or it comes back to its sender's
ring with the reason; either way its sender may send again. Only the way back waits, where a bounce to the sending slot stands in its
ring already (the model's choice, DESIGN CHOICE notes/assumptions/84). -/
def Obligations.MessagesArrive : Prop :=
  ∀ (s : State) (u : Nat) (m : Msg) (i : Instr), (i, m.spawn) ∈ [(Instr.messageArrival, false), (.spawnArrival, true)] →
    s.msgs.find? (fun x => x.1 == s.op.thr && x.2.spawn == m.spawn) = some (u, m) → Memory.wf s.mem = true →
    (ruleRefusal s m ≠ none → s.bounced m = true → exec i s = .fault .notEnabled) ∧
    ((ruleRefusal s m ≠ none → s.bounced m = false) → ∃ s', exec i s = .next s' ∧ (∀ x ∈ s'.msgs, x.1 ≠ u) ∧ (∀ x ∈ s'.threads, x.uid = u → x.uid < s.nextUid → x.msg = none) ∧
      (ruleRefusal s m = none → m.spawn = false → ∀ v, s.vcore? m.target = some v → RingGot s s' m.target v m.words) ∧
      (ruleRefusal s m = none → m.spawn = true → ∃ c, s'.threads.getLast? = some c ∧ s'.threads.length = s.threads.length + 1 ∧
        c.vu = m.target ∧ some c.slot = (s.childLogical m.target).head? ∧ some c.pslot = (s.freePhysical m.target).head? ∧
        c.child = true ∧ c.pc = m.words.getD 1 0 ∧ (∀ r, 1 ≤ r → r ≤ 6 → c.gr (BitVec.ofNat 5 r) = m.words.getD (r + 1) 0) ∧
        c.gr 7 = (m.words.getD 0 0) &&& 0x1FFF ∧ (∀ r, 8 ≤ r → r < 32 → c.gr (BitVec.ofNat 5 r) = 0) ∧ c.park = none) ∧
      (∀ r, ruleRefusal s m = some r → (m.words.getD 0 0).getLsbD 15 = false → m.words.length = 8 →
        ∀ v, s.vcore? m.fromVu = some v → ∃ h : Word, RingGot s s' m.fromVu v (h :: m.words.drop 1) ∧
          h.getLsbD 15 = true ∧ h.getLsbD 14 = (m.words.getD 0 0).getLsbD 14 ∧ (h.extractLsb' 16 4).toNat = r ∧
          h.extractLsb' 20 4 = (m.words.getD 0 0).extractLsb' 20 4 ∧ h.extractLsb' 0 13 = (m.words.getD 0 0).extractLsb' 0 13))

/-- 12 R301, R303 to R306, 19 R393 to R395: the culvert performs a COPY whole, every element read before any is written; a chain sleeps at a
record without OWN and wakes when OWN is set; the scout translates and moves nothing; a step sends its operand and completes when it has
landed and is acknowledged; a completed command's status stands in the registers that wait for it (01 R19, 12 R297). -/
def Obligations.EngineSteps : Prop :=
  ∀ (s : State) (c : Cmd), s.cmd? s.op.cmd = some c →
    (∀ (l : List TrElem) (sp dp : Nat → Place), c.kind = .record → (c.st = .queued ∨ c.st = .active) → c.code = 0 →
      let r := c.record.take 8
      let n := 2 ^ trEsz r
      (∀ x ∈ s.threads, ∀ y ∈ x.lane, y.loopOf ≠ c.thr) → trOp r = 0 → s.trElems c none r = .good l →
      s.engPlaces c 2 (l.flatMap fun x => x.src.map (·, false) ++ [(x.dst, true)]) =
        .ok ((List.range l.length).flatMap fun j => [sp j, dp j]) →
      (∀ j < l.length, (dp j).straight ∧ (dp j).addr % n = 0) → Memory.wf s.mem = true →
      (∀ j k u v, j < l.length → k < l.length → u < n → v < n → s.chan ((dp j).loc + u) = s.chan ((dp k).loc + v) → j = k ∧ u = v) →
      ∃ s' c', exec .culvertRecord s = .next s' ∧ s'.cmd? s.op.cmd = some c' ∧ c'.st = .sent ∧ c'.code = 0 ∧ c'.recs = 1 ∧
        (∀ j < l.length, ∀ k < n, s'.byte ((dp j).loc + k) = s.byte ((sp j).at k)) ∧
        ∀ a, (∀ j < l.length, ¬s.touches (dp j) n a) → s'.byte a = s.byte a) ∧
    (∀ ch p r, c.kind = .chain ch → s.headOf c 2 = .at p r →
      ((r.getD 0 0).getLsbD 63 = false → (c.st = .queued ∨ c.st = .active) →
        exec .culvertRecord s = .next (s.setCmd c.id fun x => { x with st := .sleeping })) ∧
      ((r.getD 0 0).getLsbD 63 = true → c.st = .sleeping →
        exec .chainOwnWake s = .next (s.setCmd c.id fun x => { x with st := .active }))) ∧
    (∀ page wr p w, (s.scoutPages c)[c.probes]? = some (page, wr) →
      s.xlate (c.core / 1024 % 2) (s.task c.task).fn (page * 2 ^ 16) wr = .ok p w →
      exec .scoutProbe s = .next (s.setCmd c.id fun x => { x with probes := x.probes + 1 })) ∧
    (c.st = .sent → ∃ s' c', exec .engineCompletion s = .next s' ∧ s'.cmd? s.op.cmd = some c' ∧ c'.st = .finished ∧ s'.mem = s.mem ∧
      ∀ u t (d : R5), s.thread? u = some t → d ≠ 0 → t.pend.find? (fun x => x.2 == c.id) = some (d, c.id) →
        ∃ t', s'.thread? u = some t' ∧ t'.g = t.g.set d.toNat (BitVec.ofNat 64 (c.recs * 2 ^ 32 + c.detail * 2 ^ 8 + c.code)) d.isLt) ∧
    (c.kind = .cstep → c.record ≠ [] →
      (∀ a b e pl, c.st = .queued → c.live = false → c.code = 0 → stBad (s.task c.task) c.record = none →
        s.stBufs c c.record = .good (a, b, e) →
        s.engPlaces c 3 (a.map (·, false) ++ (b ++ e).map (·, true)) = .ok pl →
        ∃ s' c', exec .confluenceStep s = .next s' ∧ s'.cmd? s.op.cmd = some c' ∧ s'.mem = s.mem ∧
          (Config.reachable s.tick (stPeer c.record) = true → c'.st = .active ∧ c'.live = true ∧
            c'.stepNo = some (s.stNumber c c.record) ∧
            s'.out = (if stSends c.record then [stOperand (s.stNumber c c.record) c.record
              ((pl.take a.length).flatMap fun p => s.readP p (stSize (stIfmt c.record)))] else []) ++ s.out) ∧
          (Config.reachable s.tick (stPeer c.record) = false → c'.st = .sent ∧ c'.code = ccPeer ∧ c'.detail = 0)) ∧
      (c.st = .active → c.live = true → (stLands c.record = true → c.landed = true) → (stSends c.record = true → c.acked = true) →
        (stForms c.record = false →
          ∃ s' c', exec .confluenceStep s = .next s' ∧ s'.cmd? s.op.cmd = some c' ∧ c'.st = .sent ∧ c'.code = 0 ∧ c'.recs = 1 ∧
            c'.writes = c.stepW ∧ s'.mem = s.mem) ∧
        (∀ a b e (x y z : Nat → Place), stForms c.record = true → (∀ x ∈ s.threads, ∀ y ∈ x.lane, y.loopOf ≠ c.thr) →
          s.stBufs c c.record = .good (a, b, e) →
          s.engPlaces c 3 (a.map (·, false) ++ (b ++ e).map (·, true)) = .ok
            ((List.range a.length).map x ++ (List.range b.length).map y ++ (List.range e.length).map z) →
          let i := stSize (stIfmt c.record)
          let n := stSize (stRfmt c.record)
          (∀ j < e.length, (z j).straight ∧ (z j).addr % n = 0) → Memory.wf s.mem = true →
          (∀ j k u v, j < e.length → k < e.length → u < n → v < n → s.chan ((z j).loc + u) = s.chan ((z k).loc + v) → j = k ∧ u = v) →
          ∃ s' c', exec .confluenceStep s = .next s' ∧ s'.cmd? s.op.cmd = some c' ∧ c'.st = .sent ∧ c'.code = 0 ∧ c'.recs = 1 ∧
            (∀ j < e.length,
              let l := stWide (stIfmt c.record) (s.numP (x j) i)
              let p := stWide (stIfmt c.record) (s.numP (y j) i)
              s'.num (z j).loc n = (if stOp c.record = 1 ∨ (s.task c.task).peerix < stPeer c.record then stRes c.record l p
                else stRes c.record p l) % 2 ^ (8 * n)) ∧
            ∀ a, (∀ j < e.length, ¬s.touches (z j) n a) → s'.byte a = s.byte a)) ∧
      (∀ a b e pl, s.op.flag = false → c.st = .active → c.live = true → c.acked = false →
        s.stBufs c c.record = .good (a, b, e) → s.engPlaces c 3 (a.map (·, false)) = .ok pl →
        let o := stOperand (s.stNumber c c.record) c.record (pl.flatMap fun p => s.readP p (stSize (stIfmt c.record)))
        exec .linkRetry s = .next (if stSends c.record then { s with out := o :: s.out } else s))) ∧
    (s.op.flag = true → ∃ s', exec .linkRetry s = .next s' ∧ s'.mem = s.mem ∧ s'.cmds = s.cmds ∧
      ∀ u t, s.thread? u = some t → s'.thread? u = some (if u = s.op.thr then
        { t with runnels := t.runnels.map fun y => { y with ahead := [] } } else t)) ∧
    (s.ingressRoom s.op.die s.op.peer = true →
      exec .stepDataArrival s = .next (s.setDie s.op.die fun d => { d with ingress := d.ingress ++ [s.op.peer] })) ∧
    (s.ingressRoom s.op.die s.op.peer = false → exec .stepDataArrival s = .fault .notEnabled) ∧
    (∀ k, s.awaiting s.op.peer = some k → s.op.flag = true →
      exec .stepAcknowledge s = .next (s.setCmd k.id fun x => { x with acked := true })) ∧
    (s.awaiting s.op.peer = none → exec .stepAcknowledge s = .next s)

/-- 14 R341 to R344, R348, R349, R353, R355, 15 R368, R371: MZERO performed leaves its tile zero and the others as they were; every matrix
instruction that may start is performed; one that has been performed retires with its result; a fill replaces its tile; a replay takes the
element again; ATTN over an empty capture set gives code 0 with its rows and takes the set. -/
def Obligations.MatrixEngineSteps : Prop :=
  ∀ (s : State) (m : MatQ),
    (s.matOf s.op.thr = some m → s.matReady m = true →
      ((∃ x, m.i = .mma x) ∨ (∃ x, m.i = .msacc x) ∨ (∃ x, m.i = .mst x) ∨ (∃ x, m.i = .mlda x) ∨ (∃ x, m.i = .mstq x) ∨
        (∃ x, m.i = .wld x) → ∃ s', exec .matrixDispatch s = .next s' ∧ s'.cur = s.cur) ∧
      (∀ n : BitVec 2, m.i = .mzero n → m.band = none → ∀ v, s.vcore? m.vu = some v →
        ∃ s' v', exec .matrixDispatch s = .next s' ∧ s'.vcore? m.vu = some v' ∧ s'.mem = s.mem ∧ s'.threads = s.threads ∧
          (∀ y ∈ s'.matq, y.order = m.order → y.performed = true) ∧
          ∀ k, (if n.toNat < 2 then v'.ptRow k = v.ptRow k ∧ v'.accRow k = if k / 128 = n.toNat then List.replicate 128 0 else v.accRow k
            else v'.accRow k = v.accRow k ∧ v'.ptRow k = if k / 128 = n.toNat - 2 then List.replicate 128 0 else v.ptRow k))) ∧
    (s.matOf s.op.thr = some m → m.performed = true → ∀ w t x, m.wid = some w → s.thread? m.thr = some t →
      t.windows.find? (fun y => y.wid == w) = some x →
      ∃ s' u, exec .matrixRetire s = .next s' ∧ s'.thread? m.thr = some u ∧ s'.mem = s.mem ∧ (∀ y ∈ s'.matq, y.order ≠ m.order) ∧
        u.windows.find? (fun y => y.wid == w) = some { x with res := (match m.trap with | some t => .fault t | none => .regs m.res) }) ∧
    (∀ (x : Fill) (f : Frame) bs bad v, s.fills.find? (fun x => x.vu == s.op.vc && x.order == s.op.wid) = some x → x.m.page = none →
      s.fillFirst x = true → s.fillBytes x.m (((s.thread? x.m.thr).map Thread.gtid).getD 0) x.m.a [] none = .inr (bs, bad) →
      frameOf x.m.frame = some f → s.vcore? x.vu = some v →
      ∃ s' v', exec .wldFillComplete s = .next s' ∧ s'.vcore? x.vu = some v' ∧ s'.mem = s.mem ∧
        (∀ y ∈ s'.fills, y.vu = x.vu → y.order ≠ x.order) ∧
        (∀ k, k ≠ x.tile → v'.tile k = v.tile k) ∧ (v'.tile x.tile).poison = bad ∧
        (v'.tile x.tile).tag = (match f.fmt with | .e4m3 => 1 | .int8 => 2 | .int4 => 3) ∧
        (v'.tile x.tile).codes = tileCodes f x.m.org
          ((List.range 128).flatMap fun k => (stripIdx x.m.org k).map fun i => (k, i)) bs) ∧
    (∀ t y n a ps, s.matOf s.op.thr = some m → s.thread? s.op.thr = some t → m.replay = true → m.check = some (y, n) → m.page = none →
      s.elemAt t y n = .ok a → s.elemPlaces t y a = .inr ps → (y.fresh = true → (s.asThread t.uid).elemClash ps false = none) →
      let bad := (s.elemPoison ps).map fun w => (⟨6, w, none⟩ : Trap)
      ∃ s' : State, s'.bare = s.bare ∧ exec .mmaReplay s = .next (s'.setMat m.order fun m =>
        { m with elem := some (s.elemValue ps), trap := bad, replay := false, page := none })) ∧
    (∀ x t set w, s.attnHead s.op.thr = some m → m.page = none → m.rdr = none → m.i = .attn x → s.thread? m.thr = some t →
      t.lane = none → t.shadow = none → (if x.cs then t.caps[1] else t.caps[0]) = some set → set.blocks = [] →
      atHead (m.frame.take 8) ≤ set.kvhm1 → atMode (m.frame.take 8) = 0 → atRec (m.frame.take 8) = false →
      (∀ a ∈ m.a ++ m.b, a.space = 1) → (∀ a ∈ m.a, s.poisonTrap (m.place a) 64 = none) →
      t.windows.find? (fun y => y.wid == m.wid.getD 0) = some w →
      ∃ s' u, exec .attnRetire s = .next s' ∧ s'.thread? m.thr = some u ∧ (∀ y ∈ s'.matq, y.order ≠ m.order) ∧
        (if x.cs then u.caps[1] else u.caps[0]) = none ∧
        u.windows.find? (fun y => y.wid == m.wid.getD 0) =
          some { w with res := .regs [.g x.x.d (BitVec.ofNat 64 (atR (m.frame.take 8) % 2 ^ 32 * 2 ^ 32))] })

namespace Sys2Proof.Machine

/-- The block that a move names is there and may be moved (06 R179): its table entry and record, the chunks of its record and of the new
one, which stand apart from each other and from the entry, and the new record's format. -/
structure MoveAt (s : State) (c : Ctx) (e : Word) (r n : KRec) (pe : Place) (k kn : Chunks) (code : Nat) (f : NFmt) : Prop where
  ctx : s.ctx? s.op.move.ctx = some c
  live : c.releasing = none
  movable : c.movable s.op.move.layer (teBlk e) = true
  owns : c.ownsEntry s.op.move.layer s.op.move.entry = true
  pool : s.op.move.pool % 512 = 0
  entry : s.vaWords ⟨c.die, c.fn, 0, [], 6, []⟩ s.op.move.entry 1 = .ok [e]
  good : s.entryCheck ⟨c.die, c.fn, 0, [], 6, []⟩ c c.h s.op.move.layer none e s.op.move.pool (2 ^ 52) = .ok (.inr r)
  fmt : nfmt? code = some f
  new : n = { r with va := s.op.move.pool + 512 * s.op.move.paddr, fmt := f, hdr := [] }
  place : s.vaAt ⟨c.die, c.fn, 0, [], 6, []⟩ s.op.move.entry true = .ok pe
  here : s.chunks ⟨c.die, c.fn, 0, [], 6, []⟩ r.va r.size true = .ok k
  there : s.chunks ⟨c.die, c.fn, 0, [], 6, []⟩ n.va n.size true = .ok kn
  wf : Memory.wf s.mem = true
  straight : pe.straight ∧ pe.addr % 8 = 0
  one : ∀ i j, i < 8 → j < 8 → s.chan (pe.loc + i) = s.chan (pe.loc + j) → i = j
  apart : ∀ i < 8, s.chan (pe.loc + i) ≠ s.chan ((k.at r.va).loc + 6)
  inj : ∀ i j, i < n.size → j < n.size → s.chan (kn.at (n.va + i)).loc = s.chan (kn.at (n.va + j)).loc → i = j
  old : ∀ i j, i < n.size → j < r.size → s.chan (kn.at (n.va + i)).loc ≠ s.chan (k.at (r.va + j)).loc
  away : ∀ i j, i < n.size → j < 8 → s.chan (kn.at (n.va + i)).loc ≠ s.chan (pe.loc + j)

end Sys2Proof.Machine

/-- 05 R143, R144, R157, 06 R179, R184 to R186: a dispatchable entry becomes PENDING and its work item starts with the arguments of R144;
a release completes with code 0 when nothing of the context is outstanding; requantisation and migration change no context order, no silt
entry and no thread, and where the block may be moved its entry names the new record, with the new format or tier, the old header is
RETIRED, and a migrated record is the old one but for its rebuilt envelopes; a retired record that nobody reads returns its granules; the step builder writes the step list of empty queues, and
of a refused descriptor its header alone. -/
def Obligations.ContextSteps : Prop :=
  ∀ s : State,
    (∀ c e k v, s.ctx? s.op.ctx = some c → c.launched = none → c.nextDispatch = some e → bit (s.die c.die).split 1 = false →
      s.itemVcore c = some (k, v) →
      ∃ s' t c', exec .surgeDispatch s = .next s' ∧ s'.threads = s.threads ++ [t] ∧ t.vu = v.vu ∧
        some t.slot = (s.freeLogical v.vu).head? ∧ some t.pslot = (s.freePhysical v.vu).head? ∧ t.child = true ∧
        t.pc = BitVec.ofNat 64 (c.entries.getD e.layer 0) ∧
        t.item = some { ctx := c.h, layer := e.layer, block := e.blk, stamp := c.a } ∧
        t.gr 1 = BitVec.ofNat 64 c.h ∧ t.gr 2 = BitVec.ofNat 64 e.layer ∧ t.gr 3 = BitVec.ofNat 64 e.blk ∧
        t.gr 4 = BitVec.ofNat 64 c.a ∧ t.gr 6 = BitVec.ofNat 64 (e.state + 4 * e.force.toNat) ∧ t.gr 7 = BitVec.allOnes 64 ∧
        (∀ j, j < e.layer → c.checkpoint j = true → (∀ i, j < i → i < e.layer → c.checkpoint i = false) →
          t.gr 5 = BitVec.ofNat 64 j) ∧
        ((∀ j, j < e.layer → c.checkpoint j = false) → t.gr 5 = BitVec.allOnes 64) ∧
        ((∀ y ∈ c.homes, y.1 = e.layer → y.2.1 ≠ c.blkOf e.blk) → s'.mem = s.mem) ∧
        s'.ctx? s.op.ctx = some c' ∧ c'.a = c.a ∧ c'.slots = c.slots ∧ (c'.entry e.layer e.blk).state = 3 ∧
        ∃ d, (c'.entry e.layer e.blk).disp = some d ∧ d.thr = some t.uid ∧ d.stamp = c.a ∧ d.force = e.force) ∧
    (∀ c u w t x d, s.ctx? s.op.ctx = some c → c.releasing = some (u, w) → c.edits = [] → (∀ e ∈ c.silt, e.state ≠ 3) →
      s.thread? u = some t → t.windows.find? (fun y => y.wid == w) = some x → x.res = .wait (.release d) →
      ∃ s' t', exec .contextReleaseComplete s = .next s' ∧ s'.ctx? s.op.ctx = none ∧ s'.mem = s.mem ∧ s'.thread? u = some t' ∧
        t'.windows.find? (fun y => y.wid == w) = some { x with res := .regs [.g d 0] }) ∧
    (∀ i, i = Instr.requantisation ∨ i = Instr.tierMigration →
      ∃ s', exec i s = .next s' ∧ s'.threads = s.threads ∧ s'.tasks = s.tasks ∧
        (s'.retired = s.retired ∨ ∃ x, s'.retired = s.retired ++ [x]) ∧
        ∀ h c, s.ctx? h = some c → ∃ c', s'.ctx? h = some c' ∧ c'.a = c.a ∧ c'.slots = c.slots ∧ c'.blocks = c.blocks ∧ c'.silt = c.silt) ∧
    (∀ c e r n pe k kn code f, MoveAt s c e r n pe k kn code f →
      let m := s.op.move
      let moved (i : Instr) (tier : Bool) (s' : State) : Prop := exec i s = .next s' ∧
        s'.retired = s.retired ++ [⟨c.h, c.fn, r.va, r.size⟩] ∧ s'.dword pe.loc = movedEntry e code m.paddr tier ∧
        (s'.num ((k.at r.va).loc + 6) 1).testBit 6 = true
      (code = ((e.extractLsb' 60 2).toNat) → ∃ s', moved .tierMigration m.tier s' ∧
        ∀ i < n.size / 8, (∀ area head kind ch, area < 2 → head < r.nh → kind < 3 → ch < r.d → (r.env area head kind ch - r.va) / 8 ≠ i) →
          s'.dword (kn.at (n.va + 8 * i)).loc = s.dword (k.at (r.va + 8 * i)).loc) ∧
      (code = m.fmt → bit (s.die c.die).split 7 = false → c.det = false → ∃ s', moved .requantisation (e.getLsbD 62) s' ∧
        (s'.dword (kn.at n.va).loc).extractLsb' 52 2 = BitVec.ofNat 2 m.fmt)) ∧
    (∀ x l, s.retired.find? (fun x => x.va == s.op.addr && x.fn == s.op.fn) = some x → s.freeable x = some l →
      ∃ s', exec .recordFree s = .next s' ∧ s'.threads = s.threads ∧ s'.ctxs = s.ctxs ∧
        (∀ y ∈ s'.retired, ¬(y.va = x.va ∧ y.fn = x.fn)) ∧
        ∀ d, d < 2 → ((s'.die d).list 0).prod = if l.any (fun y => dieOfPa y.1 == d) then
          (((s.die d).list 0).prod + (l.filter fun y => dieOfPa y.1 == d).length) % 2 ^ 32 else ((s.die d).list 0).prod) ∧
    (∀ q rest ws p0, (s.die s.op.die).steps = q :: rest → (s.die s.op.die).building = none → q.wait = none → q.full = none → q.desc = [] →
      q.host = false →
      let v : View := ⟨s.op.die, q.fn, 0, [], 6, []⟩
      s.vaWords v q.addr 4 = .ok ws → sdList ws % 64 = 0 → s.vaAt v (sdList ws) true = .ok p0 → p0.loc % 64 = 0 →
      s.full p0.loc = false → Memory.wf s.mem = true →
      (∀ i j, i < 16 → j < 16 → s.chan (p0.loc + i) = s.chan (p0.loc + j) → i = j) →
      (sdBad ws = true ∨ ∃ dq pq c1 c2 pd pp, sdBad ws = false ∧ s.stepQueue v (sdDecq ws) = .ok (dq, c1) ∧
        s.stepQueue v (sdPreq ws) = .ok (pq, c2) ∧ dq.count = 0 ∧ pq.count = 0 ∧
        (∀ h ∈ s.stepCtxs s.op.die q.fn, s.stepItem h = none) ∧
        s.vaAt v (dq.head + 24) true = .ok pd ∧ s.vaAt v (pq.head + 24) true = .ok pp) →
      ∃ s', exec .stepBuild s = .next s' ∧ s'.dword p0.loc = (if sdBad ws then 0x80000000 else 0) ∧
        s'.dword (p0.loc + 8) = BitVec.ofNat 64 ((s.die s.op.die).taken + 1) ∧ s'.full p0.loc = true ∧
        (s'.die s.op.die).steps = rest ∧ (s'.die s.op.die).building = none ∧ (s'.die s.op.die).taken = (s.die s.op.die).taken + 1 ∧ s'.threads = s.threads)

/-- 20 R399 to R405, R411, R412, R414, 05 R158, 12 R281: a kick fetches the packet at the head and accepts it when its stamp is the head's; a
device queue's kick word is taken; enabling a queue starts it at 0; LAUNCH puts a task with the record's fields into the ready set and empties
the completion word; TEARDOWN, SUSPEND, RESUME, WORKITEM and PUBLISH act on what they name. -/
def Obligations.QueuesAndPackets : Prop :=
  ∀ s : State, s.op.q < 8 →
    let fn := s.op.fn
    let q := s.op.q
    let x := s.queue fn q
    let l := s.dwords (hostBase + x.base.toNat + 64 * (x.head % 2 ^ x.qlg)) 8
    let stamp := ((l.getD 7 0).extractLsb' 0 32).toNat
    let accepted (s' : State) : Prop := (s'.queue fn q).head = (x.head + 1) % 2 ^ 32 ∧ (s'.queue fn q).pkt = packetOf fn q l ∧
      (packetOf fn q l = none → (s'.queue fn q).badpkt = true) ∧ s'.mem = s.mem
    (∀ n, n = s.op.word.toNat % 2 ^ 32 → x.dev = false → x.en = true → s.ready = true → x.pkt = none → x.retries = 0 → x.wait = none →
      s.queuesFull fn = false → 0 < (n + 2 ^ 32 - x.head) % 2 ^ 32 → (n + 2 ^ 32 - x.head) % 2 ^ 32 < 2 ^ 31 → stamp = x.head →
      ∃ s', exec .queueKick s = .next s' ∧ (s'.queue fn q).kick = n ∧ (s'.queue fn q).stale = false ∧ accepted s') ∧
    (x.dev = false → x.wait = none → s.mayFetch fn q = true →
      (stamp = x.head → ∃ s', exec .packetFetchRetry s = .next s' ∧ accepted s') ∧
      (stamp ≠ x.head → x.retries < 4 → ∃ s', exec .packetFetchRetry s = .next s' ∧ s'.mem = s.mem ∧
        (s'.queue fn q).retries = x.retries + 1 ∧ (s'.queue fn q).head = x.head ∧ (s'.queue fn q).stale = x.stale) ∧
      (stamp ≠ x.head → x.retries = 4 → ∃ s', exec .packetFetchRetry s = .next s' ∧ s'.mem = s.mem ∧
        (s'.queue fn q).stale = true ∧ (s'.queue fn q).head = x.head)) ∧
    (∀ p, x.dev = true → x.en = true → s.ready = true → x.kwait = none → s.vaAt (s.gateView fn none) x.kword false = .ok p →
      s.full p.loc = true → s.firstAt (p.loc / 8) x.kticket true = true →
      ∃ s', exec .deviceQueueKick s = .next s' ∧ s'.full p.loc = false ∧ (s'.queue fn q).kick = (s.dword p.loc).toNat % 2 ^ 32) ∧
    (∃ s' y, exec .queueEnable s = .next s' ∧ s'.queue fn q = y ∧ y.en = true ∧ y.head = 0 ∧ y.kick = 0 ∧
      y.prio = (s.op.word.extractLsb' 59 3).toNat ∧ y.dev = (if x.en then x.dev else s.op.word.getLsbD 62) ∧ y.base = x.base ∧ s'.mem = s.mem) ∧
    (∀ w p, s.queuesFull fn = false → s.vaWords (s.gateView fn x.wait) s.op.addr 32 = .ok w →
      s.vaAt (s.gateView fn x.wait) (64 * ((w.getD 15 0).extractLsb' 6 46).toNat) true = .ok p →
      (∀ i, i < 8 → (w.getD (16 + i) 0).getLsbD 63 = false) →
      ∃ s' k, exec .launch s = .next s' ∧ s'.tasks = s.tasks ++ [k] ∧ s'.full p.loc = false ∧ (s'.queue fn q).pkt = none ∧ s'.mem = s.mem ∧
        k.tid = s.nextTask ∧ s'.nextTask = s.nextTask + 1 ∧ k.fn = fn ∧ k.q = q ∧ k.prio = x.prio ∧ k.st = .ready ∧ k.preq = [] ∧
        k.tag = (w.getD 0 0).extractLsb' 32 32 ∧ k.det = (w.getD 0 0).getLsbD 31 ∧ k.serial = (w.getD 0 0).getLsbD 30 ∧
        k.entry = (w.getD 1 0) &&& 0xFFFFFFFF ∧ k.trapv = (w.getD 1 0) >>> 32 ∧ k.arg = w.getD 2 0 ∧
        k.absz = ((w.getD 13 0).extractLsb' 16 6).toNat ∧ k.cirq = (w.getD 15 0).getLsbD 63 ∧
        (k.status, k.detail) = s.refusal { k with status := 0, detail := 0 } w (x.dev && x.ended)) ∧
    (∀ i, i ∈ [Instr.teardown, .suspend, .resume] → s.tagged fn s.op.word = none →
      ∃ s', exec i s = .next s' ∧ (s'.queue fn q).badpkt = true ∧ (s'.queue fn q).pkt = none ∧ s'.tasks = s.tasks) ∧
    (∀ k, s.tagged fn s.op.word = some k →
      (k.live = true → (∃ s', exec .teardown s = .next s' ∧ (s'.fn fn).tear = (s.fn fn).tear ++ [(k.tid, 0)]) ∧
        ∃ s', exec .suspend s = .next s' ∧ (s'.fn fn).halt = (s.fn fn).halt ++ [(k.tid, true)] ∧ s'.tasks = s.tasks) ∧
      (k.live = false →
        (k.saved = [] → ∃ s' k', exec .teardown s = .next s' ∧ s'.task? k.tid = some k' ∧ k'.status = 5) ∧
        ∃ s' k', exec .suspend s = .next s' ∧ s'.task? k.tid = some k' ∧ k'.held = true ∧ s'.mem = s.mem) ∧
      ∃ s' k', exec .resume s = .next s' ∧ s'.task? k.tid = some k' ∧ k'.held = false ∧ s'.mem = s.mem) ∧
    (∀ c d, s.ctx? (s.op.word.extractLsb' 48 12).toNat = some c → c.fn = fn → c.releasing = none →
      let l := (s.op.word.extractLsb' 40 8).toNat
      let b := (s.op.word.extractLsb' 0 20).toNat
      (c.entry l b).state = 3 → (c.entry l b).disp = some d → d.thr = none → d.go = false →
      d.stamp = (s.op.val.extractLsb' 0 32).toNat →
      ∃ s' c', exec .workitem s = .next s' ∧ s'.ctx? c.h = some c' ∧ (c'.entry l b).disp = some { d with go := true } ∧
        (c'.entry l b).state = 3 ∧ c'.a = c.a ∧ s'.mem = s.mem) ∧
    (∀ p, x.wait = none → s.vaAt (s.gateView fn none) s.op.addr true = .ok p → s.full p.loc = false →
      s.firstAt (p.loc / 8) s.order false = true → s.reserved fn s.op.addr 8 = false → Memory.wf s.mem = true →
      (∀ i j, i < 8 → j < 8 → s.chan (p.loc + i) = s.chan (p.loc + j) → i = j) →
      ∃ s', exec .publish s = .next s' ∧ s'.dword p.loc = s.op.val ∧ s'.full p.loc = true ∧ (s'.queue fn q).pkt = none ∧
        ∀ a, (∀ i < 8, s.chan a ≠ s.chan (p.loc + i)) → s'.byte a = s.byte a)

/-- 01 R25, R28, R31, 08 R214 to R218, 20 R405 to R418: the first eligible launch is passed to the distributor; a gang is placed whole with its
threads at ENTRY; a pre-emption halts the partition, and its save puts victims back into the ready set without threads; a restored gang
stands again; a task that is over completes with its record, or is executed again serialised. -/
def Obligations.TasksRunAndEnd : Prop :=
  ∀ s : State,
    (∀ k im sg, s.mayTest s.op.fn = false → s.maySelect s.op.fn = true → s.candidate s.op.fn = some k → k.st = .ready →
      s.readImage k = .ok (im, sg) →
      ∃ s' k', exec .launchSelect s = .next s' ∧ s'.task? k.tid = some k' ∧ k'.st = .chosen ∧ k'.image = im ∧ k'.segs = sg ∧
        s'.mem = s.mem ∧ s'.threads = s.threads) ∧
    (∀ k l g, s.task? s.op.task = some k → s.mayPlace k false = true → s.nextPlaces k = some l → k.nextGang = some g →
      ∃ s' k', exec .gangPlacement s = .next s' ∧ s'.task? s.op.task = some k' ∧ k'.placedGangs = k.placedGangs ++ [g] ∧
        k'.st = (if k.rerun then .rerun else .running) ∧
        (∀ x ∈ l, ∃ v ∈ s'.vcores, v.vu = k.tid * 1024 + x.idx ∧ v.idx = x.idx ∧ v.core = x.core ∧ v.placed = true ∧ v.mode = x.mode) ∧
        (∀ x ∈ l, x.mode ≠ .sole → ∀ i, i < k.slots → i < x.pslots.length →
          ∃ t ∈ s'.threads, t.vu = k.tid * 1024 + x.idx ∧ t.slot = i ∧ some t.pslot = x.pslots[i]?) ∧
        ∀ t ∈ s'.threads, t ∉ s.threads → t.task = k.tid ∧ t.pc = k.entry ∧ t.tvec = k.trapv ∧ t.park = none ∧ t.windows = [] ∧
          t.gr 1 = BitVec.ofNat 64 (t.vu % 1024 * 8 + t.slot) ∧ t.gr 2 = k.arg ∧
          ∀ r : Fin 32, 3 ≤ r.val → t.g[r] = 0) ∧
    (s.preempts s.op.fn = true → s.migrating s.op.fn = false →
      ∃ s', exec .preemption s = .next s' ∧ (s'.fn s.op.fn).halted = true ∧ (s'.fn s.op.fn).tear = (s.fn s.op.fn).tear ∧
        ((s.fn s.op.fn).halt ≠ [] → (s'.fn s.op.fn).halt = (s.fn s.op.fn).halt) ∧ s'.threads = s.threads ∧ s'.mem = s.mem) ∧
    (∀ tid held k, (s.fn s.op.fn).halted = true → (s.fn s.op.fn).halt = [(tid, held)] → (s.fn s.op.fn).tear = [] →
      s.undrained tid = false → s.task? tid = some k → k.live = true → k.status = 0 → s.suspendable k = true →
      ∃ s' k', exec .preemptionSave s = .next s' ∧ s'.task? tid = some k' ∧ k'.st = .suspended ∧ k'.held = (held || k.held) ∧
        (∀ t ∈ s'.threads, t.task = tid → t.fw ≠ none) ∧ (s'.fn s.op.fn).halted = false ∧ (s'.fn s.op.fn).halt = [] ∧
        ∀ v ∈ s.vcores, v.task = tid → v.placed = true → v.ended = false → ∃ y ∈ k'.saved, y.vc.vu = v.vu ∧ y.vc.acc = v.acc) ∧
    (∀ k l, s.task? s.op.task = some k → s.mayPlace k true = true → s.nextPlaces k = some l →
      ∃ s' k', exec .restore s = .next s' ∧ s'.task? s.op.task = some k' ∧ k'.st = (if k.rerun then .rerun else .running) ∧
        (∀ y ∈ k'.saved, ∀ z ∈ k.nextSaved, y.vc.vu ≠ z.vc.vu) ∧
        ∀ y x, (y, x) ∈ k.nextSaved.zip l → ∃ v ∈ s'.vcores, v.vu = y.vc.vu ∧ v.core = x.core ∧ v.acc = y.vc.acc ∧ v.tiles = y.vc.tiles) ∧
    (∀ k p i, s.task? s.op.task = some k → s.mayEnd k = true → k.drep = 0 →
      ((i = Instr.taskEnd ∧ (k.status ≠ 0 ∨ (k.rerun = false ∧ k.expd = none))) ∨
       (i = .reexecutionEnd ∧ k.rerun = true ∧ k.status = 0 ∧ k.expd = some (s.finalDigest k))) →
      s.vaAt (s.gateView k.fn k.wait) k.compl true = .ok p → s.full p.loc = false → p.loc % 64 = 0 → Memory.wf s.mem = true →
      (∀ i j, i < 64 → j < 64 → s.chan (p.loc + i) = s.chan (p.loc + j) → i = j) →
      (∀ v ∈ s.vcores, ∀ d, d < 2 → ∀ j, j < 16 → ∀ i, i < 64 →
        s.chan ((s.die d).remapBase + 2 ^ 14 * (s.task v.task).pos + 16 * v.idx + j) ≠ s.chan (p.loc + i)) →
      (∀ v ∈ s.vcores, ∀ j, j < 8 → ∀ i, i < 64 → s.chan (abBase v.vu + 8 * 253 + j) ≠ s.chan (p.loc + i)) →
      ∃ s', exec i s = .next s' ∧ s'.task? s.op.task = none ∧ s'.full p.loc = true ∧
        s'.dword p.loc = BitVec.ofNat 64 (k.tag.toNat * 2 ^ 32 + k.trap2 % 256 * 2 ^ 24 + k.detail % 256 * 2 ^ 8 + k.status % 256) ∧
        s'.dword (p.loc + 8) = BitVec.ofNat 64 (k.trapGtid % 2 ^ 13) ∧ (∀ n, 2 ≤ n → n < 8 → s'.dword (p.loc + 8 * n) = 0)) ∧
    (∀ k e, s.task? s.op.task = some k → s.mayEnd k = true → k.status = 0 → k.rerun = false → k.serial = false → k.expd = some e →
      s.finalDigest k ≠ e → bit (s.die (s.gateDie k.fn)).split 5 = false →
      ∃ s' k', exec .taskEnd s = .next s' ∧ s'.task? s.op.task = some k' ∧ k'.rerun = true ∧ k'.st = .rerun ∧ k'.placedGangs = [] ∧
        k'.first = s.finalDigest k ∧ k'.expd = some e)

namespace Sys2Proof.Machine

/-- Held requests go on, and the threads are otherwise as they were (21 R440, R444). -/
def Released (s s' : State) : Prop :=
  (∀ t ∈ s.threads, ∃ u ∈ s'.threads, u.uid = t.uid ∧ u.pc = t.pc ∧ u.g = t.g) ∧
  ∀ t ∈ s'.threads, ∀ p, t.park = some (.page p) → p.held ≠ none → p.woken = true

end Sys2Proof.Machine

/-- 21 R425, R428, R429, R433 to R444, R450: a walk fills the TLB; WAKE and FAIL free the fault entries that they name and end the waits on
them, REPLAY_ALL those of dropped requesters; an invalidation drops what it covers at once and completes when no capture reads through it;
a page command is refused with its code, or begins and holds requests to its leaf until its end: PAGE_MIGRATE has then moved the page's
bytes and swapped its entry, UNMAP cleared V; a candidate is posted; a retired channel's addresses keep their bytes; rings are refilled; a
line is recompressed into an allocation of its new size, and its old one is given back. -/
def Obligations.MemorySystemService : Prop :=
  ∀ s : State,
    let die := s.op.die % 2
    let w := s.op.word
    let fn := (w.extractLsb' 52 8).toNat
    let page := (w.extractLsb' 16 36).toNat
    (∀ e large ent, s.leafOf die s.op.fn s.op.addr = .leaf e large ent →
      (∀ x ∈ s.tlb, ¬(x.die = die ∧ x.fn = s.op.fn ∧ x.page = s.op.addr / 2 ^ 16)) →
      exec .translationWalk s = .next { s with tlb := ⟨die, s.op.fn, s.op.addr / 2 ^ 16, large, e⟩ :: s.tlb }) ∧
    (∀ i failed t p (j : Fin 8) e, (i, failed) ∈ [(Instr.fcmdWake, false), (.fcmdFail, true)] → s.thread? t.uid = some t →
      t.park = some (.page p) → p.die = die → p.dropped = false → p.held = none → p.woken = false → (s.die die).fbuf[j] = some e →
      e.fn = p.fn → e.page = p.page → w.getLsbD 61 = false → p.fn = fn → p.page = page →
      ∃ s' t', exec i s = .next s' ∧ s'.thread? t.uid = some t' ∧ t'.park = some (.page { p with woken := true, failed := failed }) ∧
        (s'.die die).fbuf[j] = none ∧ s'.mem = s.mem) ∧
    (∀ t p, s.thread? t.uid = some t → t.park = some (.page p) → p.die = die → p.dropped = true →
      ∃ s' t', exec .fcmdReplayAll s = .next s' ∧ s'.thread? t.uid = some t' ∧ t'.park = some (.page { p with woken := true }) ∧
        (s'.die die).drop = false ∧ s'.mem = s.mem) ∧
    (∀ i n, (i, n) ∈ [(Instr.tinvPage, 1), (.tinvFunction, 2), (.tinvAll, 3)] →
      let x : Word := BitVec.ofNat 64 (n * 2 ^ 62 + w.toNat % 2 ^ 62)
      ((s.die s.op.die).tinv ≠ none → exec i s = .next s) ∧
      ((s.die s.op.die).tinv = none → ∃ s', exec i s = .next s' ∧ (s'.die s.op.die).tinv = some x ∧ s'.mem = s.mem ∧
        ∀ y ∈ s'.tlb, y ∈ s.tlb ∧ s.tinvCovers x y.fn y.page = false)) ∧
    (∀ x, (s.die s.op.die).tinv = some x → s.tinvHeld (s.tinvCovers x) = false →
      ∃ s', exec .tinvComplete s = .next s' ∧ (s'.die s.op.die).tinv = none ∧ s'.mem = s.mem ∧ (∀ y ∈ s'.tlb, y ∈ s.tlb) ∧
        (x.extractLsb' 62 2 = 3 → s'.tlb = []) ∧
        (x.extractLsb' 62 2 = 2 → ∀ y ∈ s'.tlb, y.fn ≠ (x.extractLsb' 52 8).toNat)) ∧
    (s.op.wid = 0 →
      let ended (k : Nat) : State := s.setDie s.op.die fun d => { d with pstat := k, pcmd := none }
      ((s.die s.op.die).pcmd ≠ none → exec .pageMigrate s = .next s ∧ exec .pageUnmap s = .next s ∧ exec .pcmdInvalid s = .next s) ∧
      ((s.die s.op.die).pcmd = none →
        exec .pcmdInvalid s = .next (ended 4) ∧
        (∀ c, s.walk fn (page * 2 ^ 16) = .fault c → exec .pageMigrate s = .next (ended 2) ∧ exec .pageUnmap s = .next (ended 2)) ∧
        ∀ e large ent, s.walk fn (page * 2 ^ 16) = .leaf e large ent →
          let k := if large then 32 else 1
          let n := (s.die s.op.die).pnew
          let good : Prop := entV n = true ∧ s.leafOk fn large n = true ∧ entSeal n = entSeal e ∧ entKey n = entKey e
          let begun (new : Option Word) : State :=
            s.setDie s.op.die fun d => { d with pcmd := some ⟨fn, page / k * k, k, ent, e, new⟩ }
          (s.pinned e large = true → exec .pageMigrate s = .next (ended 1) ∧ exec .pageUnmap s = .next (ended 1)) ∧
          (s.pinned e large = false →
            (good → exec .pageMigrate s = .next (begun (some n))) ∧ (¬good → exec .pageMigrate s = .next (ended 3)) ∧
            exec .pageUnmap s = .next (begun none)))) ∧
    (∀ c, (s.die s.op.die).pcmd = some c → s.op.wid = 1 → s.tinvHeld c.covers = false → s.blocksOf c.old c.size = [] →
      Memory.wf s.mem = true → (∀ i j, i < 8 → j < 8 → s.chan (c.ent + i) = s.chan (c.ent + j) → i = j) →
      (∀ n, c.new = some n →
        (∀ i j, i < c.size → j < c.size → s.chan (rawLoc n i) = s.chan (rawLoc n j) → i = j) →
        (∀ i j, i < c.size → j < 8 → s.chan (rawLoc n i) ≠ s.chan (c.ent + j)) →
        ∃ s', exec .pageMigrate s = .next s' ∧ (s'.die s.op.die).pstat = 0 ∧ (s'.die s.op.die).pcmd = none ∧ s'.dword c.ent = n ∧
          (∀ o < c.size, s'.byte (rawLoc n o) = s.byte (rawLoc c.old o)) ∧ Released s s') ∧
      (c.new = none →
        ∃ s', exec .pageUnmap s = .next s' ∧ (s'.die s.op.die).pstat = 0 ∧ (s'.die s.op.die).pcmd = none ∧
          s'.dword c.ent = c.old &&& ~~~(1#64 <<< 63) ∧ Released s s' ∧
          ∀ a, (∀ i < 8, s.chan a ≠ s.chan (c.ent + i)) → s'.byte a = s.byte a)) ∧
    (∀ e large ent, s.op.wid = 2 → (s.die s.op.die).split.getLsbD 3 = true → s.walk fn (page * 2 ^ 16) = .leaf e large ent →
      s.pinned e large = false → (s.fn 0).aen = false →
      ∃ s' k, exec .pageMigrate s = .next s' ∧ s'.mem = s.mem ∧ s'.threads = s.threads ∧ (s'.fn 0).waiting =
        (s.fn 0).waiting ++ [⟨4, s.op.die, [0x8000000000000000, BitVec.ofNat 64 (fn * 2 ^ 52 + page * 2 ^ 16), k]⟩]) ∧
    (s.op.wid = 0 → w.getLsbD 63 = true → (s.die s.op.die).cret = none →
      let ch := (w.extractLsb' 0 8).toNat
      let dst := (s.die s.op.die).ctgt
      (s.mayRetire s.op.die ch dst = true → exec .channelRetire s = .next (s.setDie s.op.die fun d => { d with cret := some (ch, dst) })) ∧
      (s.mayRetire s.op.die ch dst = false → exec .channelRetire s = .next (s.setDie s.op.die fun d => { d with cstat := 1 }))) ∧
    (∀ ch dst, s.op.wid ≠ 0 → (s.die s.op.die).cret = some (ch, dst) → s.mayRetire s.op.die ch dst = true → Memory.wf s.mem = true →
      ∃ s', exec .channelRetire s = .next s' ∧ (s'.die s.op.die).cstat = 0 ∧ (s'.die s.op.die).cret = none ∧
        (∀ a, a / 2 ^ 31 = ch → a % 2 ^ 31 < 2000000000 → s'.byte a = s.byte a) ∧ s'.chan (ch * 2 ^ 31) = dst * 2 ^ 31 ∧ Released s s') ∧
    (∃ s', exec .lineRecompress s = .next s' ∧ s'.threads = s.threads ∧ s'.ctxs = s.ctxs ∧ s'.tasks = s.tasks ∧
      ∀ c, s.leafOf s.op.die s.op.fn s.op.addr = .fault c → s' = s) ∧
    (∀ e large ent map i, s.leafOf s.op.die s.op.fn s.op.addr = .leaf e large ent → (placeOf e large s.op.addr).blk = some map →
      (s.die s.op.die).listFor ((Config.granules s.tick).toNat + 1) = some i → (∀ d, d < 2 → (s.die d).split.getLsbD 6 = false) →
      Memory.wf s.mem = true → (∀ j k, j < 8 → k < 8 → s.chan (map + j) = s.chan (map + k) → j = k) →
      let taken := (s.die s.op.die).list i
      let old := s.dword map
      let d := dieOfPa (entryPa old)
      let ring := (s.die d).list 0
      (old.getLsbD 63 = true → s.mayReturn d 1 = true ∧
        ∀ j k, j < 8 → k < 8 → s.chan (ring.entry ring.prod + j) ≠ s.chan (map + k)) →
      ∃ s', exec .lineRecompress s = .next s' ∧ s'.threads = s.threads ∧ s'.ctxs = s.ctxs ∧
        s'.dword map = BitVec.ofNat 64 (2 ^ 63 + (i - 1) * 2 ^ 60 + (s.dword (taken.entry taken.cons)).toNat % 2 ^ 41 / 256) ∧
        ((s'.die s.op.die).list i).cons = (taken.cons + 1) % 2 ^ 32 ∧ (∀ x ∈ (s'.die s.op.die).dirty, x.map ≠ map) ∧
        (old.getLsbD 63 = true → ((s'.die d).list 0).prod = (ring.prod + 1) % 2 ^ 32)) ∧
    (s.op.wid < 9 → (s.die s.op.die).dirty = [] →
      ∃ s', exec .freeListRefill s = .next s' ∧ s'.threads = s.threads ∧
        (if s.op.wid = 0 then ((s'.die s.op.die).list 0).cons = w.toNat % 2 ^ 32
         else ((s'.die s.op.die).list s.op.wid).prod = w.toNat % 2 ^ 32))

/-- 00 R4, 11 R272, 20 R396, R399, R419 to R421, 21 R423, R424, R427, R448, R449, 25 R469 to R472: register writes and reads, the assist ring
and the vectors; accesses of the host and of peers; displacement of the thread of a hot slot; the health block, the power throttle and soft errors. -/
def Obligations.HostAndFleet : Prop :=
  ∀ s : State,
    let fn := s.op.fn
    let die := s.op.die % 2
    let w := s.op.word
    let core := coreAt die (s.op.wid % 1024)
    let h := (s.die die).hotOf core
    (s.op.flag = true → ∃ x, exec .registerWrite s = .next (s.answer fn true x) ∧
      (s.op.addr = 0x800 → x = (s.fn fn).abase) ∧ (s.op.addr = 0x810 → x = BitVec.ofNat 64 (s.fn fn).acons) ∧
      (∀ q, q < 8 → (s.op.addr = 0x1000 + 64 * q → x = (s.queue fn q).base) ∧ (s.op.addr = 0x1010 + 64 * q → x = 0) ∧
        (s.op.addr = 0x1020 + 64 * q → (x.getLsbD 2 = s.queuesFull fn ∧ x.getLsbD 1 = (s.queue fn q).badpkt ∧
          x.getLsbD 0 = (s.queue fn q).stale ∧ x.toNat < 8))) ∧
      (fn ≠ 0 → (s.op.addr = 0x100 ∨ s.op.addr = 0x200) → x = 0)) ∧
    (∀ q, q < 8 → s.op.flag = false → s.op.addr = 0x1000 + 64 * q →
      ∃ s', exec .registerWrite s = .next s' ∧ s'.mem = s.mem ∧
        (s'.queue fn q).base = if (s.queue fn q).en then (s.queue fn q).base else s.op.val) ∧
    (s.op.flag = false → s.op.addr = 0x800 → exec .registerWrite s = .next (s.setFn fn fun f => { f with abase := s.op.val })) ∧
    (s.op.flag = false → fn = 0 → s.op.addr = 0x200 → exec .registerWrite s = .next { s with functab := s.op.val.toNat % 2 ^ 41 / 4096 * 4096 }) ∧
    (s.op.flag = false → fn ≠ 0 → s.op.addr = 0x200 → exec .registerWrite s = .next s) ∧
    ((s.fn fn).waiting = [] →
      exec .assistRingConsume s = .next (s.setFn fn fun f => { f with acons := w.toNat % 2 ^ 32 }) ∧
      ∃ s', exec .assistRingEnable s = .next s' ∧ (s'.fn fn).aen = true ∧ s'.mem = s.mem) ∧
    (s.op.wid < 4 → ∃ s', exec .vectorUnmask s = .next s' ∧ (s'.fn fn).masked.getLsbD s.op.wid = false ∧
      (s'.fn fn).pending.getLsbD s.op.wid = false ∧
      let m := (s.fn fn).msgs.getD s.op.wid (0, 0)
      s'.out = (if (s.fn fn).pending.getLsbD s.op.wid && (s.fn fn).masked.getLsbD s.op.wid
        then [Out.msix fn s.op.wid m.1 m.2] else []) ++ s.out) ∧
    (∀ i d p, (i, d) ∈ [(Instr.hostApertureAccess, 0), (.peerIngressAccess, die)] → s.stall = none →
      s.op.size ∈ [1, 2, 4, 8] → s.op.addr % s.op.size = 0 → s.op.addr < 2 ^ 52 →
      s.vaAt ⟨d, fn, 0, [], 7, []⟩ s.op.addr s.op.flag = .ok p → p.lc = none →
      let no := peerNo s.op.vc (s.op.thr % 2 ^ 13)
      let free : Prop := i = .hostApertureAccess ∨ s.op.wid = 0 ∧ s.conflict no (s.peerClk no) p.loc p.slice s.op.flag false = none
      (free → s.reserved fn s.op.addr s.op.size = false → (i = .hostApertureAccess → s.sealedAt 0 fn s.op.addr = false) →
        (s.op.flag = false → s.poisonP p s.op.size = none →
          ∃ s', exec i s = .next s' ∧ s'.out = .answer fn true (BitVec.ofNat 64 (s.numP p s.op.size)) :: s.out ∧
            ({ s' with out := s.out } : State).bare = s.bare) ∧
        (s.op.flag = true → p.loc % 8 = p.addr % 8 → p.addr = s.op.addr → Memory.wf s.mem = true →
          (∀ j k, j < s.op.size → k < s.op.size → s.chan (p.loc + j) = s.chan (p.loc + k) → j = k) →
          ∃ s', exec i s = .next s' ∧ s'.out = .answer fn true 0 :: s.out ∧
            (∀ j < s.op.size, s'.byte (p.loc + j) = s.op.val.extractLsb' (8 * j) 8) ∧
            ∀ a, (∀ j < s.op.size, s.chan a ≠ s.chan (p.loc + j)) → s'.byte a = s.byte a)) ∧
      (i = .hostApertureAccess ∨ s.op.wid ≠ 3 → s.reserved fn s.op.addr s.op.size = true →
        exec i s = .next { s with out := .answer fn (i == .hostApertureAccess) 0 :: s.out })) ∧
    (bit (s.die die).split 4 = false → h.disabled < 8 →
      let slot (t : Thread) : Bool := t.fw.isNone && t.core == core && t.pslot + h.disabled == 7 && (s.away t || (s.vcore t.vu).resident)
      (s.threads.find? slot = none → ∃ s', exec .thermalCrossing s = .next s' ∧ s'.threads = s.threads ∧
        ((s'.die die).hotOf core).disabled = h.disabled + 1) ∧
      (∀ t c, s.threads.find? slot = some t → t.looping = false → s.leeCore die (s.fnOf t) core = some c → s.thread? t.uid = some t →
        ∃ s' t', exec .thermalCrossing s = .next s' ∧ s'.thread? t.uid = some t' ∧ t'.pc = t.pc ∧ t'.g = t.g ∧
          (t.inh = false → t'.core = c) ∧ (t.inh = true → t' = { t with displace := some c }) ∧
          ((s'.die die).hotOf core).disabled = h.disabled + 1)) ∧
    (∃ s', exec .slotReenable s = .next s' ∧ s'.threads = s.threads ∧ ((s'.die die).hotOf core).disabled = h.disabled - 1) ∧
    (∃ s', exec .powerInterval s = .next s' ∧ s'.threads = s.threads ∧ s'.mem = s.mem ∧
      ((s'.die 0).health.throt = true ↔ min 1600 (max 600 (s.die 0).health.pcap) < Config.power s.tick)) ∧
    (∃ s' x, exec .healthLatch s = .next s' ∧ (s'.die s.op.die).health.latched = (s.die s.op.die).health.live ∧
      (s'.die s.op.die).health.live = (s.die s.op.die).health.live ∧ s'.out = .answer 0 true x :: s.out ∧
      (s'.die s.op.die).health.latch = x) ∧
    (∃ s', exec .healthClear s = .next s' ∧ s'.threads = s.threads ∧ ∀ i : Fin 9, (s'.die s.op.die).health.live[i] =
      if w.getLsbD i.val then 0 else (s.die s.op.die).health.live[i]) ∧
    (∀ d loc dram, s.op.soft = .word d loc dram →
      let n (s : State) (i : Fin 9) : Nat := (s.die d).health.live[i]
      (s.op.flag = true → ∃ s', exec .softError s = .next s' ∧ s'.poisoned loc = true ∧ s'.mem = s.mem ∧
        n s' 2 = min (2 ^ 32 - 1) (n s 2 + 1)) ∧
      (s.op.flag = false → ∃ s', exec .softError s = .next s' ∧ s'.poison = s.poison ∧
        (if dram then n s' 1 = min (2 ^ 32 - 1) (n s 1 + 1) else n s' 0 = min (2 ^ 32 - 1) (n s 0 + 1)) ∧
        let ch := loc / 2 ^ 31
        let posts : Prop := dram = true ∧ loc < 2 ^ 39 ∧ (s.die (ch / 128)).split.getLsbD 3 = true ∧ Config.channelWorn s.tick = true
        (¬posts → s'.mem = s.mem ∧ s'.fns = s.fns) ∧
        (posts → (s.fn 0).aen = false → s'.mem = s.mem ∧ ∃ k, (s'.fn 0).waiting =
          (s.fn 0).waiting ++ [⟨4, ch / 128, [w64 (2 ^ 62 + ch), w64 k]⟩])))

/-- 22 R451 to R459: until READY every SPDM request is answered ResponseNotReady; then each request is answered as the connection
allows, by its own response; SEALKEY installs and erases a slot, or answers BOUND, FULL or INVALID with nothing changed; a function-level
reset erases the function's slots. The message codes are the model's (PRESUMED, notes/assumptions/5). -/
def Obligations.AttestationAndSealing : Prop :=
  ∀ s : State,
    let fn := s.op.fn
    let c := (s.fn fn).spdm
    let n := s.op.wid
    let chain := Config.spdmBytes 2 (b2n s.aliasKey)
    let answers (i : Instr) (code : Nat) (l : List Byte) (d : Spdm) : Prop :=
      ∃ s', exec i s = .next s' ∧ s'.out = .spdm fn code l :: s.out ∧ (s'.fn fn).spdm = d ∧ s'.mem = s.mem ∧ s'.keys = s.keys ∧
        s'.threads = s.threads
    let signed (i : Instr) (code : Nat) (l : List Byte) (d : Spdm) : Prop := ∃ sig, answers i code (l ++ sig) d
    (s.ready = false → ∀ i, i ∈ [Instr.getVersion, .getCapabilities, .negotiateAlgorithms, .getDigests, .getCertificate, .challenge,
      .getMeasurements, .keyExchange, .finish, .heartbeat, .endSession, .unsupportedSpdmRequest, .sealkeyInstall, .sealkeyErase] →
      answers i 0x7F [0x42] c) ∧
    (s.ready = true →
      answers .getVersion 0x04 [1, 0x00, 0x13] { version := true } ∧
      (c.version = false → ∀ i, i ∈ [Instr.getCapabilities, .negotiateAlgorithms, .getDigests, .getCertificate, .challenge,
        .getMeasurements, .keyExchange] → answers i 0x7F [0x04] c) ∧
      (c.version = true → answers .getCapabilities 0x61 (bytesOfNat 4 8918) { c with caps := true }) ∧
      (c.version = true → c.caps = true →
        (s.op.flag = true → answers .negotiateAlgorithms 0x63 [] { c with algs := true }) ∧
        (s.op.flag = false → answers .negotiateAlgorithms 0x7F [0x01] c)) ∧
      (c.version = true → c.caps = true → c.algs = true →
        answers .getDigests 0x01 (sha256 chain) c ∧
        (n = 0 → (chain.length ≤ s.op.addr → answers .getCertificate 0x7F [0x01] c) ∧
          (s.op.addr < chain.length → answers .getCertificate 0x02 ((chain.drop s.op.addr).take s.op.size) c) ∧
          signed .challenge 0x03 (bytesOfNat 32 s.op.nonce.toNat) c ∧ answers .getMeasurements 0x60 [8] c) ∧
        (1 ≤ n → answers .getCertificate 0x7F [0x01] c ∧ answers .challenge 0x7F [0x01] c) ∧
        (∀ d : BitVec 256, 1 ≤ n → n ≤ 7 → s.measured.find? (fun x => x.1 == n) = some (n, d) →
          signed .getMeasurements 0x60 (BitVec.ofNat 8 n :: bytesOfNat 32 d.toNat) c) ∧
        (n = 16 → signed .getMeasurements 0x60 (16 :: sha256 ((s.fn fn).part.flatMap (bytesOfNat 2) ++ s.bytes (s.funcDesc fn + 8) 16 ++
          (s.keys.filter fun k => k.fn == fn).flatMap fun k => bytesOfNat 2 k.slot)) c) ∧
        (c.session = none → signed .keyExchange 0x64 (bytesOfNat 2 (s.op.key.toNat % 2 ^ 16))
          { c with handshake := some (s.op.key.toNat % 2 ^ 16) })) ∧
      (c.handshake ≠ none → answers .finish 0x65 [] { c with session := c.handshake, handshake := none }) ∧
      (c.handshake = none → answers .finish 0x7F [0x04] c) ∧
      (c.session = some n → answers .heartbeat 0x68 [] c ∧ answers .endSession 0x6C [] { c with session := none }) ∧
      (c.session ≠ some n → answers .heartbeat 0x7F [0x04] c ∧ answers .endSession 0x7F [0x04] c) ∧
      answers .unsupportedSpdmRequest 0x7F [0x07, BitVec.ofNat 8 n] c ∧
      (let r := s.op.sealReq
       let slot := ruleSealSlot r
       let reply (res : Nat) : List Byte := [1, BitVec.ofNat 8 (ruleSealByte r 1), BitVec.ofNat 8 (ruleSealByte r 2),
         BitVec.ofNat 8 (ruleSealByte r 3), BitVec.ofNat 8 res, 0, 0, 0]
       (∀ i op, (i, op) ∈ [(Instr.sealkeyInstall, 1), (.sealkeyErase, 2)] →
         (ruleSealByte r 1 ≠ 3 - op → (¬SealGood r op ∨ c.session = none) → answers i 0x7E (reply 3) c) ∧
         (SealGood r op → c.session ≠ none → (∃ k ∈ s.keys, k.slot = slot ∧ k.fn ≠ fn) → answers i 0x7E (reply 1) c)) ∧
       (SealGood r 1 → c.session ≠ none →
         ((∀ k ∈ s.keys, k.slot ≠ slot) → ∃ s', exec .sealkeyInstall s = .next s' ∧ s'.out = .spdm fn 0x7E (reply 0) :: s.out ∧
           s'.keys = s.keys ++ [⟨slot, BitVec.ofNat 512 (natOfBytes (r.payload.drop 8)), fn⟩]) ∧
         ((∃ k ∈ s.keys, k.slot = slot) → (∀ k ∈ s.keys, k.slot = slot → k.fn = fn) → answers .sealkeyInstall 0x7E (reply 2) c)) ∧
       (SealGood r 2 → c.session ≠ none → (∀ k ∈ s.keys, k.slot = slot → k.fn = fn) → s.slotHeld slot = false →
         ∃ s', exec .sealkeyErase s = .next s' ∧ s'.out = .spdm fn 0x7E (reply 0) :: s.out ∧ s'.mem = s.mem ∧
           (∀ k, k ∈ s'.keys ↔ k ∈ s.keys ∧ k.slot ≠ slot) ∧
           ∀ x, x ∈ s'.tlb ↔ x ∈ s.tlb ∧ ¬(entSeal x.leaf = true ∧ entKey x.leaf = slot)))) ∧
    ((∀ k ∈ s.keys, k.fn = fn → s.slotHeld k.slot = false) →
      ∃ s', exec .functionLevelReset s = .next s' ∧ (s'.fn fn).spdm = {} ∧ s'.mem = s.mem ∧
        (∀ k ∈ s'.keys, k ∈ s.keys ∧ k.fn ≠ fn))

/-- 22 R451, R455, R459 to R462, 24 R466 to R468: the stages from reset to READY; discovery round by round, with parents in port order; the
boot stub flit by flit, its answers, the third failure; images checked when they are staged and when they start. -/
def Obligations.BootToReady : Prop :=
  ∀ s : State,
    let die := s.op.die
    let d := s.die die
    let base := mgmtBase (die % 2)
    let svn := max Config.fusedSvn s.svn
    (∃ s', exec .reset s = .next s' ∧ s'.ready = false ∧ s'.aliasKey = false ∧ s'.threads = [] ∧ s'.tasks = [] ∧ s'.keys = [] ∧
      s'.staged = [] ∧ s'.svn = s.svn ∧ s'.inputs = s.inputs ∧ (∀ i ∈ s.staged, i ∈ s'.images) ∧
      (∀ a, a < hostBase → peek s'.mem a = 0) ∧ (Memory.wf s.mem = true → ∀ a, hostBase ≤ a → peek s'.mem a = peek s.mem a) ∧
      ∀ n, (s'.die n).stage = 2 ∧ ∀ i, s'.images.find? (fun i => i.first) = some i → (s'.die n).err = ruleImageErr svn i) ∧
    (d.stage = 2 → d.err = 0 → ∃ s', exec .memoryTraining s = .next s' ∧ (s'.die die).stage = 3 ∧
      (s'.die die).err = if Config.trained (die % 2) then 0 else 3) ∧
    (d.err = 0 →
      (d.stage = 3 → ∃ s', exec .discoveryRound s = .next s' ∧ (s'.die die).stage = 4 ∧ (s'.die die).round = 1 ∧
        (s'.die die).sites = [{ s := 0, hop := 1, parent := 0xFFFF }] ∧ (Memory.wf s.mem = true → s'.num base 128 = 0)) ∧
      (d.stage = 4 → d.round ≠ 0 →
        ((∀ x p, ¬ruleReached die d d.round x p) →
          exec .discoveryRound s = .fault .notEnabled ∧
          (d.sites.all (·.returned) = true → ∃ s', exec .discoveryDone s = .next s' ∧
            (d.sites.length < 992 → (s'.die die).err = 4 ∧ (s'.die die).stage = 4) ∧
            (992 ≤ d.sites.length → (s'.die die).err = 0 ∧ (s'.die die).stage = 5 ∧ (s'.die die).attempt = 0))) ∧
        ((∃ x p, ruleReached die d d.round x p) →
          exec .discoveryDone s = .fault .notEnabled ∧
          ∃ s' l, exec .discoveryRound s = .next s' ∧ (s'.die die).round = d.round + 1 ∧ (s'.die die).sites = d.sites ++ l ∧
            s'.mem = s.mem ∧ ∀ y, y ∈ l ↔ ∃ x p, ruleReached die d d.round x p ∧ y = { s := x, hop := d.round + 1, parent := p })) ∧
      (∀ x, d.stage = 4 → d.site s.op.wid = some x → x.returned = false → x.s < 1024 → Memory.wf s.mem = true →
        ∃ s', exec .discoveryReturn s = .next s' ∧ (s'.die die).site x.s = some { x with returned := true } ∧
          s'.num (base + 0x100 + 2 * x.s) 2 = x.hop % 2 ^ 16 ∧ s'.num (base + 0x900 + 2 * x.s) 2 = x.parent % 2 ^ 16 ∧
          (s'.num (base + x.s / 8) 1).testBit (x.s % 8) = true) ∧
      (d.stage = 5 → (d.attempt = 0 ∨ (d.attempt < 3 ∧ ∃ x, d.site 0 = some x ∧ x.answered = some false)) →
        ∃ s', exec .multicastAttempt s = .next s' ∧ (s'.die die).attempt = d.attempt + 1 ∧ (Memory.wf s.mem = true → s'.num (base + 0x80) 128 = 0) ∧
          (s'.die die).sites = d.sites.map fun x => { x with flits := [], answered := none }) ∧
      (∀ x, d.stage = 5 → 0 < d.attempt → d.site s.op.wid = some x → s.op.size = x.flits.length → x.flits.length ≤ Config.stubFlits.toNat →
        let sent (ok : Bool) : Prop := ∃ s', exec .multicastFlit s = .next s' ∧ s'.mem = s.mem ∧
          (s'.die die).site x.s = some { x with flits := x.flits ++ [ok] }
        (x.s = 0 → sent (Config.flitOk s.tick)) ∧
        (∀ p b, x.s ≠ 0 → d.site x.parent = some p → p.flits[x.flits.length]? = some b →
          (∀ y ∈ (d.children p.s).takeWhile (fun y => y.s != x.s), x.flits.length < y.flits.length) →
          sent (b && Config.flitOk s.tick))) ∧
      (∀ x, d.stage = 5 → 0 < d.attempt → d.site s.op.wid = some x → x.flits.length = Config.stubFlits.toNat + 1 → x.answered = none →
        (∀ y ∈ d.children x.s, y.answered ≠ none) →
        let pass := (∀ b ∈ x.flits, b = true) ∧ ∀ y ∈ d.children x.s, y.answered = some true
        (x.s ≠ 0 → x.s < 1024 → ∃ s', exec .multicastAnswer s = .next s' ∧
          (pass → s'.mem = s.mem ∧ (s'.die die).site x.s = some { x with answered := some true }) ∧
          (¬pass → (s'.die die).site x.s = some { x with answered := some false }) ∧
          (false ∈ x.flits → Memory.wf s.mem = true → (s'.num (base + 0x80 + x.s / 8) 1).testBit (x.s % 8) = true)) ∧
        (x.s = 0 → pass → ∃ s', exec .multicastAnswer s = .next s' ∧ (s'.die die).stage = 6 ∧
          ∀ i, s.images.find? (fun i => !i.first) = some i → (s'.die die).err = ruleImageErr svn i) ∧
        (x.s = 0 → ¬pass → d.attempt < 3 → ∃ s', exec .multicastAnswer s = .next s' ∧ (s'.die die).stage = 5 ∧ (s'.die die).err = 0 ∧
          (s'.die die).site 0 = some { x with answered := some false }) ∧
        (x.s = 0 → ¬pass → d.attempt = 3 → ∃ s', exec .multicastAnswer s = .next s' ∧
          (∀ y ∈ (s'.die die).sites, ∃ z ∈ d.sites, z.s = y.s) ∧
          ((s'.die die).err = 0 → (s'.die die).stage = 6 ∧ 992 ≤ (s'.die die).sites.length)))) ∧
    (s.bothAt 6 = true → ∃ s', exec .dieJoin s = .next s' ∧ ∀ n, (s'.die n).stage = 7 ∧
      if Config.dieJoined s.tick then (s'.die n).joined = true ∧ (s'.die n).err = 0 else (s'.die n).err = 6) ∧
    (s.bothAt 7 = true → ∃ s', exec .aliasKeyDerivation s = .next s' ∧ s'.aliasKey = true ∧ s'.mem = s.mem ∧
      s'.measured.map (·.1) = [1, 2, 3, 4, 5, 6, 7] ∧ ∀ n, (s'.die n).stage = 8 ∧ (s'.die n).err = 0) ∧
    (s.bothAt 8 = true → ∃ s', exec .linkUp s = .next s' ∧ s'.ready = true ∧ s.svn ≤ s'.svn ∧
      (s.svn < s'.svn → ∃ i ∈ s.images, s'.svn = i.svn) ∧ ∀ n, (s'.die n).stage = 9 ∧ (s'.die n).err = 0) ∧
    (let i := s.op.img
     (ruleImageErr svn i ≠ 0 → exec .firmwareUpdateStage s = .next s) ∧
     (ruleImageErr svn i = 0 → ∃ s', exec .firmwareUpdateStage s = .next s' ∧ i ∈ s'.staged ∧ s'.images = s.images ∧ s'.svn = s.svn ∧
       s'.measured = s.measured ∧ s'.aliasKey = s.aliasKey))

/-! ## Encodings -/

/-- 09 R223 and the worked encodings of 09, 10 R254, 11, 12, 13, 14 and 15: words that the chapters print decode to the instructions that the
chapters write beside them, and the words that 10 R253 refuses are refused with its code and word. -/
def Obligations.PrintedWordsDecode : Prop :=
  (∀ x ∈ ([
    ([0x0804A604], .add ⟨6, 5, .imm 1⟩), ([0x0430A604], .add ⟨6, 5, .cw 12⟩), ([0x0C00A605, 1, 0], .add ⟨6, 5, .lit 1⟩),
    ([0x00082104], .add ⟨1, 1, .reg 2⟩), ([0x2268E540], .ld ⟨2, .small 1, false, false, 3, 2, 7, 5⟩),
    ([0x31882480], .vfma ⟨0, 3, 2, 1, 4⟩), ([0x00182384], .vaddS ⟨0, 0, 6, 1, 3⟩), ([0x301CC510], .div ⟨3, 5, 6, .reg 7⟩),
    ([0xFFA8C520], .br .lt 5 6 0x7FD), ([0x0000C50E, 0x0000C801, 0], .bfxu ⟨5, 6, 8, 3⟩), ([0x70000034], .eret),
    ([0x68150034], .sets 5 8), ([0x080C0058], .fence .die), ([0x18040058], .drain .mem), ([0x181400CC], .mpri 5),
    ([0x001889E2, 0x00000500, 0], .edins ⟨0, .reg 6, 4, 9, 5⟩), ([0x0000A0EE, 1, 0], .facc 0 5)] : List (List (BitVec 32) × Instr)),
    decodeWords (wordsOf x.1) = .ok x.2 ∧ encode x.2 = x.1) ∧
  ∀ x ∈ ([(0x1268E544, 4), (0x39882480, 8), (0x00000038, 1)] : List (BitVec 32 × Nat)), decodeWords (wordsOf [x.1]) = .bad x.2 0

/-- 10 R235 to R253: the decoder reads back every well-formed instruction from the words that the encoder gives it, whatever follows them in
memory. -/
def Obligations.DecodeAfterEncode : Prop :=
  ∀ i : Instr, i.wf = true → i.encoded = true →
    decodeWords (wordsOf (encode i)) = .ok i ∧ ∀ l, decodeBytes (bytesOfWords (encode i) ++ l) = .ok i

/-- 10 R235 to R253: whatever the decoder accepts is well-formed, and but for the illegal major it has no other encoding: encoding it gives
the words that it was read from. -/
def Obligations.EncodeAfterDecode : Prop :=
  ∀ (l : List (BitVec 32)) (i : Instr), decodeWords (wordsOf l) = .ok i →
    i.wf = true ∧ i.encoded = true ∧ (fMajor (l.getD 0 0) ≠ 0 → wordsOf (encode i) = wordsOf l)

/-! ## The machine as a whole -/

/-- 01 R10, 10 R235 to R253: where a core has the turn, the thread's instruction boundary passes and the bytes at its pc decode, the step is
the meaning of the decoded instruction, with the second half of its bundle where it leads one; and time passes. -/
def Obligations.StepRunsTheDecodedInstruction : Prop :=
  ∀ (s s1 : State) (key : Nat) (t : Thread) (rest : List Thread) (fresh : Bool) (l : List Byte) (i : Instr),
    nextAgent s s.agents = some (.core key) → s.pass key = (t :: rest, fresh) → (s.turned key t rest fresh).me.firstHeld = none →
    (s.turned key t rest fresh).boundary = .ok () s1 → s1.fetch s1.me.pc = .bytes l → decodeBytes l = .ok i →
    let w := (wordsOfBytes l).getD 0 0
    (∀ s2, exec i s1 = .next s2 → s2.second w (lenOfBytes l) s1.me = none → step s = .next s2.settled) ∧
    (∀ s2 s3 j, exec i s1 = .next s2 → s2.second w (lenOfBytes l) s1.me = some j →
      exec j (s2.upd fun u => { u with shadow := some { s1.me.snap with run := some s1.me.runnels } }) = .next s3 → step s = .next s3.settled)

/-- Every instruction of a program answers a next state wherever a thread is current: no operand and no mode of the thread stops the
machine, since what cannot go on raises an exception, waits or ends the task (01 R13 to R20, 11 R271, R272). -/
def Obligations.InstructionsAlwaysAnswer : Prop :=
  ∀ (i : Instr) (s : State) (t : Thread), i.encoded = true → s.cur = some t.uid → s.thread? t.uid = some t → ∃ s', exec i s = .next s'

/-- 03 R94: the machine never stops. In every state of the invariant a step answers a next state, in which no thread and no event is in
hand. -/
def Obligations.MachineNeverStops : Prop :=
  ∀ s : State, s.Inv → ∃ s', step s = .next s' ∧ s'.between

/-- The invariant holds after reset, and with it what 20 and 22 say that reset leaves: no task, no thread and no enabled queue, the ring of no
function enabled, not ready, no error, FUNCTAB and every key slot empty, ATTCFG as 06 R176 says, memory that reads zero (the last is the
model's choice, DESIGN CHOICE notes/assumptions/2). -/
def Obligations.ResetHoldsTheInvariant : Prop :=
  State.reset.Inv ∧ State.reset.between ∧ State.reset.ready = false ∧ State.reset.tasks = [] ∧ State.reset.threads = [] ∧
  State.reset.keys = [] ∧ State.reset.functab = 0 ∧ (∀ a, State.reset.byte a = 0 ∧ State.reset.full a = true ∧ State.reset.poisoned a = false) ∧
  (∀ fn q, q < 8 → (State.reset.queue fn q).en = false ∧ (State.reset.queue fn q).head = 0 ∧ (State.reset.queue fn q).kick = 0) ∧
  (∀ fn, (State.reset.fn fn).aen = false ∧ (State.reset.fn fn).spdm = {}) ∧
  ∀ d, (State.reset.die d).err = 0 ∧ (State.reset.die d).attcfg = 0x100800 ∧ (State.reset.die d).fbuf = Vector.replicate 8 none

/-- The invariant: every step from a state with memory in its canonical form, whose lanes hold back only instructions of programs, leaves
such a state (02 R48, 07 R200). -/
def Obligations.StepKeepsTheInvariant : Prop :=
  ∀ s s' : State, s.Inv → step s = .next s' → s'.Inv
end

