-- ==== Sys2Proof/Laws/State.lean ====
section
/-!
SUPPORT. What each named update of the state and of a thread leaves of every field: one lemma for each field and update.
-/
namespace Sys2Proof.Machine

/-! ### updT -/

@[simp] theorem State.updT_tick (s : State) (u : Nat) (f : Thread → Thread) : (s.updT u f).tick = s.tick := rfl
@[simp] theorem State.updT_order (s : State) (u : Nat) (f : Thread → Thread) : (s.updT u f).order = s.order := rfl
@[simp] theorem State.updT_nextUid (s : State) (u : Nat) (f : Thread → Thread) : (s.updT u f).nextUid = s.nextUid := rfl
@[simp] theorem State.updT_nextCmd (s : State) (u : Nat) (f : Thread → Thread) : (s.updT u f).nextCmd = s.nextCmd := rfl
@[simp] theorem State.updT_nextTask (s : State) (u : Nat) (f : Thread → Thread) : (s.updT u f).nextTask = s.nextTask := rfl
@[simp] theorem State.updT_cur (s : State) (u : Nat) (f : Thread → Thread) : (s.updT u f).cur = s.cur := rfl
@[simp] theorem State.updT_op (s : State) (u : Nat) (f : Thread → Thread) : (s.updT u f).op = s.op := rfl
@[simp] theorem State.updT_inputs (s : State) (u : Nat) (f : Thread → Thread) : (s.updT u f).inputs = s.inputs := rfl
@[simp] theorem State.updT_stall (s : State) (u : Nat) (f : Thread → Thread) : (s.updT u f).stall = s.stall := rfl
@[simp] theorem State.updT_out (s : State) (u : Nat) (f : Thread → Thread) : (s.updT u f).out = s.out := rfl
@[simp] theorem State.updT_mem (s : State) (u : Nat) (f : Thread → Thread) : (s.updT u f).mem = s.mem := rfl
@[simp] theorem State.updT_empty (s : State) (u : Nat) (f : Thread → Thread) : (s.updT u f).empty = s.empty := rfl
@[simp] theorem State.updT_poison (s : State) (u : Nat) (f : Thread → Thread) : (s.updT u f).poison = s.poison := rfl
@[simp] theorem State.updT_recs (s : State) (u : Nat) (f : Thread → Thread) : (s.updT u f).recs = s.recs := rfl
@[simp] theorem State.updT_vcores (s : State) (u : Nat) (f : Thread → Thread) : (s.updT u f).vcores = s.vcores := rfl
@[simp] theorem State.updT_tasks (s : State) (u : Nat) (f : Thread → Thread) : (s.updT u f).tasks = s.tasks := rfl
@[simp] theorem State.updT_cmds (s : State) (u : Nat) (f : Thread → Thread) : (s.updT u f).cmds = s.cmds := rfl
@[simp] theorem State.updT_matq (s : State) (u : Nat) (f : Thread → Thread) : (s.updT u f).matq = s.matq := rfl
@[simp] theorem State.updT_fills (s : State) (u : Nat) (f : Thread → Thread) : (s.updT u f).fills = s.fills := rfl
@[simp] theorem State.updT_turns (s : State) (u : Nat) (f : Thread → Thread) : (s.updT u f).turns = s.turns := rfl
@[simp] theorem State.updT_msgs (s : State) (u : Nat) (f : Thread → Thread) : (s.updT u f).msgs = s.msgs := rfl
@[simp] theorem State.updT_tlb (s : State) (u : Nat) (f : Thread → Thread) : (s.updT u f).tlb = s.tlb := rfl
@[simp] theorem State.updT_functab (s : State) (u : Nat) (f : Thread → Thread) : (s.updT u f).functab = s.functab := rfl
@[simp] theorem State.updT_dies (s : State) (u : Nat) (f : Thread → Thread) : (s.updT u f).dies = s.dies := rfl
@[simp] theorem State.updT_fns (s : State) (u : Nat) (f : Thread → Thread) : (s.updT u f).fns = s.fns := rfl
@[simp] theorem State.updT_ways (s : State) (u : Nat) (f : Thread → Thread) : (s.updT u f).ways = s.ways := rfl
@[simp] theorem State.updT_pins (s : State) (u : Nat) (f : Thread → Thread) : (s.updT u f).pins = s.pins := rfl
@[simp] theorem State.updT_past (s : State) (u : Nat) (f : Thread → Thread) : (s.updT u f).past = s.past := rfl
@[simp] theorem State.updT_peers (s : State) (u : Nat) (f : Thread → Thread) : (s.updT u f).peers = s.peers := rfl
@[simp] theorem State.updT_posted (s : State) (u : Nat) (f : Thread → Thread) : (s.updT u f).posted = s.posted := rfl
@[simp] theorem State.updT_ctxs (s : State) (u : Nat) (f : Thread → Thread) : (s.updT u f).ctxs = s.ctxs := rfl
@[simp] theorem State.updT_readers (s : State) (u : Nat) (f : Thread → Thread) : (s.updT u f).readers = s.readers := rfl
@[simp] theorem State.updT_retired (s : State) (u : Nat) (f : Thread → Thread) : (s.updT u f).retired = s.retired := rfl
@[simp] theorem State.updT_keys (s : State) (u : Nat) (f : Thread → Thread) : (s.updT u f).keys = s.keys := rfl
@[simp] theorem State.updT_ready (s : State) (u : Nat) (f : Thread → Thread) : (s.updT u f).ready = s.ready := rfl
@[simp] theorem State.updT_aliasKey (s : State) (u : Nat) (f : Thread → Thread) : (s.updT u f).aliasKey = s.aliasKey := rfl
@[simp] theorem State.updT_measured (s : State) (u : Nat) (f : Thread → Thread) : (s.updT u f).measured = s.measured := rfl
@[simp] theorem State.updT_staged (s : State) (u : Nat) (f : Thread → Thread) : (s.updT u f).staged = s.staged := rfl
@[simp] theorem State.updT_images (s : State) (u : Nat) (f : Thread → Thread) : (s.updT u f).images = s.images := rfl
@[simp] theorem State.updT_svn (s : State) (u : Nat) (f : Thread → Thread) : (s.updT u f).svn = s.svn := rfl

/-! ### setVcore -/

@[simp] theorem State.setVcore_tick (s : State) (u : Nat) (f : Vcore → Vcore) : (s.setVcore u f).tick = s.tick := rfl
@[simp] theorem State.setVcore_order (s : State) (u : Nat) (f : Vcore → Vcore) : (s.setVcore u f).order = s.order := rfl
@[simp] theorem State.setVcore_nextUid (s : State) (u : Nat) (f : Vcore → Vcore) : (s.setVcore u f).nextUid = s.nextUid := rfl
@[simp] theorem State.setVcore_nextCmd (s : State) (u : Nat) (f : Vcore → Vcore) : (s.setVcore u f).nextCmd = s.nextCmd := rfl
@[simp] theorem State.setVcore_nextTask (s : State) (u : Nat) (f : Vcore → Vcore) : (s.setVcore u f).nextTask = s.nextTask := rfl
@[simp] theorem State.setVcore_cur (s : State) (u : Nat) (f : Vcore → Vcore) : (s.setVcore u f).cur = s.cur := rfl
@[simp] theorem State.setVcore_op (s : State) (u : Nat) (f : Vcore → Vcore) : (s.setVcore u f).op = s.op := rfl
@[simp] theorem State.setVcore_inputs (s : State) (u : Nat) (f : Vcore → Vcore) : (s.setVcore u f).inputs = s.inputs := rfl
@[simp] theorem State.setVcore_stall (s : State) (u : Nat) (f : Vcore → Vcore) : (s.setVcore u f).stall = s.stall := rfl
@[simp] theorem State.setVcore_out (s : State) (u : Nat) (f : Vcore → Vcore) : (s.setVcore u f).out = s.out := rfl
@[simp] theorem State.setVcore_mem (s : State) (u : Nat) (f : Vcore → Vcore) : (s.setVcore u f).mem = s.mem := rfl
@[simp] theorem State.setVcore_empty (s : State) (u : Nat) (f : Vcore → Vcore) : (s.setVcore u f).empty = s.empty := rfl
@[simp] theorem State.setVcore_poison (s : State) (u : Nat) (f : Vcore → Vcore) : (s.setVcore u f).poison = s.poison := rfl
@[simp] theorem State.setVcore_recs (s : State) (u : Nat) (f : Vcore → Vcore) : (s.setVcore u f).recs = s.recs := rfl
@[simp] theorem State.setVcore_threads (s : State) (u : Nat) (f : Vcore → Vcore) : (s.setVcore u f).threads = s.threads := rfl
@[simp] theorem State.setVcore_tasks (s : State) (u : Nat) (f : Vcore → Vcore) : (s.setVcore u f).tasks = s.tasks := rfl
@[simp] theorem State.setVcore_cmds (s : State) (u : Nat) (f : Vcore → Vcore) : (s.setVcore u f).cmds = s.cmds := rfl
@[simp] theorem State.setVcore_matq (s : State) (u : Nat) (f : Vcore → Vcore) : (s.setVcore u f).matq = s.matq := rfl
@[simp] theorem State.setVcore_fills (s : State) (u : Nat) (f : Vcore → Vcore) : (s.setVcore u f).fills = s.fills := rfl
@[simp] theorem State.setVcore_turns (s : State) (u : Nat) (f : Vcore → Vcore) : (s.setVcore u f).turns = s.turns := rfl
@[simp] theorem State.setVcore_msgs (s : State) (u : Nat) (f : Vcore → Vcore) : (s.setVcore u f).msgs = s.msgs := rfl
@[simp] theorem State.setVcore_tlb (s : State) (u : Nat) (f : Vcore → Vcore) : (s.setVcore u f).tlb = s.tlb := rfl
@[simp] theorem State.setVcore_functab (s : State) (u : Nat) (f : Vcore → Vcore) : (s.setVcore u f).functab = s.functab := rfl
@[simp] theorem State.setVcore_dies (s : State) (u : Nat) (f : Vcore → Vcore) : (s.setVcore u f).dies = s.dies := rfl
@[simp] theorem State.setVcore_fns (s : State) (u : Nat) (f : Vcore → Vcore) : (s.setVcore u f).fns = s.fns := rfl
@[simp] theorem State.setVcore_ways (s : State) (u : Nat) (f : Vcore → Vcore) : (s.setVcore u f).ways = s.ways := rfl
@[simp] theorem State.setVcore_pins (s : State) (u : Nat) (f : Vcore → Vcore) : (s.setVcore u f).pins = s.pins := rfl
@[simp] theorem State.setVcore_past (s : State) (u : Nat) (f : Vcore → Vcore) : (s.setVcore u f).past = s.past := rfl
@[simp] theorem State.setVcore_peers (s : State) (u : Nat) (f : Vcore → Vcore) : (s.setVcore u f).peers = s.peers := rfl
@[simp] theorem State.setVcore_posted (s : State) (u : Nat) (f : Vcore → Vcore) : (s.setVcore u f).posted = s.posted := rfl
@[simp] theorem State.setVcore_ctxs (s : State) (u : Nat) (f : Vcore → Vcore) : (s.setVcore u f).ctxs = s.ctxs := rfl
@[simp] theorem State.setVcore_readers (s : State) (u : Nat) (f : Vcore → Vcore) : (s.setVcore u f).readers = s.readers := rfl
@[simp] theorem State.setVcore_retired (s : State) (u : Nat) (f : Vcore → Vcore) : (s.setVcore u f).retired = s.retired := rfl
@[simp] theorem State.setVcore_keys (s : State) (u : Nat) (f : Vcore → Vcore) : (s.setVcore u f).keys = s.keys := rfl
@[simp] theorem State.setVcore_ready (s : State) (u : Nat) (f : Vcore → Vcore) : (s.setVcore u f).ready = s.ready := rfl
@[simp] theorem State.setVcore_aliasKey (s : State) (u : Nat) (f : Vcore → Vcore) : (s.setVcore u f).aliasKey = s.aliasKey := rfl
@[simp] theorem State.setVcore_measured (s : State) (u : Nat) (f : Vcore → Vcore) : (s.setVcore u f).measured = s.measured := rfl
@[simp] theorem State.setVcore_staged (s : State) (u : Nat) (f : Vcore → Vcore) : (s.setVcore u f).staged = s.staged := rfl
@[simp] theorem State.setVcore_images (s : State) (u : Nat) (f : Vcore → Vcore) : (s.setVcore u f).images = s.images := rfl
@[simp] theorem State.setVcore_svn (s : State) (u : Nat) (f : Vcore → Vcore) : (s.setVcore u f).svn = s.svn := rfl

/-! ### setTask -/

@[simp] theorem State.setTask_tick (s : State) (n : Nat) (f : Task → Task) : (s.setTask n f).tick = s.tick := rfl
@[simp] theorem State.setTask_order (s : State) (n : Nat) (f : Task → Task) : (s.setTask n f).order = s.order := rfl
@[simp] theorem State.setTask_nextUid (s : State) (n : Nat) (f : Task → Task) : (s.setTask n f).nextUid = s.nextUid := rfl
@[simp] theorem State.setTask_nextCmd (s : State) (n : Nat) (f : Task → Task) : (s.setTask n f).nextCmd = s.nextCmd := rfl
@[simp] theorem State.setTask_nextTask (s : State) (n : Nat) (f : Task → Task) : (s.setTask n f).nextTask = s.nextTask := rfl
@[simp] theorem State.setTask_cur (s : State) (n : Nat) (f : Task → Task) : (s.setTask n f).cur = s.cur := rfl
@[simp] theorem State.setTask_op (s : State) (n : Nat) (f : Task → Task) : (s.setTask n f).op = s.op := rfl
@[simp] theorem State.setTask_inputs (s : State) (n : Nat) (f : Task → Task) : (s.setTask n f).inputs = s.inputs := rfl
@[simp] theorem State.setTask_stall (s : State) (n : Nat) (f : Task → Task) : (s.setTask n f).stall = s.stall := rfl
@[simp] theorem State.setTask_out (s : State) (n : Nat) (f : Task → Task) : (s.setTask n f).out = s.out := rfl
@[simp] theorem State.setTask_mem (s : State) (n : Nat) (f : Task → Task) : (s.setTask n f).mem = s.mem := rfl
@[simp] theorem State.setTask_empty (s : State) (n : Nat) (f : Task → Task) : (s.setTask n f).empty = s.empty := rfl
@[simp] theorem State.setTask_poison (s : State) (n : Nat) (f : Task → Task) : (s.setTask n f).poison = s.poison := rfl
@[simp] theorem State.setTask_recs (s : State) (n : Nat) (f : Task → Task) : (s.setTask n f).recs = s.recs := rfl
@[simp] theorem State.setTask_threads (s : State) (n : Nat) (f : Task → Task) : (s.setTask n f).threads = s.threads := rfl
@[simp] theorem State.setTask_vcores (s : State) (n : Nat) (f : Task → Task) : (s.setTask n f).vcores = s.vcores := rfl
@[simp] theorem State.setTask_cmds (s : State) (n : Nat) (f : Task → Task) : (s.setTask n f).cmds = s.cmds := rfl
@[simp] theorem State.setTask_matq (s : State) (n : Nat) (f : Task → Task) : (s.setTask n f).matq = s.matq := rfl
@[simp] theorem State.setTask_fills (s : State) (n : Nat) (f : Task → Task) : (s.setTask n f).fills = s.fills := rfl
@[simp] theorem State.setTask_turns (s : State) (n : Nat) (f : Task → Task) : (s.setTask n f).turns = s.turns := rfl
@[simp] theorem State.setTask_msgs (s : State) (n : Nat) (f : Task → Task) : (s.setTask n f).msgs = s.msgs := rfl
@[simp] theorem State.setTask_tlb (s : State) (n : Nat) (f : Task → Task) : (s.setTask n f).tlb = s.tlb := rfl
@[simp] theorem State.setTask_functab (s : State) (n : Nat) (f : Task → Task) : (s.setTask n f).functab = s.functab := rfl
@[simp] theorem State.setTask_dies (s : State) (n : Nat) (f : Task → Task) : (s.setTask n f).dies = s.dies := rfl
@[simp] theorem State.setTask_fns (s : State) (n : Nat) (f : Task → Task) : (s.setTask n f).fns = s.fns := rfl
@[simp] theorem State.setTask_ways (s : State) (n : Nat) (f : Task → Task) : (s.setTask n f).ways = s.ways := rfl
@[simp] theorem State.setTask_pins (s : State) (n : Nat) (f : Task → Task) : (s.setTask n f).pins = s.pins := rfl
@[simp] theorem State.setTask_past (s : State) (n : Nat) (f : Task → Task) : (s.setTask n f).past = s.past := rfl
@[simp] theorem State.setTask_peers (s : State) (n : Nat) (f : Task → Task) : (s.setTask n f).peers = s.peers := rfl
@[simp] theorem State.setTask_posted (s : State) (n : Nat) (f : Task → Task) : (s.setTask n f).posted = s.posted := rfl
@[simp] theorem State.setTask_ctxs (s : State) (n : Nat) (f : Task → Task) : (s.setTask n f).ctxs = s.ctxs := rfl
@[simp] theorem State.setTask_readers (s : State) (n : Nat) (f : Task → Task) : (s.setTask n f).readers = s.readers := rfl
@[simp] theorem State.setTask_retired (s : State) (n : Nat) (f : Task → Task) : (s.setTask n f).retired = s.retired := rfl
@[simp] theorem State.setTask_keys (s : State) (n : Nat) (f : Task → Task) : (s.setTask n f).keys = s.keys := rfl
@[simp] theorem State.setTask_ready (s : State) (n : Nat) (f : Task → Task) : (s.setTask n f).ready = s.ready := rfl
@[simp] theorem State.setTask_aliasKey (s : State) (n : Nat) (f : Task → Task) : (s.setTask n f).aliasKey = s.aliasKey := rfl
@[simp] theorem State.setTask_measured (s : State) (n : Nat) (f : Task → Task) : (s.setTask n f).measured = s.measured := rfl
@[simp] theorem State.setTask_staged (s : State) (n : Nat) (f : Task → Task) : (s.setTask n f).staged = s.staged := rfl
@[simp] theorem State.setTask_images (s : State) (n : Nat) (f : Task → Task) : (s.setTask n f).images = s.images := rfl
@[simp] theorem State.setTask_svn (s : State) (n : Nat) (f : Task → Task) : (s.setTask n f).svn = s.svn := rfl

/-! ### setCmd -/

@[simp] theorem State.setCmd_tick (s : State) (n : Nat) (f : Cmd → Cmd) : (s.setCmd n f).tick = s.tick := rfl
@[simp] theorem State.setCmd_order (s : State) (n : Nat) (f : Cmd → Cmd) : (s.setCmd n f).order = s.order := rfl
@[simp] theorem State.setCmd_nextUid (s : State) (n : Nat) (f : Cmd → Cmd) : (s.setCmd n f).nextUid = s.nextUid := rfl
@[simp] theorem State.setCmd_nextCmd (s : State) (n : Nat) (f : Cmd → Cmd) : (s.setCmd n f).nextCmd = s.nextCmd := rfl
@[simp] theorem State.setCmd_nextTask (s : State) (n : Nat) (f : Cmd → Cmd) : (s.setCmd n f).nextTask = s.nextTask := rfl
@[simp] theorem State.setCmd_cur (s : State) (n : Nat) (f : Cmd → Cmd) : (s.setCmd n f).cur = s.cur := rfl
@[simp] theorem State.setCmd_op (s : State) (n : Nat) (f : Cmd → Cmd) : (s.setCmd n f).op = s.op := rfl
@[simp] theorem State.setCmd_inputs (s : State) (n : Nat) (f : Cmd → Cmd) : (s.setCmd n f).inputs = s.inputs := rfl
@[simp] theorem State.setCmd_stall (s : State) (n : Nat) (f : Cmd → Cmd) : (s.setCmd n f).stall = s.stall := rfl
@[simp] theorem State.setCmd_out (s : State) (n : Nat) (f : Cmd → Cmd) : (s.setCmd n f).out = s.out := rfl
@[simp] theorem State.setCmd_mem (s : State) (n : Nat) (f : Cmd → Cmd) : (s.setCmd n f).mem = s.mem := rfl
@[simp] theorem State.setCmd_empty (s : State) (n : Nat) (f : Cmd → Cmd) : (s.setCmd n f).empty = s.empty := rfl
@[simp] theorem State.setCmd_poison (s : State) (n : Nat) (f : Cmd → Cmd) : (s.setCmd n f).poison = s.poison := rfl
@[simp] theorem State.setCmd_recs (s : State) (n : Nat) (f : Cmd → Cmd) : (s.setCmd n f).recs = s.recs := rfl
@[simp] theorem State.setCmd_threads (s : State) (n : Nat) (f : Cmd → Cmd) : (s.setCmd n f).threads = s.threads := rfl
@[simp] theorem State.setCmd_vcores (s : State) (n : Nat) (f : Cmd → Cmd) : (s.setCmd n f).vcores = s.vcores := rfl
@[simp] theorem State.setCmd_tasks (s : State) (n : Nat) (f : Cmd → Cmd) : (s.setCmd n f).tasks = s.tasks := rfl
@[simp] theorem State.setCmd_matq (s : State) (n : Nat) (f : Cmd → Cmd) : (s.setCmd n f).matq = s.matq := rfl
@[simp] theorem State.setCmd_fills (s : State) (n : Nat) (f : Cmd → Cmd) : (s.setCmd n f).fills = s.fills := rfl
@[simp] theorem State.setCmd_turns (s : State) (n : Nat) (f : Cmd → Cmd) : (s.setCmd n f).turns = s.turns := rfl
@[simp] theorem State.setCmd_msgs (s : State) (n : Nat) (f : Cmd → Cmd) : (s.setCmd n f).msgs = s.msgs := rfl
@[simp] theorem State.setCmd_tlb (s : State) (n : Nat) (f : Cmd → Cmd) : (s.setCmd n f).tlb = s.tlb := rfl
@[simp] theorem State.setCmd_functab (s : State) (n : Nat) (f : Cmd → Cmd) : (s.setCmd n f).functab = s.functab := rfl
@[simp] theorem State.setCmd_dies (s : State) (n : Nat) (f : Cmd → Cmd) : (s.setCmd n f).dies = s.dies := rfl
@[simp] theorem State.setCmd_fns (s : State) (n : Nat) (f : Cmd → Cmd) : (s.setCmd n f).fns = s.fns := rfl
@[simp] theorem State.setCmd_ways (s : State) (n : Nat) (f : Cmd → Cmd) : (s.setCmd n f).ways = s.ways := rfl
@[simp] theorem State.setCmd_pins (s : State) (n : Nat) (f : Cmd → Cmd) : (s.setCmd n f).pins = s.pins := rfl
@[simp] theorem State.setCmd_past (s : State) (n : Nat) (f : Cmd → Cmd) : (s.setCmd n f).past = s.past := rfl
@[simp] theorem State.setCmd_peers (s : State) (n : Nat) (f : Cmd → Cmd) : (s.setCmd n f).peers = s.peers := rfl
@[simp] theorem State.setCmd_posted (s : State) (n : Nat) (f : Cmd → Cmd) : (s.setCmd n f).posted = s.posted := rfl
@[simp] theorem State.setCmd_ctxs (s : State) (n : Nat) (f : Cmd → Cmd) : (s.setCmd n f).ctxs = s.ctxs := rfl
@[simp] theorem State.setCmd_readers (s : State) (n : Nat) (f : Cmd → Cmd) : (s.setCmd n f).readers = s.readers := rfl
@[simp] theorem State.setCmd_retired (s : State) (n : Nat) (f : Cmd → Cmd) : (s.setCmd n f).retired = s.retired := rfl
@[simp] theorem State.setCmd_keys (s : State) (n : Nat) (f : Cmd → Cmd) : (s.setCmd n f).keys = s.keys := rfl
@[simp] theorem State.setCmd_ready (s : State) (n : Nat) (f : Cmd → Cmd) : (s.setCmd n f).ready = s.ready := rfl
@[simp] theorem State.setCmd_aliasKey (s : State) (n : Nat) (f : Cmd → Cmd) : (s.setCmd n f).aliasKey = s.aliasKey := rfl
@[simp] theorem State.setCmd_measured (s : State) (n : Nat) (f : Cmd → Cmd) : (s.setCmd n f).measured = s.measured := rfl
@[simp] theorem State.setCmd_staged (s : State) (n : Nat) (f : Cmd → Cmd) : (s.setCmd n f).staged = s.staged := rfl
@[simp] theorem State.setCmd_images (s : State) (n : Nat) (f : Cmd → Cmd) : (s.setCmd n f).images = s.images := rfl
@[simp] theorem State.setCmd_svn (s : State) (n : Nat) (f : Cmd → Cmd) : (s.setCmd n f).svn = s.svn := rfl

/-! ### setCtx -/

@[simp] theorem State.setCtx_tick (s : State) (n : Nat) (f : Ctx → Ctx) : (s.setCtx n f).tick = s.tick := rfl
@[simp] theorem State.setCtx_order (s : State) (n : Nat) (f : Ctx → Ctx) : (s.setCtx n f).order = s.order := rfl
@[simp] theorem State.setCtx_nextUid (s : State) (n : Nat) (f : Ctx → Ctx) : (s.setCtx n f).nextUid = s.nextUid := rfl
@[simp] theorem State.setCtx_nextCmd (s : State) (n : Nat) (f : Ctx → Ctx) : (s.setCtx n f).nextCmd = s.nextCmd := rfl
@[simp] theorem State.setCtx_nextTask (s : State) (n : Nat) (f : Ctx → Ctx) : (s.setCtx n f).nextTask = s.nextTask := rfl
@[simp] theorem State.setCtx_cur (s : State) (n : Nat) (f : Ctx → Ctx) : (s.setCtx n f).cur = s.cur := rfl
@[simp] theorem State.setCtx_op (s : State) (n : Nat) (f : Ctx → Ctx) : (s.setCtx n f).op = s.op := rfl
@[simp] theorem State.setCtx_inputs (s : State) (n : Nat) (f : Ctx → Ctx) : (s.setCtx n f).inputs = s.inputs := rfl
@[simp] theorem State.setCtx_stall (s : State) (n : Nat) (f : Ctx → Ctx) : (s.setCtx n f).stall = s.stall := rfl
@[simp] theorem State.setCtx_out (s : State) (n : Nat) (f : Ctx → Ctx) : (s.setCtx n f).out = s.out := rfl
@[simp] theorem State.setCtx_mem (s : State) (n : Nat) (f : Ctx → Ctx) : (s.setCtx n f).mem = s.mem := rfl
@[simp] theorem State.setCtx_empty (s : State) (n : Nat) (f : Ctx → Ctx) : (s.setCtx n f).empty = s.empty := rfl
@[simp] theorem State.setCtx_poison (s : State) (n : Nat) (f : Ctx → Ctx) : (s.setCtx n f).poison = s.poison := rfl
@[simp] theorem State.setCtx_recs (s : State) (n : Nat) (f : Ctx → Ctx) : (s.setCtx n f).recs = s.recs := rfl
@[simp] theorem State.setCtx_threads (s : State) (n : Nat) (f : Ctx → Ctx) : (s.setCtx n f).threads = s.threads := rfl
@[simp] theorem State.setCtx_vcores (s : State) (n : Nat) (f : Ctx → Ctx) : (s.setCtx n f).vcores = s.vcores := rfl
@[simp] theorem State.setCtx_tasks (s : State) (n : Nat) (f : Ctx → Ctx) : (s.setCtx n f).tasks = s.tasks := rfl
@[simp] theorem State.setCtx_cmds (s : State) (n : Nat) (f : Ctx → Ctx) : (s.setCtx n f).cmds = s.cmds := rfl
@[simp] theorem State.setCtx_matq (s : State) (n : Nat) (f : Ctx → Ctx) : (s.setCtx n f).matq = s.matq := rfl
@[simp] theorem State.setCtx_fills (s : State) (n : Nat) (f : Ctx → Ctx) : (s.setCtx n f).fills = s.fills := rfl
@[simp] theorem State.setCtx_turns (s : State) (n : Nat) (f : Ctx → Ctx) : (s.setCtx n f).turns = s.turns := rfl
@[simp] theorem State.setCtx_msgs (s : State) (n : Nat) (f : Ctx → Ctx) : (s.setCtx n f).msgs = s.msgs := rfl
@[simp] theorem State.setCtx_tlb (s : State) (n : Nat) (f : Ctx → Ctx) : (s.setCtx n f).tlb = s.tlb := rfl
@[simp] theorem State.setCtx_functab (s : State) (n : Nat) (f : Ctx → Ctx) : (s.setCtx n f).functab = s.functab := rfl
@[simp] theorem State.setCtx_dies (s : State) (n : Nat) (f : Ctx → Ctx) : (s.setCtx n f).dies = s.dies := rfl
@[simp] theorem State.setCtx_fns (s : State) (n : Nat) (f : Ctx → Ctx) : (s.setCtx n f).fns = s.fns := rfl
@[simp] theorem State.setCtx_ways (s : State) (n : Nat) (f : Ctx → Ctx) : (s.setCtx n f).ways = s.ways := rfl
@[simp] theorem State.setCtx_pins (s : State) (n : Nat) (f : Ctx → Ctx) : (s.setCtx n f).pins = s.pins := rfl
@[simp] theorem State.setCtx_past (s : State) (n : Nat) (f : Ctx → Ctx) : (s.setCtx n f).past = s.past := rfl
@[simp] theorem State.setCtx_peers (s : State) (n : Nat) (f : Ctx → Ctx) : (s.setCtx n f).peers = s.peers := rfl
@[simp] theorem State.setCtx_posted (s : State) (n : Nat) (f : Ctx → Ctx) : (s.setCtx n f).posted = s.posted := rfl
@[simp] theorem State.setCtx_readers (s : State) (n : Nat) (f : Ctx → Ctx) : (s.setCtx n f).readers = s.readers := rfl
@[simp] theorem State.setCtx_retired (s : State) (n : Nat) (f : Ctx → Ctx) : (s.setCtx n f).retired = s.retired := rfl
@[simp] theorem State.setCtx_keys (s : State) (n : Nat) (f : Ctx → Ctx) : (s.setCtx n f).keys = s.keys := rfl
@[simp] theorem State.setCtx_ready (s : State) (n : Nat) (f : Ctx → Ctx) : (s.setCtx n f).ready = s.ready := rfl
@[simp] theorem State.setCtx_aliasKey (s : State) (n : Nat) (f : Ctx → Ctx) : (s.setCtx n f).aliasKey = s.aliasKey := rfl
@[simp] theorem State.setCtx_measured (s : State) (n : Nat) (f : Ctx → Ctx) : (s.setCtx n f).measured = s.measured := rfl
@[simp] theorem State.setCtx_staged (s : State) (n : Nat) (f : Ctx → Ctx) : (s.setCtx n f).staged = s.staged := rfl
@[simp] theorem State.setCtx_images (s : State) (n : Nat) (f : Ctx → Ctx) : (s.setCtx n f).images = s.images := rfl
@[simp] theorem State.setCtx_svn (s : State) (n : Nat) (f : Ctx → Ctx) : (s.setCtx n f).svn = s.svn := rfl

/-! ### setByte -/

@[simp] theorem State.setByte_tick (s : State) (a : Nat) (b : Byte) : (s.setByte a b).tick = s.tick := rfl
@[simp] theorem State.setByte_order (s : State) (a : Nat) (b : Byte) : (s.setByte a b).order = s.order := rfl
@[simp] theorem State.setByte_nextUid (s : State) (a : Nat) (b : Byte) : (s.setByte a b).nextUid = s.nextUid := rfl
@[simp] theorem State.setByte_nextCmd (s : State) (a : Nat) (b : Byte) : (s.setByte a b).nextCmd = s.nextCmd := rfl
@[simp] theorem State.setByte_nextTask (s : State) (a : Nat) (b : Byte) : (s.setByte a b).nextTask = s.nextTask := rfl
@[simp] theorem State.setByte_cur (s : State) (a : Nat) (b : Byte) : (s.setByte a b).cur = s.cur := rfl
@[simp] theorem State.setByte_op (s : State) (a : Nat) (b : Byte) : (s.setByte a b).op = s.op := rfl
@[simp] theorem State.setByte_inputs (s : State) (a : Nat) (b : Byte) : (s.setByte a b).inputs = s.inputs := rfl
@[simp] theorem State.setByte_stall (s : State) (a : Nat) (b : Byte) : (s.setByte a b).stall = s.stall := rfl
@[simp] theorem State.setByte_out (s : State) (a : Nat) (b : Byte) : (s.setByte a b).out = s.out := rfl
@[simp] theorem State.setByte_empty (s : State) (a : Nat) (b : Byte) : (s.setByte a b).empty = s.empty := rfl
@[simp] theorem State.setByte_poison (s : State) (a : Nat) (b : Byte) : (s.setByte a b).poison = s.poison := rfl
@[simp] theorem State.setByte_recs (s : State) (a : Nat) (b : Byte) : (s.setByte a b).recs = s.recs := rfl
@[simp] theorem State.setByte_threads (s : State) (a : Nat) (b : Byte) : (s.setByte a b).threads = s.threads := rfl
@[simp] theorem State.setByte_vcores (s : State) (a : Nat) (b : Byte) : (s.setByte a b).vcores = s.vcores := rfl
@[simp] theorem State.setByte_tasks (s : State) (a : Nat) (b : Byte) : (s.setByte a b).tasks = s.tasks := rfl
@[simp] theorem State.setByte_cmds (s : State) (a : Nat) (b : Byte) : (s.setByte a b).cmds = s.cmds := rfl
@[simp] theorem State.setByte_matq (s : State) (a : Nat) (b : Byte) : (s.setByte a b).matq = s.matq := rfl
@[simp] theorem State.setByte_fills (s : State) (a : Nat) (b : Byte) : (s.setByte a b).fills = s.fills := rfl
@[simp] theorem State.setByte_turns (s : State) (a : Nat) (b : Byte) : (s.setByte a b).turns = s.turns := rfl
@[simp] theorem State.setByte_msgs (s : State) (a : Nat) (b : Byte) : (s.setByte a b).msgs = s.msgs := rfl
@[simp] theorem State.setByte_tlb (s : State) (a : Nat) (b : Byte) : (s.setByte a b).tlb = s.tlb := rfl
@[simp] theorem State.setByte_functab (s : State) (a : Nat) (b : Byte) : (s.setByte a b).functab = s.functab := rfl
@[simp] theorem State.setByte_dies (s : State) (a : Nat) (b : Byte) : (s.setByte a b).dies = s.dies := rfl
@[simp] theorem State.setByte_fns (s : State) (a : Nat) (b : Byte) : (s.setByte a b).fns = s.fns := rfl
@[simp] theorem State.setByte_ways (s : State) (a : Nat) (b : Byte) : (s.setByte a b).ways = s.ways := rfl
@[simp] theorem State.setByte_pins (s : State) (a : Nat) (b : Byte) : (s.setByte a b).pins = s.pins := rfl
@[simp] theorem State.setByte_past (s : State) (a : Nat) (b : Byte) : (s.setByte a b).past = s.past := rfl
@[simp] theorem State.setByte_peers (s : State) (a : Nat) (b : Byte) : (s.setByte a b).peers = s.peers := rfl
@[simp] theorem State.setByte_posted (s : State) (a : Nat) (b : Byte) : (s.setByte a b).posted = s.posted := rfl
@[simp] theorem State.setByte_ctxs (s : State) (a : Nat) (b : Byte) : (s.setByte a b).ctxs = s.ctxs := rfl
@[simp] theorem State.setByte_readers (s : State) (a : Nat) (b : Byte) : (s.setByte a b).readers = s.readers := rfl
@[simp] theorem State.setByte_retired (s : State) (a : Nat) (b : Byte) : (s.setByte a b).retired = s.retired := rfl
@[simp] theorem State.setByte_keys (s : State) (a : Nat) (b : Byte) : (s.setByte a b).keys = s.keys := rfl
@[simp] theorem State.setByte_ready (s : State) (a : Nat) (b : Byte) : (s.setByte a b).ready = s.ready := rfl
@[simp] theorem State.setByte_aliasKey (s : State) (a : Nat) (b : Byte) : (s.setByte a b).aliasKey = s.aliasKey := rfl
@[simp] theorem State.setByte_measured (s : State) (a : Nat) (b : Byte) : (s.setByte a b).measured = s.measured := rfl
@[simp] theorem State.setByte_staged (s : State) (a : Nat) (b : Byte) : (s.setByte a b).staged = s.staged := rfl
@[simp] theorem State.setByte_images (s : State) (a : Nat) (b : Byte) : (s.setByte a b).images = s.images := rfl
@[simp] theorem State.setByte_svn (s : State) (a : Nat) (b : Byte) : (s.setByte a b).svn = s.svn := rfl

/-! ### setFull -/

@[simp] theorem State.setFull_tick (s : State) (a : Nat) (b : Bool) : (s.setFull a b).tick = s.tick := rfl
@[simp] theorem State.setFull_order (s : State) (a : Nat) (b : Bool) : (s.setFull a b).order = s.order := rfl
@[simp] theorem State.setFull_nextUid (s : State) (a : Nat) (b : Bool) : (s.setFull a b).nextUid = s.nextUid := rfl
@[simp] theorem State.setFull_nextCmd (s : State) (a : Nat) (b : Bool) : (s.setFull a b).nextCmd = s.nextCmd := rfl
@[simp] theorem State.setFull_nextTask (s : State) (a : Nat) (b : Bool) : (s.setFull a b).nextTask = s.nextTask := rfl
@[simp] theorem State.setFull_cur (s : State) (a : Nat) (b : Bool) : (s.setFull a b).cur = s.cur := rfl
@[simp] theorem State.setFull_op (s : State) (a : Nat) (b : Bool) : (s.setFull a b).op = s.op := rfl
@[simp] theorem State.setFull_inputs (s : State) (a : Nat) (b : Bool) : (s.setFull a b).inputs = s.inputs := rfl
@[simp] theorem State.setFull_stall (s : State) (a : Nat) (b : Bool) : (s.setFull a b).stall = s.stall := rfl
@[simp] theorem State.setFull_out (s : State) (a : Nat) (b : Bool) : (s.setFull a b).out = s.out := rfl
@[simp] theorem State.setFull_mem (s : State) (a : Nat) (b : Bool) : (s.setFull a b).mem = s.mem := rfl
@[simp] theorem State.setFull_poison (s : State) (a : Nat) (b : Bool) : (s.setFull a b).poison = s.poison := rfl
@[simp] theorem State.setFull_recs (s : State) (a : Nat) (b : Bool) : (s.setFull a b).recs = s.recs := rfl
@[simp] theorem State.setFull_threads (s : State) (a : Nat) (b : Bool) : (s.setFull a b).threads = s.threads := rfl
@[simp] theorem State.setFull_vcores (s : State) (a : Nat) (b : Bool) : (s.setFull a b).vcores = s.vcores := rfl
@[simp] theorem State.setFull_tasks (s : State) (a : Nat) (b : Bool) : (s.setFull a b).tasks = s.tasks := rfl
@[simp] theorem State.setFull_cmds (s : State) (a : Nat) (b : Bool) : (s.setFull a b).cmds = s.cmds := rfl
@[simp] theorem State.setFull_matq (s : State) (a : Nat) (b : Bool) : (s.setFull a b).matq = s.matq := rfl
@[simp] theorem State.setFull_fills (s : State) (a : Nat) (b : Bool) : (s.setFull a b).fills = s.fills := rfl
@[simp] theorem State.setFull_turns (s : State) (a : Nat) (b : Bool) : (s.setFull a b).turns = s.turns := rfl
@[simp] theorem State.setFull_msgs (s : State) (a : Nat) (b : Bool) : (s.setFull a b).msgs = s.msgs := rfl
@[simp] theorem State.setFull_tlb (s : State) (a : Nat) (b : Bool) : (s.setFull a b).tlb = s.tlb := rfl
@[simp] theorem State.setFull_functab (s : State) (a : Nat) (b : Bool) : (s.setFull a b).functab = s.functab := rfl
@[simp] theorem State.setFull_dies (s : State) (a : Nat) (b : Bool) : (s.setFull a b).dies = s.dies := rfl
@[simp] theorem State.setFull_fns (s : State) (a : Nat) (b : Bool) : (s.setFull a b).fns = s.fns := rfl
@[simp] theorem State.setFull_ways (s : State) (a : Nat) (b : Bool) : (s.setFull a b).ways = s.ways := rfl
@[simp] theorem State.setFull_pins (s : State) (a : Nat) (b : Bool) : (s.setFull a b).pins = s.pins := rfl
@[simp] theorem State.setFull_past (s : State) (a : Nat) (b : Bool) : (s.setFull a b).past = s.past := rfl
@[simp] theorem State.setFull_peers (s : State) (a : Nat) (b : Bool) : (s.setFull a b).peers = s.peers := rfl
@[simp] theorem State.setFull_posted (s : State) (a : Nat) (b : Bool) : (s.setFull a b).posted = s.posted := rfl
@[simp] theorem State.setFull_ctxs (s : State) (a : Nat) (b : Bool) : (s.setFull a b).ctxs = s.ctxs := rfl
@[simp] theorem State.setFull_readers (s : State) (a : Nat) (b : Bool) : (s.setFull a b).readers = s.readers := rfl
@[simp] theorem State.setFull_retired (s : State) (a : Nat) (b : Bool) : (s.setFull a b).retired = s.retired := rfl
@[simp] theorem State.setFull_keys (s : State) (a : Nat) (b : Bool) : (s.setFull a b).keys = s.keys := rfl
@[simp] theorem State.setFull_ready (s : State) (a : Nat) (b : Bool) : (s.setFull a b).ready = s.ready := rfl
@[simp] theorem State.setFull_aliasKey (s : State) (a : Nat) (b : Bool) : (s.setFull a b).aliasKey = s.aliasKey := rfl
@[simp] theorem State.setFull_measured (s : State) (a : Nat) (b : Bool) : (s.setFull a b).measured = s.measured := rfl
@[simp] theorem State.setFull_staged (s : State) (a : Nat) (b : Bool) : (s.setFull a b).staged = s.staged := rfl
@[simp] theorem State.setFull_images (s : State) (a : Nat) (b : Bool) : (s.setFull a b).images = s.images := rfl
@[simp] theorem State.setFull_svn (s : State) (a : Nat) (b : Bool) : (s.setFull a b).svn = s.svn := rfl

/-! ### setPoison -/

@[simp] theorem State.setPoison_tick (s : State) (a : Nat) (b : Bool) : (s.setPoison a b).tick = s.tick := rfl
@[simp] theorem State.setPoison_order (s : State) (a : Nat) (b : Bool) : (s.setPoison a b).order = s.order := rfl
@[simp] theorem State.setPoison_nextUid (s : State) (a : Nat) (b : Bool) : (s.setPoison a b).nextUid = s.nextUid := rfl
@[simp] theorem State.setPoison_nextCmd (s : State) (a : Nat) (b : Bool) : (s.setPoison a b).nextCmd = s.nextCmd := rfl
@[simp] theorem State.setPoison_nextTask (s : State) (a : Nat) (b : Bool) : (s.setPoison a b).nextTask = s.nextTask := rfl
@[simp] theorem State.setPoison_cur (s : State) (a : Nat) (b : Bool) : (s.setPoison a b).cur = s.cur := rfl
@[simp] theorem State.setPoison_op (s : State) (a : Nat) (b : Bool) : (s.setPoison a b).op = s.op := rfl
@[simp] theorem State.setPoison_inputs (s : State) (a : Nat) (b : Bool) : (s.setPoison a b).inputs = s.inputs := rfl
@[simp] theorem State.setPoison_stall (s : State) (a : Nat) (b : Bool) : (s.setPoison a b).stall = s.stall := rfl
@[simp] theorem State.setPoison_out (s : State) (a : Nat) (b : Bool) : (s.setPoison a b).out = s.out := rfl
@[simp] theorem State.setPoison_mem (s : State) (a : Nat) (b : Bool) : (s.setPoison a b).mem = s.mem := rfl
@[simp] theorem State.setPoison_empty (s : State) (a : Nat) (b : Bool) : (s.setPoison a b).empty = s.empty := rfl
@[simp] theorem State.setPoison_recs (s : State) (a : Nat) (b : Bool) : (s.setPoison a b).recs = s.recs := rfl
@[simp] theorem State.setPoison_threads (s : State) (a : Nat) (b : Bool) : (s.setPoison a b).threads = s.threads := rfl
@[simp] theorem State.setPoison_vcores (s : State) (a : Nat) (b : Bool) : (s.setPoison a b).vcores = s.vcores := rfl
@[simp] theorem State.setPoison_tasks (s : State) (a : Nat) (b : Bool) : (s.setPoison a b).tasks = s.tasks := rfl
@[simp] theorem State.setPoison_cmds (s : State) (a : Nat) (b : Bool) : (s.setPoison a b).cmds = s.cmds := rfl
@[simp] theorem State.setPoison_matq (s : State) (a : Nat) (b : Bool) : (s.setPoison a b).matq = s.matq := rfl
@[simp] theorem State.setPoison_fills (s : State) (a : Nat) (b : Bool) : (s.setPoison a b).fills = s.fills := rfl
@[simp] theorem State.setPoison_turns (s : State) (a : Nat) (b : Bool) : (s.setPoison a b).turns = s.turns := rfl
@[simp] theorem State.setPoison_msgs (s : State) (a : Nat) (b : Bool) : (s.setPoison a b).msgs = s.msgs := rfl
@[simp] theorem State.setPoison_tlb (s : State) (a : Nat) (b : Bool) : (s.setPoison a b).tlb = s.tlb := rfl
@[simp] theorem State.setPoison_functab (s : State) (a : Nat) (b : Bool) : (s.setPoison a b).functab = s.functab := rfl
@[simp] theorem State.setPoison_dies (s : State) (a : Nat) (b : Bool) : (s.setPoison a b).dies = s.dies := rfl
@[simp] theorem State.setPoison_fns (s : State) (a : Nat) (b : Bool) : (s.setPoison a b).fns = s.fns := rfl
@[simp] theorem State.setPoison_ways (s : State) (a : Nat) (b : Bool) : (s.setPoison a b).ways = s.ways := rfl
@[simp] theorem State.setPoison_pins (s : State) (a : Nat) (b : Bool) : (s.setPoison a b).pins = s.pins := rfl
@[simp] theorem State.setPoison_past (s : State) (a : Nat) (b : Bool) : (s.setPoison a b).past = s.past := rfl
@[simp] theorem State.setPoison_peers (s : State) (a : Nat) (b : Bool) : (s.setPoison a b).peers = s.peers := rfl
@[simp] theorem State.setPoison_posted (s : State) (a : Nat) (b : Bool) : (s.setPoison a b).posted = s.posted := rfl
@[simp] theorem State.setPoison_ctxs (s : State) (a : Nat) (b : Bool) : (s.setPoison a b).ctxs = s.ctxs := rfl
@[simp] theorem State.setPoison_readers (s : State) (a : Nat) (b : Bool) : (s.setPoison a b).readers = s.readers := rfl
@[simp] theorem State.setPoison_retired (s : State) (a : Nat) (b : Bool) : (s.setPoison a b).retired = s.retired := rfl
@[simp] theorem State.setPoison_keys (s : State) (a : Nat) (b : Bool) : (s.setPoison a b).keys = s.keys := rfl
@[simp] theorem State.setPoison_ready (s : State) (a : Nat) (b : Bool) : (s.setPoison a b).ready = s.ready := rfl
@[simp] theorem State.setPoison_aliasKey (s : State) (a : Nat) (b : Bool) : (s.setPoison a b).aliasKey = s.aliasKey := rfl
@[simp] theorem State.setPoison_measured (s : State) (a : Nat) (b : Bool) : (s.setPoison a b).measured = s.measured := rfl
@[simp] theorem State.setPoison_staged (s : State) (a : Nat) (b : Bool) : (s.setPoison a b).staged = s.staged := rfl
@[simp] theorem State.setPoison_images (s : State) (a : Nat) (b : Bool) : (s.setPoison a b).images = s.images := rfl
@[simp] theorem State.setPoison_svn (s : State) (a : Nat) (b : Bool) : (s.setPoison a b).svn = s.svn := rfl

/-! ### setRec -/

@[simp] theorem State.setRec_tick (s : State) (a : Nat) (f : WordRec → WordRec) : (s.setRec a f).tick = s.tick := rfl
@[simp] theorem State.setRec_order (s : State) (a : Nat) (f : WordRec → WordRec) : (s.setRec a f).order = s.order := rfl
@[simp] theorem State.setRec_nextUid (s : State) (a : Nat) (f : WordRec → WordRec) : (s.setRec a f).nextUid = s.nextUid := rfl
@[simp] theorem State.setRec_nextCmd (s : State) (a : Nat) (f : WordRec → WordRec) : (s.setRec a f).nextCmd = s.nextCmd := rfl
@[simp] theorem State.setRec_nextTask (s : State) (a : Nat) (f : WordRec → WordRec) : (s.setRec a f).nextTask = s.nextTask := rfl
@[simp] theorem State.setRec_cur (s : State) (a : Nat) (f : WordRec → WordRec) : (s.setRec a f).cur = s.cur := rfl
@[simp] theorem State.setRec_op (s : State) (a : Nat) (f : WordRec → WordRec) : (s.setRec a f).op = s.op := rfl
@[simp] theorem State.setRec_inputs (s : State) (a : Nat) (f : WordRec → WordRec) : (s.setRec a f).inputs = s.inputs := rfl
@[simp] theorem State.setRec_stall (s : State) (a : Nat) (f : WordRec → WordRec) : (s.setRec a f).stall = s.stall := rfl
@[simp] theorem State.setRec_out (s : State) (a : Nat) (f : WordRec → WordRec) : (s.setRec a f).out = s.out := rfl
@[simp] theorem State.setRec_mem (s : State) (a : Nat) (f : WordRec → WordRec) : (s.setRec a f).mem = s.mem := rfl
@[simp] theorem State.setRec_empty (s : State) (a : Nat) (f : WordRec → WordRec) : (s.setRec a f).empty = s.empty := rfl
@[simp] theorem State.setRec_poison (s : State) (a : Nat) (f : WordRec → WordRec) : (s.setRec a f).poison = s.poison := rfl
@[simp] theorem State.setRec_threads (s : State) (a : Nat) (f : WordRec → WordRec) : (s.setRec a f).threads = s.threads := rfl
@[simp] theorem State.setRec_vcores (s : State) (a : Nat) (f : WordRec → WordRec) : (s.setRec a f).vcores = s.vcores := rfl
@[simp] theorem State.setRec_tasks (s : State) (a : Nat) (f : WordRec → WordRec) : (s.setRec a f).tasks = s.tasks := rfl
@[simp] theorem State.setRec_cmds (s : State) (a : Nat) (f : WordRec → WordRec) : (s.setRec a f).cmds = s.cmds := rfl
@[simp] theorem State.setRec_matq (s : State) (a : Nat) (f : WordRec → WordRec) : (s.setRec a f).matq = s.matq := rfl
@[simp] theorem State.setRec_fills (s : State) (a : Nat) (f : WordRec → WordRec) : (s.setRec a f).fills = s.fills := rfl
@[simp] theorem State.setRec_turns (s : State) (a : Nat) (f : WordRec → WordRec) : (s.setRec a f).turns = s.turns := rfl
@[simp] theorem State.setRec_msgs (s : State) (a : Nat) (f : WordRec → WordRec) : (s.setRec a f).msgs = s.msgs := rfl
@[simp] theorem State.setRec_tlb (s : State) (a : Nat) (f : WordRec → WordRec) : (s.setRec a f).tlb = s.tlb := rfl
@[simp] theorem State.setRec_functab (s : State) (a : Nat) (f : WordRec → WordRec) : (s.setRec a f).functab = s.functab := rfl
@[simp] theorem State.setRec_dies (s : State) (a : Nat) (f : WordRec → WordRec) : (s.setRec a f).dies = s.dies := rfl
@[simp] theorem State.setRec_fns (s : State) (a : Nat) (f : WordRec → WordRec) : (s.setRec a f).fns = s.fns := rfl
@[simp] theorem State.setRec_ways (s : State) (a : Nat) (f : WordRec → WordRec) : (s.setRec a f).ways = s.ways := rfl
@[simp] theorem State.setRec_pins (s : State) (a : Nat) (f : WordRec → WordRec) : (s.setRec a f).pins = s.pins := rfl
@[simp] theorem State.setRec_past (s : State) (a : Nat) (f : WordRec → WordRec) : (s.setRec a f).past = s.past := rfl
@[simp] theorem State.setRec_peers (s : State) (a : Nat) (f : WordRec → WordRec) : (s.setRec a f).peers = s.peers := rfl
@[simp] theorem State.setRec_posted (s : State) (a : Nat) (f : WordRec → WordRec) : (s.setRec a f).posted = s.posted := rfl
@[simp] theorem State.setRec_ctxs (s : State) (a : Nat) (f : WordRec → WordRec) : (s.setRec a f).ctxs = s.ctxs := rfl
@[simp] theorem State.setRec_readers (s : State) (a : Nat) (f : WordRec → WordRec) : (s.setRec a f).readers = s.readers := rfl
@[simp] theorem State.setRec_retired (s : State) (a : Nat) (f : WordRec → WordRec) : (s.setRec a f).retired = s.retired := rfl
@[simp] theorem State.setRec_keys (s : State) (a : Nat) (f : WordRec → WordRec) : (s.setRec a f).keys = s.keys := rfl
@[simp] theorem State.setRec_ready (s : State) (a : Nat) (f : WordRec → WordRec) : (s.setRec a f).ready = s.ready := rfl
@[simp] theorem State.setRec_aliasKey (s : State) (a : Nat) (f : WordRec → WordRec) : (s.setRec a f).aliasKey = s.aliasKey := rfl
@[simp] theorem State.setRec_measured (s : State) (a : Nat) (f : WordRec → WordRec) : (s.setRec a f).measured = s.measured := rfl
@[simp] theorem State.setRec_staged (s : State) (a : Nat) (f : WordRec → WordRec) : (s.setRec a f).staged = s.staged := rfl
@[simp] theorem State.setRec_images (s : State) (a : Nat) (f : WordRec → WordRec) : (s.setRec a f).images = s.images := rfl
@[simp] theorem State.setRec_svn (s : State) (a : Nat) (f : WordRec → WordRec) : (s.setRec a f).svn = s.svn := rfl

/-! ### record -/

@[simp] theorem State.record_tick (s : State) (a : Nat) (r : Acc) : (s.record a r).tick = s.tick := rfl
@[simp] theorem State.record_order (s : State) (a : Nat) (r : Acc) : (s.record a r).order = s.order := rfl
@[simp] theorem State.record_nextUid (s : State) (a : Nat) (r : Acc) : (s.record a r).nextUid = s.nextUid := rfl
@[simp] theorem State.record_nextCmd (s : State) (a : Nat) (r : Acc) : (s.record a r).nextCmd = s.nextCmd := rfl
@[simp] theorem State.record_nextTask (s : State) (a : Nat) (r : Acc) : (s.record a r).nextTask = s.nextTask := rfl
@[simp] theorem State.record_cur (s : State) (a : Nat) (r : Acc) : (s.record a r).cur = s.cur := rfl
@[simp] theorem State.record_op (s : State) (a : Nat) (r : Acc) : (s.record a r).op = s.op := rfl
@[simp] theorem State.record_inputs (s : State) (a : Nat) (r : Acc) : (s.record a r).inputs = s.inputs := rfl
@[simp] theorem State.record_stall (s : State) (a : Nat) (r : Acc) : (s.record a r).stall = s.stall := rfl
@[simp] theorem State.record_out (s : State) (a : Nat) (r : Acc) : (s.record a r).out = s.out := rfl
@[simp] theorem State.record_mem (s : State) (a : Nat) (r : Acc) : (s.record a r).mem = s.mem := rfl
@[simp] theorem State.record_empty (s : State) (a : Nat) (r : Acc) : (s.record a r).empty = s.empty := rfl
@[simp] theorem State.record_poison (s : State) (a : Nat) (r : Acc) : (s.record a r).poison = s.poison := rfl
@[simp] theorem State.record_threads (s : State) (a : Nat) (r : Acc) : (s.record a r).threads = s.threads := rfl
@[simp] theorem State.record_vcores (s : State) (a : Nat) (r : Acc) : (s.record a r).vcores = s.vcores := rfl
@[simp] theorem State.record_tasks (s : State) (a : Nat) (r : Acc) : (s.record a r).tasks = s.tasks := rfl
@[simp] theorem State.record_cmds (s : State) (a : Nat) (r : Acc) : (s.record a r).cmds = s.cmds := rfl
@[simp] theorem State.record_matq (s : State) (a : Nat) (r : Acc) : (s.record a r).matq = s.matq := rfl
@[simp] theorem State.record_fills (s : State) (a : Nat) (r : Acc) : (s.record a r).fills = s.fills := rfl
@[simp] theorem State.record_turns (s : State) (a : Nat) (r : Acc) : (s.record a r).turns = s.turns := rfl
@[simp] theorem State.record_msgs (s : State) (a : Nat) (r : Acc) : (s.record a r).msgs = s.msgs := rfl
@[simp] theorem State.record_tlb (s : State) (a : Nat) (r : Acc) : (s.record a r).tlb = s.tlb := rfl
@[simp] theorem State.record_functab (s : State) (a : Nat) (r : Acc) : (s.record a r).functab = s.functab := rfl
@[simp] theorem State.record_dies (s : State) (a : Nat) (r : Acc) : (s.record a r).dies = s.dies := rfl
@[simp] theorem State.record_fns (s : State) (a : Nat) (r : Acc) : (s.record a r).fns = s.fns := rfl
@[simp] theorem State.record_ways (s : State) (a : Nat) (r : Acc) : (s.record a r).ways = s.ways := rfl
@[simp] theorem State.record_pins (s : State) (a : Nat) (r : Acc) : (s.record a r).pins = s.pins := rfl
@[simp] theorem State.record_past (s : State) (a : Nat) (r : Acc) : (s.record a r).past = s.past := rfl
@[simp] theorem State.record_peers (s : State) (a : Nat) (r : Acc) : (s.record a r).peers = s.peers := rfl
@[simp] theorem State.record_posted (s : State) (a : Nat) (r : Acc) : (s.record a r).posted = s.posted := rfl
@[simp] theorem State.record_ctxs (s : State) (a : Nat) (r : Acc) : (s.record a r).ctxs = s.ctxs := rfl
@[simp] theorem State.record_readers (s : State) (a : Nat) (r : Acc) : (s.record a r).readers = s.readers := rfl
@[simp] theorem State.record_retired (s : State) (a : Nat) (r : Acc) : (s.record a r).retired = s.retired := rfl
@[simp] theorem State.record_keys (s : State) (a : Nat) (r : Acc) : (s.record a r).keys = s.keys := rfl
@[simp] theorem State.record_ready (s : State) (a : Nat) (r : Acc) : (s.record a r).ready = s.ready := rfl
@[simp] theorem State.record_aliasKey (s : State) (a : Nat) (r : Acc) : (s.record a r).aliasKey = s.aliasKey := rfl
@[simp] theorem State.record_measured (s : State) (a : Nat) (r : Acc) : (s.record a r).measured = s.measured := rfl
@[simp] theorem State.record_staged (s : State) (a : Nat) (r : Acc) : (s.record a r).staged = s.staged := rfl
@[simp] theorem State.record_images (s : State) (a : Nat) (r : Acc) : (s.record a r).images = s.images := rfl
@[simp] theorem State.record_svn (s : State) (a : Nat) (r : Acc) : (s.record a r).svn = s.svn := rfl

/-! ### plainWrite -/

@[simp] theorem State.plainWrite_tick (s : State) (a : Nat) : (s.plainWrite a).tick = s.tick := rfl
@[simp] theorem State.plainWrite_order (s : State) (a : Nat) : (s.plainWrite a).order = s.order := rfl
@[simp] theorem State.plainWrite_nextUid (s : State) (a : Nat) : (s.plainWrite a).nextUid = s.nextUid := rfl
@[simp] theorem State.plainWrite_nextCmd (s : State) (a : Nat) : (s.plainWrite a).nextCmd = s.nextCmd := rfl
@[simp] theorem State.plainWrite_nextTask (s : State) (a : Nat) : (s.plainWrite a).nextTask = s.nextTask := rfl
@[simp] theorem State.plainWrite_cur (s : State) (a : Nat) : (s.plainWrite a).cur = s.cur := rfl
@[simp] theorem State.plainWrite_op (s : State) (a : Nat) : (s.plainWrite a).op = s.op := rfl
@[simp] theorem State.plainWrite_inputs (s : State) (a : Nat) : (s.plainWrite a).inputs = s.inputs := rfl
@[simp] theorem State.plainWrite_stall (s : State) (a : Nat) : (s.plainWrite a).stall = s.stall := rfl
@[simp] theorem State.plainWrite_out (s : State) (a : Nat) : (s.plainWrite a).out = s.out := rfl
@[simp] theorem State.plainWrite_mem (s : State) (a : Nat) : (s.plainWrite a).mem = s.mem := rfl
@[simp] theorem State.plainWrite_empty (s : State) (a : Nat) : (s.plainWrite a).empty = s.empty := rfl
@[simp] theorem State.plainWrite_poison (s : State) (a : Nat) : (s.plainWrite a).poison = s.poison := rfl
@[simp] theorem State.plainWrite_threads (s : State) (a : Nat) : (s.plainWrite a).threads = s.threads := rfl
@[simp] theorem State.plainWrite_vcores (s : State) (a : Nat) : (s.plainWrite a).vcores = s.vcores := rfl
@[simp] theorem State.plainWrite_tasks (s : State) (a : Nat) : (s.plainWrite a).tasks = s.tasks := rfl
@[simp] theorem State.plainWrite_cmds (s : State) (a : Nat) : (s.plainWrite a).cmds = s.cmds := rfl
@[simp] theorem State.plainWrite_matq (s : State) (a : Nat) : (s.plainWrite a).matq = s.matq := rfl
@[simp] theorem State.plainWrite_fills (s : State) (a : Nat) : (s.plainWrite a).fills = s.fills := rfl
@[simp] theorem State.plainWrite_turns (s : State) (a : Nat) : (s.plainWrite a).turns = s.turns := rfl
@[simp] theorem State.plainWrite_msgs (s : State) (a : Nat) : (s.plainWrite a).msgs = s.msgs := rfl
@[simp] theorem State.plainWrite_tlb (s : State) (a : Nat) : (s.plainWrite a).tlb = s.tlb := rfl
@[simp] theorem State.plainWrite_functab (s : State) (a : Nat) : (s.plainWrite a).functab = s.functab := rfl
@[simp] theorem State.plainWrite_dies (s : State) (a : Nat) : (s.plainWrite a).dies = s.dies := rfl
@[simp] theorem State.plainWrite_fns (s : State) (a : Nat) : (s.plainWrite a).fns = s.fns := rfl
@[simp] theorem State.plainWrite_ways (s : State) (a : Nat) : (s.plainWrite a).ways = s.ways := rfl
@[simp] theorem State.plainWrite_pins (s : State) (a : Nat) : (s.plainWrite a).pins = s.pins := rfl
@[simp] theorem State.plainWrite_past (s : State) (a : Nat) : (s.plainWrite a).past = s.past := rfl
@[simp] theorem State.plainWrite_peers (s : State) (a : Nat) : (s.plainWrite a).peers = s.peers := rfl
@[simp] theorem State.plainWrite_posted (s : State) (a : Nat) : (s.plainWrite a).posted = s.posted := rfl
@[simp] theorem State.plainWrite_ctxs (s : State) (a : Nat) : (s.plainWrite a).ctxs = s.ctxs := rfl
@[simp] theorem State.plainWrite_readers (s : State) (a : Nat) : (s.plainWrite a).readers = s.readers := rfl
@[simp] theorem State.plainWrite_retired (s : State) (a : Nat) : (s.plainWrite a).retired = s.retired := rfl
@[simp] theorem State.plainWrite_keys (s : State) (a : Nat) : (s.plainWrite a).keys = s.keys := rfl
@[simp] theorem State.plainWrite_ready (s : State) (a : Nat) : (s.plainWrite a).ready = s.ready := rfl
@[simp] theorem State.plainWrite_aliasKey (s : State) (a : Nat) : (s.plainWrite a).aliasKey = s.aliasKey := rfl
@[simp] theorem State.plainWrite_measured (s : State) (a : Nat) : (s.plainWrite a).measured = s.measured := rfl
@[simp] theorem State.plainWrite_staged (s : State) (a : Nat) : (s.plainWrite a).staged = s.staged := rfl
@[simp] theorem State.plainWrite_images (s : State) (a : Nat) : (s.plainWrite a).images = s.images := rfl
@[simp] theorem State.plainWrite_svn (s : State) (a : Nat) : (s.plainWrite a).svn = s.svn := rfl

/-! ### settled -/

@[simp] theorem State.settled_order (s : State) : (s.settled).order = s.order := rfl
@[simp] theorem State.settled_nextUid (s : State) : (s.settled).nextUid = s.nextUid := rfl
@[simp] theorem State.settled_nextCmd (s : State) : (s.settled).nextCmd = s.nextCmd := rfl
@[simp] theorem State.settled_nextTask (s : State) : (s.settled).nextTask = s.nextTask := rfl
@[simp] theorem State.settled_inputs (s : State) : (s.settled).inputs = s.inputs := rfl
@[simp] theorem State.settled_out (s : State) : (s.settled).out = s.out := rfl
@[simp] theorem State.settled_mem (s : State) : (s.settled).mem = s.mem := rfl
@[simp] theorem State.settled_empty (s : State) : (s.settled).empty = s.empty := rfl
@[simp] theorem State.settled_poison (s : State) : (s.settled).poison = s.poison := rfl
@[simp] theorem State.settled_recs (s : State) : (s.settled).recs = s.recs := rfl
@[simp] theorem State.settled_threads (s : State) : (s.settled).threads = s.threads := rfl
@[simp] theorem State.settled_vcores (s : State) : (s.settled).vcores = s.vcores := rfl
@[simp] theorem State.settled_tasks (s : State) : (s.settled).tasks = s.tasks := rfl
@[simp] theorem State.settled_cmds (s : State) : (s.settled).cmds = s.cmds := rfl
@[simp] theorem State.settled_matq (s : State) : (s.settled).matq = s.matq := rfl
@[simp] theorem State.settled_fills (s : State) : (s.settled).fills = s.fills := rfl
@[simp] theorem State.settled_turns (s : State) : (s.settled).turns = s.turns := rfl
@[simp] theorem State.settled_msgs (s : State) : (s.settled).msgs = s.msgs := rfl
@[simp] theorem State.settled_tlb (s : State) : (s.settled).tlb = s.tlb := rfl
@[simp] theorem State.settled_functab (s : State) : (s.settled).functab = s.functab := rfl
@[simp] theorem State.settled_dies (s : State) : (s.settled).dies = s.dies := rfl
@[simp] theorem State.settled_fns (s : State) : (s.settled).fns = s.fns := rfl
@[simp] theorem State.settled_ways (s : State) : (s.settled).ways = s.ways := rfl
@[simp] theorem State.settled_pins (s : State) : (s.settled).pins = s.pins := rfl
@[simp] theorem State.settled_past (s : State) : (s.settled).past = s.past := rfl
@[simp] theorem State.settled_peers (s : State) : (s.settled).peers = s.peers := rfl
@[simp] theorem State.settled_posted (s : State) : (s.settled).posted = s.posted := rfl
@[simp] theorem State.settled_ctxs (s : State) : (s.settled).ctxs = s.ctxs := rfl
@[simp] theorem State.settled_readers (s : State) : (s.settled).readers = s.readers := rfl
@[simp] theorem State.settled_retired (s : State) : (s.settled).retired = s.retired := rfl
@[simp] theorem State.settled_keys (s : State) : (s.settled).keys = s.keys := rfl
@[simp] theorem State.settled_ready (s : State) : (s.settled).ready = s.ready := rfl
@[simp] theorem State.settled_aliasKey (s : State) : (s.settled).aliasKey = s.aliasKey := rfl
@[simp] theorem State.settled_measured (s : State) : (s.settled).measured = s.measured := rfl
@[simp] theorem State.settled_staged (s : State) : (s.settled).staged = s.staged := rfl
@[simp] theorem State.settled_images (s : State) : (s.settled).images = s.images := rfl
@[simp] theorem State.settled_svn (s : State) : (s.settled).svn = s.svn := rfl

/-! ### keepOld -/

@[simp] theorem State.keepOld_tick (s : State) (a : Nat) : (s.keepOld a).tick = s.tick := by
  unfold State.keepOld; dsimp only; split <;> rfl
@[simp] theorem State.keepOld_order (s : State) (a : Nat) : (s.keepOld a).order = s.order := by
  unfold State.keepOld; dsimp only; split <;> rfl
@[simp] theorem State.keepOld_nextUid (s : State) (a : Nat) : (s.keepOld a).nextUid = s.nextUid := by
  unfold State.keepOld; dsimp only; split <;> rfl
@[simp] theorem State.keepOld_nextCmd (s : State) (a : Nat) : (s.keepOld a).nextCmd = s.nextCmd := by
  unfold State.keepOld; dsimp only; split <;> rfl
@[simp] theorem State.keepOld_nextTask (s : State) (a : Nat) : (s.keepOld a).nextTask = s.nextTask := by
  unfold State.keepOld; dsimp only; split <;> rfl
@[simp] theorem State.keepOld_cur (s : State) (a : Nat) : (s.keepOld a).cur = s.cur := by
  unfold State.keepOld; dsimp only; split <;> rfl
@[simp] theorem State.keepOld_op (s : State) (a : Nat) : (s.keepOld a).op = s.op := by
  unfold State.keepOld; dsimp only; split <;> rfl
@[simp] theorem State.keepOld_inputs (s : State) (a : Nat) : (s.keepOld a).inputs = s.inputs := by
  unfold State.keepOld; dsimp only; split <;> rfl
@[simp] theorem State.keepOld_stall (s : State) (a : Nat) : (s.keepOld a).stall = s.stall := by
  unfold State.keepOld; dsimp only; split <;> rfl
@[simp] theorem State.keepOld_out (s : State) (a : Nat) : (s.keepOld a).out = s.out := by
  unfold State.keepOld; dsimp only; split <;> rfl
@[simp] theorem State.keepOld_mem (s : State) (a : Nat) : (s.keepOld a).mem = s.mem := by
  unfold State.keepOld; dsimp only; split <;> rfl
@[simp] theorem State.keepOld_empty (s : State) (a : Nat) : (s.keepOld a).empty = s.empty := by
  unfold State.keepOld; dsimp only; split <;> rfl
@[simp] theorem State.keepOld_poison (s : State) (a : Nat) : (s.keepOld a).poison = s.poison := by
  unfold State.keepOld; dsimp only; split <;> rfl
@[simp] theorem State.keepOld_recs (s : State) (a : Nat) : (s.keepOld a).recs = s.recs := by
  unfold State.keepOld; dsimp only; split <;> rfl
@[simp] theorem State.keepOld_vcores (s : State) (a : Nat) : (s.keepOld a).vcores = s.vcores := by
  unfold State.keepOld; dsimp only; split <;> rfl
@[simp] theorem State.keepOld_tasks (s : State) (a : Nat) : (s.keepOld a).tasks = s.tasks := by
  unfold State.keepOld; dsimp only; split <;> rfl
@[simp] theorem State.keepOld_cmds (s : State) (a : Nat) : (s.keepOld a).cmds = s.cmds := by
  unfold State.keepOld; dsimp only; split <;> rfl
@[simp] theorem State.keepOld_matq (s : State) (a : Nat) : (s.keepOld a).matq = s.matq := by
  unfold State.keepOld; dsimp only; split <;> rfl
@[simp] theorem State.keepOld_fills (s : State) (a : Nat) : (s.keepOld a).fills = s.fills := by
  unfold State.keepOld; dsimp only; split <;> rfl
@[simp] theorem State.keepOld_turns (s : State) (a : Nat) : (s.keepOld a).turns = s.turns := by
  unfold State.keepOld; dsimp only; split <;> rfl
@[simp] theorem State.keepOld_msgs (s : State) (a : Nat) : (s.keepOld a).msgs = s.msgs := by
  unfold State.keepOld; dsimp only; split <;> rfl
@[simp] theorem State.keepOld_tlb (s : State) (a : Nat) : (s.keepOld a).tlb = s.tlb := by
  unfold State.keepOld; dsimp only; split <;> rfl
@[simp] theorem State.keepOld_functab (s : State) (a : Nat) : (s.keepOld a).functab = s.functab := by
  unfold State.keepOld; dsimp only; split <;> rfl
@[simp] theorem State.keepOld_dies (s : State) (a : Nat) : (s.keepOld a).dies = s.dies := by
  unfold State.keepOld; dsimp only; split <;> rfl
@[simp] theorem State.keepOld_fns (s : State) (a : Nat) : (s.keepOld a).fns = s.fns := by
  unfold State.keepOld; dsimp only; split <;> rfl
@[simp] theorem State.keepOld_ways (s : State) (a : Nat) : (s.keepOld a).ways = s.ways := by
  unfold State.keepOld; dsimp only; split <;> rfl
@[simp] theorem State.keepOld_pins (s : State) (a : Nat) : (s.keepOld a).pins = s.pins := by
  unfold State.keepOld; dsimp only; split <;> rfl
@[simp] theorem State.keepOld_peers (s : State) (a : Nat) : (s.keepOld a).peers = s.peers := by
  unfold State.keepOld; dsimp only; split <;> rfl
@[simp] theorem State.keepOld_posted (s : State) (a : Nat) : (s.keepOld a).posted = s.posted := by
  unfold State.keepOld; dsimp only; split <;> rfl
@[simp] theorem State.keepOld_ctxs (s : State) (a : Nat) : (s.keepOld a).ctxs = s.ctxs := by
  unfold State.keepOld; dsimp only; split <;> rfl
@[simp] theorem State.keepOld_readers (s : State) (a : Nat) : (s.keepOld a).readers = s.readers := by
  unfold State.keepOld; dsimp only; split <;> rfl
@[simp] theorem State.keepOld_retired (s : State) (a : Nat) : (s.keepOld a).retired = s.retired := by
  unfold State.keepOld; dsimp only; split <;> rfl
@[simp] theorem State.keepOld_keys (s : State) (a : Nat) : (s.keepOld a).keys = s.keys := by
  unfold State.keepOld; dsimp only; split <;> rfl
@[simp] theorem State.keepOld_ready (s : State) (a : Nat) : (s.keepOld a).ready = s.ready := by
  unfold State.keepOld; dsimp only; split <;> rfl
@[simp] theorem State.keepOld_aliasKey (s : State) (a : Nat) : (s.keepOld a).aliasKey = s.aliasKey := by
  unfold State.keepOld; dsimp only; split <;> rfl
@[simp] theorem State.keepOld_measured (s : State) (a : Nat) : (s.keepOld a).measured = s.measured := by
  unfold State.keepOld; dsimp only; split <;> rfl
@[simp] theorem State.keepOld_staged (s : State) (a : Nat) : (s.keepOld a).staged = s.staged := by
  unfold State.keepOld; dsimp only; split <;> rfl
@[simp] theorem State.keepOld_images (s : State) (a : Nat) : (s.keepOld a).images = s.images := by
  unfold State.keepOld; dsimp only; split <;> rfl
@[simp] theorem State.keepOld_svn (s : State) (a : Nat) : (s.keepOld a).svn = s.svn := by
  unfold State.keepOld; dsimp only; split <;> rfl
@[simp] theorem State.keepOld_threads (s : State) (a : Nat) : (s.keepOld a).threads = s.threads := by
  unfold State.keepOld; dsimp only; split <;> rfl

/-! ### upd, setG, retire of the current thread -/

@[simp] theorem State.upd_tick (s : State) (f : Thread → Thread) : (s.upd f).tick = s.tick := by
  unfold State.upd; split <;> rfl
@[simp] theorem State.upd_order (s : State) (f : Thread → Thread) : (s.upd f).order = s.order := by
  unfold State.upd; split <;> rfl
@[simp] theorem State.upd_nextUid (s : State) (f : Thread → Thread) : (s.upd f).nextUid = s.nextUid := by
  unfold State.upd; split <;> rfl
@[simp] theorem State.upd_nextCmd (s : State) (f : Thread → Thread) : (s.upd f).nextCmd = s.nextCmd := by
  unfold State.upd; split <;> rfl
@[simp] theorem State.upd_nextTask (s : State) (f : Thread → Thread) : (s.upd f).nextTask = s.nextTask := by
  unfold State.upd; split <;> rfl
@[simp] theorem State.upd_cur (s : State) (f : Thread → Thread) : (s.upd f).cur = s.cur := by
  unfold State.upd; split <;> rfl
@[simp] theorem State.upd_op (s : State) (f : Thread → Thread) : (s.upd f).op = s.op := by
  unfold State.upd; split <;> rfl
@[simp] theorem State.upd_inputs (s : State) (f : Thread → Thread) : (s.upd f).inputs = s.inputs := by
  unfold State.upd; split <;> rfl
@[simp] theorem State.upd_stall (s : State) (f : Thread → Thread) : (s.upd f).stall = s.stall := by
  unfold State.upd; split <;> rfl
@[simp] theorem State.upd_out (s : State) (f : Thread → Thread) : (s.upd f).out = s.out := by
  unfold State.upd; split <;> rfl
@[simp] theorem State.upd_mem (s : State) (f : Thread → Thread) : (s.upd f).mem = s.mem := by
  unfold State.upd; split <;> rfl
@[simp] theorem State.upd_empty (s : State) (f : Thread → Thread) : (s.upd f).empty = s.empty := by
  unfold State.upd; split <;> rfl
@[simp] theorem State.upd_poison (s : State) (f : Thread → Thread) : (s.upd f).poison = s.poison := by
  unfold State.upd; split <;> rfl
@[simp] theorem State.upd_recs (s : State) (f : Thread → Thread) : (s.upd f).recs = s.recs := by
  unfold State.upd; split <;> rfl
@[simp] theorem State.upd_vcores (s : State) (f : Thread → Thread) : (s.upd f).vcores = s.vcores := by
  unfold State.upd; split <;> rfl
@[simp] theorem State.upd_tasks (s : State) (f : Thread → Thread) : (s.upd f).tasks = s.tasks := by
  unfold State.upd; split <;> rfl
@[simp] theorem State.upd_cmds (s : State) (f : Thread → Thread) : (s.upd f).cmds = s.cmds := by
  unfold State.upd; split <;> rfl
@[simp] theorem State.upd_matq (s : State) (f : Thread → Thread) : (s.upd f).matq = s.matq := by
  unfold State.upd; split <;> rfl
@[simp] theorem State.upd_fills (s : State) (f : Thread → Thread) : (s.upd f).fills = s.fills := by
  unfold State.upd; split <;> rfl
@[simp] theorem State.upd_turns (s : State) (f : Thread → Thread) : (s.upd f).turns = s.turns := by
  unfold State.upd; split <;> rfl
@[simp] theorem State.upd_msgs (s : State) (f : Thread → Thread) : (s.upd f).msgs = s.msgs := by
  unfold State.upd; split <;> rfl
@[simp] theorem State.upd_tlb (s : State) (f : Thread → Thread) : (s.upd f).tlb = s.tlb := by
  unfold State.upd; split <;> rfl
@[simp] theorem State.upd_functab (s : State) (f : Thread → Thread) : (s.upd f).functab = s.functab := by
  unfold State.upd; split <;> rfl
@[simp] theorem State.upd_dies (s : State) (f : Thread → Thread) : (s.upd f).dies = s.dies := by
  unfold State.upd; split <;> rfl
@[simp] theorem State.upd_fns (s : State) (f : Thread → Thread) : (s.upd f).fns = s.fns := by
  unfold State.upd; split <;> rfl
@[simp] theorem State.upd_ways (s : State) (f : Thread → Thread) : (s.upd f).ways = s.ways := by
  unfold State.upd; split <;> rfl
@[simp] theorem State.upd_pins (s : State) (f : Thread → Thread) : (s.upd f).pins = s.pins := by
  unfold State.upd; split <;> rfl
@[simp] theorem State.upd_past (s : State) (f : Thread → Thread) : (s.upd f).past = s.past := by
  unfold State.upd; split <;> rfl
@[simp] theorem State.upd_peers (s : State) (f : Thread → Thread) : (s.upd f).peers = s.peers := by
  unfold State.upd; split <;> rfl
@[simp] theorem State.upd_posted (s : State) (f : Thread → Thread) : (s.upd f).posted = s.posted := by
  unfold State.upd; split <;> rfl
@[simp] theorem State.upd_ctxs (s : State) (f : Thread → Thread) : (s.upd f).ctxs = s.ctxs := by
  unfold State.upd; split <;> rfl
@[simp] theorem State.upd_readers (s : State) (f : Thread → Thread) : (s.upd f).readers = s.readers := by
  unfold State.upd; split <;> rfl
@[simp] theorem State.upd_retired (s : State) (f : Thread → Thread) : (s.upd f).retired = s.retired := by
  unfold State.upd; split <;> rfl
@[simp] theorem State.upd_keys (s : State) (f : Thread → Thread) : (s.upd f).keys = s.keys := by
  unfold State.upd; split <;> rfl
@[simp] theorem State.upd_ready (s : State) (f : Thread → Thread) : (s.upd f).ready = s.ready := by
  unfold State.upd; split <;> rfl
@[simp] theorem State.upd_aliasKey (s : State) (f : Thread → Thread) : (s.upd f).aliasKey = s.aliasKey := by
  unfold State.upd; split <;> rfl
@[simp] theorem State.upd_measured (s : State) (f : Thread → Thread) : (s.upd f).measured = s.measured := by
  unfold State.upd; split <;> rfl
@[simp] theorem State.upd_staged (s : State) (f : Thread → Thread) : (s.upd f).staged = s.staged := by
  unfold State.upd; split <;> rfl
@[simp] theorem State.upd_images (s : State) (f : Thread → Thread) : (s.upd f).images = s.images := by
  unfold State.upd; split <;> rfl
@[simp] theorem State.upd_svn (s : State) (f : Thread → Thread) : (s.upd f).svn = s.svn := by
  unfold State.upd; split <;> rfl
@[simp] theorem State.setG_tick (s : State) (d : R5) (x : Word) : (s.setG d x).tick = s.tick := by
  unfold State.setG; split <;> simp
@[simp] theorem State.retire_tick (s : State) (n : Nat) : (s.retire n).tick = s.tick := by
  simp [State.retire]
@[simp] theorem State.setG_order (s : State) (d : R5) (x : Word) : (s.setG d x).order = s.order := by
  unfold State.setG; split <;> simp
@[simp] theorem State.retire_order (s : State) (n : Nat) : (s.retire n).order = s.order := by
  simp [State.retire]
@[simp] theorem State.setG_nextUid (s : State) (d : R5) (x : Word) : (s.setG d x).nextUid = s.nextUid := by
  unfold State.setG; split <;> simp
@[simp] theorem State.retire_nextUid (s : State) (n : Nat) : (s.retire n).nextUid = s.nextUid := by
  simp [State.retire]
@[simp] theorem State.setG_nextCmd (s : State) (d : R5) (x : Word) : (s.setG d x).nextCmd = s.nextCmd := by
  unfold State.setG; split <;> simp
@[simp] theorem State.retire_nextCmd (s : State) (n : Nat) : (s.retire n).nextCmd = s.nextCmd := by
  simp [State.retire]
@[simp] theorem State.setG_nextTask (s : State) (d : R5) (x : Word) : (s.setG d x).nextTask = s.nextTask := by
  unfold State.setG; split <;> simp
@[simp] theorem State.retire_nextTask (s : State) (n : Nat) : (s.retire n).nextTask = s.nextTask := by
  simp [State.retire]
@[simp] theorem State.setG_cur (s : State) (d : R5) (x : Word) : (s.setG d x).cur = s.cur := by
  unfold State.setG; split <;> simp
@[simp] theorem State.retire_cur (s : State) (n : Nat) : (s.retire n).cur = s.cur := by
  simp [State.retire]
@[simp] theorem State.setG_op (s : State) (d : R5) (x : Word) : (s.setG d x).op = s.op := by
  unfold State.setG; split <;> simp
@[simp] theorem State.retire_op (s : State) (n : Nat) : (s.retire n).op = s.op := by
  simp [State.retire]
@[simp] theorem State.setG_inputs (s : State) (d : R5) (x : Word) : (s.setG d x).inputs = s.inputs := by
  unfold State.setG; split <;> simp
@[simp] theorem State.retire_inputs (s : State) (n : Nat) : (s.retire n).inputs = s.inputs := by
  simp [State.retire]
@[simp] theorem State.setG_stall (s : State) (d : R5) (x : Word) : (s.setG d x).stall = s.stall := by
  unfold State.setG; split <;> simp
@[simp] theorem State.retire_stall (s : State) (n : Nat) : (s.retire n).stall = s.stall := by
  simp [State.retire]
@[simp] theorem State.setG_out (s : State) (d : R5) (x : Word) : (s.setG d x).out = s.out := by
  unfold State.setG; split <;> simp
@[simp] theorem State.retire_out (s : State) (n : Nat) : (s.retire n).out = s.out := by
  simp [State.retire]
@[simp] theorem State.setG_mem (s : State) (d : R5) (x : Word) : (s.setG d x).mem = s.mem := by
  unfold State.setG; split <;> simp
@[simp] theorem State.retire_mem (s : State) (n : Nat) : (s.retire n).mem = s.mem := by
  simp [State.retire]
@[simp] theorem State.setG_empty (s : State) (d : R5) (x : Word) : (s.setG d x).empty = s.empty := by
  unfold State.setG; split <;> simp
@[simp] theorem State.retire_empty (s : State) (n : Nat) : (s.retire n).empty = s.empty := by
  simp [State.retire]
@[simp] theorem State.setG_poison (s : State) (d : R5) (x : Word) : (s.setG d x).poison = s.poison := by
  unfold State.setG; split <;> simp
@[simp] theorem State.retire_poison (s : State) (n : Nat) : (s.retire n).poison = s.poison := by
  simp [State.retire]
@[simp] theorem State.setG_recs (s : State) (d : R5) (x : Word) : (s.setG d x).recs = s.recs := by
  unfold State.setG; split <;> simp
@[simp] theorem State.retire_recs (s : State) (n : Nat) : (s.retire n).recs = s.recs := by
  simp [State.retire]
@[simp] theorem State.setG_vcores (s : State) (d : R5) (x : Word) : (s.setG d x).vcores = s.vcores := by
  unfold State.setG; split <;> simp
@[simp] theorem State.retire_vcores (s : State) (n : Nat) : (s.retire n).vcores = s.vcores := by
  simp [State.retire]
@[simp] theorem State.setG_tasks (s : State) (d : R5) (x : Word) : (s.setG d x).tasks = s.tasks := by
  unfold State.setG; split <;> simp
@[simp] theorem State.retire_tasks (s : State) (n : Nat) : (s.retire n).tasks = s.tasks := by
  simp [State.retire]
@[simp] theorem State.setG_cmds (s : State) (d : R5) (x : Word) : (s.setG d x).cmds = s.cmds := by
  unfold State.setG; split <;> simp
@[simp] theorem State.retire_cmds (s : State) (n : Nat) : (s.retire n).cmds = s.cmds := by
  simp [State.retire]
@[simp] theorem State.setG_matq (s : State) (d : R5) (x : Word) : (s.setG d x).matq = s.matq := by
  unfold State.setG; split <;> simp
@[simp] theorem State.retire_matq (s : State) (n : Nat) : (s.retire n).matq = s.matq := by
  simp [State.retire]
@[simp] theorem State.setG_fills (s : State) (d : R5) (x : Word) : (s.setG d x).fills = s.fills := by
  unfold State.setG; split <;> simp
@[simp] theorem State.retire_fills (s : State) (n : Nat) : (s.retire n).fills = s.fills := by
  simp [State.retire]
@[simp] theorem State.setG_turns (s : State) (d : R5) (x : Word) : (s.setG d x).turns = s.turns := by
  unfold State.setG; split <;> simp
@[simp] theorem State.retire_turns (s : State) (n : Nat) : (s.retire n).turns = s.turns := by
  simp [State.retire]
@[simp] theorem State.setG_msgs (s : State) (d : R5) (x : Word) : (s.setG d x).msgs = s.msgs := by
  unfold State.setG; split <;> simp
@[simp] theorem State.retire_msgs (s : State) (n : Nat) : (s.retire n).msgs = s.msgs := by
  simp [State.retire]
@[simp] theorem State.setG_tlb (s : State) (d : R5) (x : Word) : (s.setG d x).tlb = s.tlb := by
  unfold State.setG; split <;> simp
@[simp] theorem State.retire_tlb (s : State) (n : Nat) : (s.retire n).tlb = s.tlb := by
  simp [State.retire]
@[simp] theorem State.setG_functab (s : State) (d : R5) (x : Word) : (s.setG d x).functab = s.functab := by
  unfold State.setG; split <;> simp
@[simp] theorem State.retire_functab (s : State) (n : Nat) : (s.retire n).functab = s.functab := by
  simp [State.retire]
@[simp] theorem State.setG_dies (s : State) (d : R5) (x : Word) : (s.setG d x).dies = s.dies := by
  unfold State.setG; split <;> simp
@[simp] theorem State.retire_dies (s : State) (n : Nat) : (s.retire n).dies = s.dies := by
  simp [State.retire]
@[simp] theorem State.setG_fns (s : State) (d : R5) (x : Word) : (s.setG d x).fns = s.fns := by
  unfold State.setG; split <;> simp
@[simp] theorem State.retire_fns (s : State) (n : Nat) : (s.retire n).fns = s.fns := by
  simp [State.retire]
@[simp] theorem State.setG_ways (s : State) (d : R5) (x : Word) : (s.setG d x).ways = s.ways := by
  unfold State.setG; split <;> simp
@[simp] theorem State.retire_ways (s : State) (n : Nat) : (s.retire n).ways = s.ways := by
  simp [State.retire]
@[simp] theorem State.setG_pins (s : State) (d : R5) (x : Word) : (s.setG d x).pins = s.pins := by
  unfold State.setG; split <;> simp
@[simp] theorem State.setG_past (s : State) (d : R5) (x : Word) : (s.setG d x).past = s.past := by
  unfold State.setG; split <;> simp
@[simp] theorem State.setG_peers (s : State) (d : R5) (x : Word) : (s.setG d x).peers = s.peers := by
  unfold State.setG; split <;> simp
@[simp] theorem State.setG_posted (s : State) (d : R5) (x : Word) : (s.setG d x).posted = s.posted := by
  unfold State.setG; split <;> simp
@[simp] theorem State.retire_pins (s : State) (n : Nat) : (s.retire n).pins = s.pins := by
  simp [State.retire]
@[simp] theorem State.retire_past (s : State) (n : Nat) : (s.retire n).past = s.past := by
  simp [State.retire]
@[simp] theorem State.retire_peers (s : State) (n : Nat) : (s.retire n).peers = s.peers := by
  simp [State.retire]
@[simp] theorem State.retire_posted (s : State) (n : Nat) : (s.retire n).posted = s.posted := by
  simp [State.retire]
@[simp] theorem State.setG_ctxs (s : State) (d : R5) (x : Word) : (s.setG d x).ctxs = s.ctxs := by
  unfold State.setG; split <;> simp
@[simp] theorem State.retire_ctxs (s : State) (n : Nat) : (s.retire n).ctxs = s.ctxs := by
  simp [State.retire]
@[simp] theorem State.setG_readers (s : State) (d : R5) (x : Word) : (s.setG d x).readers = s.readers := by
  unfold State.setG; split <;> simp
@[simp] theorem State.retire_readers (s : State) (n : Nat) : (s.retire n).readers = s.readers := by
  simp [State.retire]
@[simp] theorem State.setG_retired (s : State) (d : R5) (x : Word) : (s.setG d x).retired = s.retired := by
  unfold State.setG; split <;> simp
@[simp] theorem State.retire_retired (s : State) (n : Nat) : (s.retire n).retired = s.retired := by
  simp [State.retire]
@[simp] theorem State.setG_keys (s : State) (d : R5) (x : Word) : (s.setG d x).keys = s.keys := by
  unfold State.setG; split <;> simp
@[simp] theorem State.retire_keys (s : State) (n : Nat) : (s.retire n).keys = s.keys := by
  simp [State.retire]
@[simp] theorem State.setG_ready (s : State) (d : R5) (x : Word) : (s.setG d x).ready = s.ready := by
  unfold State.setG; split <;> simp
@[simp] theorem State.retire_ready (s : State) (n : Nat) : (s.retire n).ready = s.ready := by
  simp [State.retire]
@[simp] theorem State.setG_aliasKey (s : State) (d : R5) (x : Word) : (s.setG d x).aliasKey = s.aliasKey := by
  unfold State.setG; split <;> simp
@[simp] theorem State.retire_aliasKey (s : State) (n : Nat) : (s.retire n).aliasKey = s.aliasKey := by
  simp [State.retire]
@[simp] theorem State.setG_measured (s : State) (d : R5) (x : Word) : (s.setG d x).measured = s.measured := by
  unfold State.setG; split <;> simp
@[simp] theorem State.retire_measured (s : State) (n : Nat) : (s.retire n).measured = s.measured := by
  simp [State.retire]
@[simp] theorem State.setG_staged (s : State) (d : R5) (x : Word) : (s.setG d x).staged = s.staged := by
  unfold State.setG; split <;> simp
@[simp] theorem State.retire_staged (s : State) (n : Nat) : (s.retire n).staged = s.staged := by
  simp [State.retire]
@[simp] theorem State.setG_images (s : State) (d : R5) (x : Word) : (s.setG d x).images = s.images := by
  unfold State.setG; split <;> simp
@[simp] theorem State.retire_images (s : State) (n : Nat) : (s.retire n).images = s.images := by
  simp [State.retire]
@[simp] theorem State.setG_svn (s : State) (d : R5) (x : Word) : (s.setG d x).svn = s.svn := by
  unfold State.setG; split <;> simp
@[simp] theorem State.retire_svn (s : State) (n : Nat) : (s.retire n).svn = s.svn := by
  simp [State.retire]

/-! ### wg -/

@[simp] theorem Thread.wg_uid (t : Thread) (r : R5) (x : Word) : (t.wg r x).uid = t.uid := by unfold Thread.wg; split <;> rfl
@[simp] theorem Thread.wg_task (t : Thread) (r : R5) (x : Word) : (t.wg r x).task = t.task := by unfold Thread.wg; split <;> rfl
@[simp] theorem Thread.wg_vu (t : Thread) (r : R5) (x : Word) : (t.wg r x).vu = t.vu := by unfold Thread.wg; split <;> rfl
@[simp] theorem Thread.wg_slot (t : Thread) (r : R5) (x : Word) : (t.wg r x).slot = t.slot := by unfold Thread.wg; split <;> rfl
@[simp] theorem Thread.wg_child (t : Thread) (r : R5) (x : Word) : (t.wg r x).child = t.child := by unfold Thread.wg; split <;> rfl
@[simp] theorem Thread.wg_fw (t : Thread) (r : R5) (x : Word) : (t.wg r x).fw = t.fw := by unfold Thread.wg; split <;> rfl
@[simp] theorem Thread.wg_core (t : Thread) (r : R5) (x : Word) : (t.wg r x).core = t.core := by unfold Thread.wg; split <;> rfl
@[simp] theorem Thread.wg_pslot (t : Thread) (r : R5) (x : Word) : (t.wg r x).pslot = t.pslot := by unfold Thread.wg; split <;> rfl
@[simp] theorem Thread.wg_home (t : Thread) (r : R5) (x : Word) : (t.wg r x).home = t.home := by unfold Thread.wg; split <;> rfl
@[simp] theorem Thread.wg_v (t : Thread) (r : R5) (x : Word) : (t.wg r x).v = t.v := by unfold Thread.wg; split <;> rfl
@[simp] theorem Thread.wg_p (t : Thread) (r : R5) (x : Word) : (t.wg r x).p = t.p := by unfold Thread.wg; split <;> rfl
@[simp] theorem Thread.wg_sg (t : Thread) (r : R5) (x : Word) : (t.wg r x).sg = t.sg := by unfold Thread.wg; split <;> rfl
@[simp] theorem Thread.wg_sgw (t : Thread) (r : R5) (x : Word) : (t.wg r x).sgw = t.sgw := by unfold Thread.wg; split <;> rfl
@[simp] theorem Thread.wg_pc (t : Thread) (r : R5) (x : Word) : (t.wg r x).pc = t.pc := by unfold Thread.wg; split <;> rfl
@[simp] theorem Thread.wg_shadow (t : Thread) (r : R5) (x : Word) : (t.wg r x).shadow = t.shadow := by unfold Thread.wg; split <;> rfl
@[simp] theorem Thread.wg_windows (t : Thread) (r : R5) (x : Word) : (t.wg r x).windows = t.windows := by unfold Thread.wg; split <;> rfl
@[simp] theorem Thread.wg_pend (t : Thread) (r : R5) (x : Word) : (t.wg r x).pend = t.pend := by unfold Thread.wg; split <;> rfl
@[simp] theorem Thread.wg_tcause (t : Thread) (r : R5) (x : Word) : (t.wg r x).tcause = t.tcause := by unfold Thread.wg; split <;> rfl
@[simp] theorem Thread.wg_tpc (t : Thread) (r : R5) (x : Word) : (t.wg r x).tpc = t.tpc := by unfold Thread.wg; split <;> rfl
@[simp] theorem Thread.wg_tpcd (t : Thread) (r : R5) (x : Word) : (t.wg r x).tpcd = t.tpcd := by unfold Thread.wg; split <;> rfl
@[simp] theorem Thread.wg_tval (t : Thread) (r : R5) (x : Word) : (t.wg r x).tval = t.tval := by unfold Thread.wg; split <;> rfl
@[simp] theorem Thread.wg_topc (t : Thread) (r : R5) (x : Word) : (t.wg r x).topc = t.topc := by unfold Thread.wg; split <;> rfl
@[simp] theorem Thread.wg_tvec (t : Thread) (r : R5) (x : Word) : (t.wg r x).tvec = t.tvec := by unfold Thread.wg; split <;> rfl
@[simp] theorem Thread.wg_tscr0 (t : Thread) (r : R5) (x : Word) : (t.wg r x).tscr0 = t.tscr0 := by unfold Thread.wg; split <;> rfl
@[simp] theorem Thread.wg_tscr1 (t : Thread) (r : R5) (x : Word) : (t.wg r x).tscr1 = t.tscr1 := by unfold Thread.wg; split <;> rfl
@[simp] theorem Thread.wg_inh (t : Thread) (r : R5) (x : Word) : (t.wg r x).inh = t.inh := by unfold Thread.wg; split <;> rfl
@[simp] theorem Thread.wg_vlive (t : Thread) (r : R5) (x : Word) : (t.wg r x).vlive = t.vlive := by unfold Thread.wg; split <;> rfl
@[simp] theorem Thread.wg_mmxsrc (t : Thread) (r : R5) (x : Word) : (t.wg r x).mmxsrc = t.mmxsrc := by unfold Thread.wg; split <;> rfl
@[simp] theorem Thread.wg_icount (t : Thread) (r : R5) (x : Word) : (t.wg r x).icount = t.icount := by unfold Thread.wg; split <;> rfl
@[simp] theorem Thread.wg_rng (t : Thread) (r : R5) (x : Word) : (t.wg r x).rng = t.rng := by unfold Thread.wg; split <;> rfl
@[simp] theorem Thread.wg_rngBase (t : Thread) (r : R5) (x : Word) : (t.wg r x).rngBase = t.rngBase := by unfold Thread.wg; split <;> rfl
@[simp] theorem Thread.wg_mpri (t : Thread) (r : R5) (x : Word) : (t.wg r x).mpri = t.mpri := by unfold Thread.wg; split <;> rfl
@[simp] theorem Thread.wg_since (t : Thread) (r : R5) (x : Word) : (t.wg r x).since = t.since := by unfold Thread.wg; split <;> rfl
@[simp] theorem Thread.wg_seen (t : Thread) (r : R5) (x : Word) : (t.wg r x).seen = t.seen := by unfold Thread.wg; split <;> rfl
@[simp] theorem Thread.wg_displace (t : Thread) (r : R5) (x : Word) : (t.wg r x).displace = t.displace := by unfold Thread.wg; split <;> rfl
@[simp] theorem Thread.wg_halting (t : Thread) (r : R5) (x : Word) : (t.wg r x).halting = t.halting := by unfold Thread.wg; split <;> rfl
@[simp] theorem Thread.wg_touched (t : Thread) (r : R5) (x : Word) : (t.wg r x).touched = t.touched := by unfold Thread.wg; split <;> rfl
@[simp] theorem Thread.wg_fenced (t : Thread) (r : R5) (x : Word) : (t.wg r x).fenced = t.fenced := by unfold Thread.wg; split <;> rfl
@[simp] theorem Thread.wg_clock (t : Thread) (r : R5) (x : Word) : (t.wg r x).clock = t.clock := by unfold Thread.wg; split <;> rfl
@[simp] theorem Thread.wg_epoch (t : Thread) (r : R5) (x : Word) : (t.wg r x).epoch = t.epoch := by unfold Thread.wg; split <;> rfl
@[simp] theorem Thread.wg_park (t : Thread) (r : R5) (x : Word) : (t.wg r x).park = t.park := by unfold Thread.wg; split <;> rfl
@[simp] theorem Thread.wg_ticket (t : Thread) (r : R5) (x : Word) : (t.wg r x).ticket = t.ticket := by unfold Thread.wg; split <;> rfl
@[simp] theorem Thread.wg_again (t : Thread) (r : R5) (x : Word) : (t.wg r x).again = t.again := by unfold Thread.wg; split <;> rfl
@[simp] theorem Thread.wg_seq (t : Thread) (r : R5) (x : Word) : (t.wg r x).seq = t.seq := by unfold Thread.wg; split <;> rfl
@[simp] theorem Thread.wg_verdicts (t : Thread) (r : R5) (x : Word) : (t.wg r x).verdicts = t.verdicts := by unfold Thread.wg; split <;> rfl
@[simp] theorem Thread.wg_late (t : Thread) (r : R5) (x : Word) : (t.wg r x).late = t.late := by unfold Thread.wg; split <;> rfl
@[simp] theorem Thread.wg_msg (t : Thread) (r : R5) (x : Word) : (t.wg r x).msg = t.msg := by unfold Thread.wg; split <;> rfl
@[simp] theorem Thread.wg_dig (t : Thread) (r : R5) (x : Word) : (t.wg r x).dig = t.dig := by unfold Thread.wg; split <;> rfl
@[simp] theorem Thread.wg_folded (t : Thread) (r : R5) (x : Word) : (t.wg r x).folded = t.folded := by unfold Thread.wg; split <;> rfl
@[simp] theorem Thread.wg_folds (t : Thread) (r : R5) (x : Word) : (t.wg r x).folds = t.folds := by unfold Thread.wg; split <;> rfl
@[simp] theorem Thread.wg_runnels (t : Thread) (r : R5) (x : Word) : (t.wg r x).runnels = t.runnels := by unfold Thread.wg; split <;> rfl
@[simp] theorem Thread.wg_spt (t : Thread) (r : R5) (x : Word) : (t.wg r x).spt = t.spt := by unfold Thread.wg; split <;> rfl
@[simp] theorem Thread.wg_caps (t : Thread) (r : R5) (x : Word) : (t.wg r x).caps = t.caps := by unfold Thread.wg; split <;> rfl
@[simp] theorem Thread.wg_lastbeta (t : Thread) (r : R5) (x : Word) : (t.wg r x).lastbeta = t.lastbeta := by unfold Thread.wg; split <;> rfl
@[simp] theorem Thread.wg_item (t : Thread) (r : R5) (x : Word) : (t.wg r x).item = t.item := by unfold Thread.wg; split <;> rfl
@[simp] theorem Thread.wg_lane (t : Thread) (r : R5) (x : Word) : (t.wg r x).lane = t.lane := by unfold Thread.wg; split <;> rfl
@[simp] theorem Thread.wg_loop (t : Thread) (r : R5) (x : Word) : (t.wg r x).loop = t.loop := by unfold Thread.wg; split <;> rfl
@[simp] theorem Thread.wg_skip (t : Thread) (r : R5) (x : Word) : (t.wg r x).skip = t.skip := by unfold Thread.wg; split <;> rfl
@[simp] theorem Thread.wg_failed (t : Thread) (r : R5) (x : Word) : (t.wg r x).failed = t.failed := by unfold Thread.wg; split <;> rfl

/-! ### wv -/

@[simp] theorem Thread.wv_uid (t : Thread) (r : R5) (x : VReg) : (t.wv r x).uid = t.uid := rfl
@[simp] theorem Thread.wv_task (t : Thread) (r : R5) (x : VReg) : (t.wv r x).task = t.task := rfl
@[simp] theorem Thread.wv_vu (t : Thread) (r : R5) (x : VReg) : (t.wv r x).vu = t.vu := rfl
@[simp] theorem Thread.wv_slot (t : Thread) (r : R5) (x : VReg) : (t.wv r x).slot = t.slot := rfl
@[simp] theorem Thread.wv_child (t : Thread) (r : R5) (x : VReg) : (t.wv r x).child = t.child := rfl
@[simp] theorem Thread.wv_fw (t : Thread) (r : R5) (x : VReg) : (t.wv r x).fw = t.fw := rfl
@[simp] theorem Thread.wv_core (t : Thread) (r : R5) (x : VReg) : (t.wv r x).core = t.core := rfl
@[simp] theorem Thread.wv_pslot (t : Thread) (r : R5) (x : VReg) : (t.wv r x).pslot = t.pslot := rfl
@[simp] theorem Thread.wv_home (t : Thread) (r : R5) (x : VReg) : (t.wv r x).home = t.home := rfl
@[simp] theorem Thread.wv_g (t : Thread) (r : R5) (x : VReg) : (t.wv r x).g = t.g := rfl
@[simp] theorem Thread.wv_p (t : Thread) (r : R5) (x : VReg) : (t.wv r x).p = t.p := rfl
@[simp] theorem Thread.wv_sg (t : Thread) (r : R5) (x : VReg) : (t.wv r x).sg = t.sg := rfl
@[simp] theorem Thread.wv_sgw (t : Thread) (r : R5) (x : VReg) : (t.wv r x).sgw = t.sgw := rfl
@[simp] theorem Thread.wv_pc (t : Thread) (r : R5) (x : VReg) : (t.wv r x).pc = t.pc := rfl
@[simp] theorem Thread.wv_shadow (t : Thread) (r : R5) (x : VReg) : (t.wv r x).shadow = t.shadow := rfl
@[simp] theorem Thread.wv_windows (t : Thread) (r : R5) (x : VReg) : (t.wv r x).windows = t.windows := rfl
@[simp] theorem Thread.wv_pend (t : Thread) (r : R5) (x : VReg) : (t.wv r x).pend = t.pend := rfl
@[simp] theorem Thread.wv_tcause (t : Thread) (r : R5) (x : VReg) : (t.wv r x).tcause = t.tcause := rfl
@[simp] theorem Thread.wv_tpc (t : Thread) (r : R5) (x : VReg) : (t.wv r x).tpc = t.tpc := rfl
@[simp] theorem Thread.wv_tpcd (t : Thread) (r : R5) (x : VReg) : (t.wv r x).tpcd = t.tpcd := rfl
@[simp] theorem Thread.wv_tval (t : Thread) (r : R5) (x : VReg) : (t.wv r x).tval = t.tval := rfl
@[simp] theorem Thread.wv_topc (t : Thread) (r : R5) (x : VReg) : (t.wv r x).topc = t.topc := rfl
@[simp] theorem Thread.wv_tvec (t : Thread) (r : R5) (x : VReg) : (t.wv r x).tvec = t.tvec := rfl
@[simp] theorem Thread.wv_tscr0 (t : Thread) (r : R5) (x : VReg) : (t.wv r x).tscr0 = t.tscr0 := rfl
@[simp] theorem Thread.wv_tscr1 (t : Thread) (r : R5) (x : VReg) : (t.wv r x).tscr1 = t.tscr1 := rfl
@[simp] theorem Thread.wv_inh (t : Thread) (r : R5) (x : VReg) : (t.wv r x).inh = t.inh := rfl
@[simp] theorem Thread.wv_vlive (t : Thread) (r : R5) (x : VReg) : (t.wv r x).vlive = t.vlive := rfl
@[simp] theorem Thread.wv_mmxsrc (t : Thread) (r : R5) (x : VReg) : (t.wv r x).mmxsrc = t.mmxsrc := rfl
@[simp] theorem Thread.wv_icount (t : Thread) (r : R5) (x : VReg) : (t.wv r x).icount = t.icount := rfl
@[simp] theorem Thread.wv_rng (t : Thread) (r : R5) (x : VReg) : (t.wv r x).rng = t.rng := rfl
@[simp] theorem Thread.wv_rngBase (t : Thread) (r : R5) (x : VReg) : (t.wv r x).rngBase = t.rngBase := rfl
@[simp] theorem Thread.wv_mpri (t : Thread) (r : R5) (x : VReg) : (t.wv r x).mpri = t.mpri := rfl
@[simp] theorem Thread.wv_since (t : Thread) (r : R5) (x : VReg) : (t.wv r x).since = t.since := rfl
@[simp] theorem Thread.wv_seen (t : Thread) (r : R5) (x : VReg) : (t.wv r x).seen = t.seen := rfl
@[simp] theorem Thread.wv_displace (t : Thread) (r : R5) (x : VReg) : (t.wv r x).displace = t.displace := rfl
@[simp] theorem Thread.wv_halting (t : Thread) (r : R5) (x : VReg) : (t.wv r x).halting = t.halting := rfl
@[simp] theorem Thread.wv_touched (t : Thread) (r : R5) (x : VReg) : (t.wv r x).touched = t.touched := rfl
@[simp] theorem Thread.wv_fenced (t : Thread) (r : R5) (x : VReg) : (t.wv r x).fenced = t.fenced := rfl
@[simp] theorem Thread.wv_clock (t : Thread) (r : R5) (x : VReg) : (t.wv r x).clock = t.clock := rfl
@[simp] theorem Thread.wv_epoch (t : Thread) (r : R5) (x : VReg) : (t.wv r x).epoch = t.epoch := rfl
@[simp] theorem Thread.wv_park (t : Thread) (r : R5) (x : VReg) : (t.wv r x).park = t.park := rfl
@[simp] theorem Thread.wv_ticket (t : Thread) (r : R5) (x : VReg) : (t.wv r x).ticket = t.ticket := rfl
@[simp] theorem Thread.wv_again (t : Thread) (r : R5) (x : VReg) : (t.wv r x).again = t.again := rfl
@[simp] theorem Thread.wv_seq (t : Thread) (r : R5) (x : VReg) : (t.wv r x).seq = t.seq := rfl
@[simp] theorem Thread.wv_verdicts (t : Thread) (r : R5) (x : VReg) : (t.wv r x).verdicts = t.verdicts := rfl
@[simp] theorem Thread.wv_late (t : Thread) (r : R5) (x : VReg) : (t.wv r x).late = t.late := rfl
@[simp] theorem Thread.wv_msg (t : Thread) (r : R5) (x : VReg) : (t.wv r x).msg = t.msg := rfl
@[simp] theorem Thread.wv_dig (t : Thread) (r : R5) (x : VReg) : (t.wv r x).dig = t.dig := rfl
@[simp] theorem Thread.wv_folded (t : Thread) (r : R5) (x : VReg) : (t.wv r x).folded = t.folded := rfl
@[simp] theorem Thread.wv_folds (t : Thread) (r : R5) (x : VReg) : (t.wv r x).folds = t.folds := rfl
@[simp] theorem Thread.wv_runnels (t : Thread) (r : R5) (x : VReg) : (t.wv r x).runnels = t.runnels := rfl
@[simp] theorem Thread.wv_spt (t : Thread) (r : R5) (x : VReg) : (t.wv r x).spt = t.spt := rfl
@[simp] theorem Thread.wv_caps (t : Thread) (r : R5) (x : VReg) : (t.wv r x).caps = t.caps := rfl
@[simp] theorem Thread.wv_lastbeta (t : Thread) (r : R5) (x : VReg) : (t.wv r x).lastbeta = t.lastbeta := rfl
@[simp] theorem Thread.wv_item (t : Thread) (r : R5) (x : VReg) : (t.wv r x).item = t.item := rfl
@[simp] theorem Thread.wv_lane (t : Thread) (r : R5) (x : VReg) : (t.wv r x).lane = t.lane := rfl
@[simp] theorem Thread.wv_loop (t : Thread) (r : R5) (x : VReg) : (t.wv r x).loop = t.loop := rfl
@[simp] theorem Thread.wv_skip (t : Thread) (r : R5) (x : VReg) : (t.wv r x).skip = t.skip := rfl
@[simp] theorem Thread.wv_failed (t : Thread) (r : R5) (x : VReg) : (t.wv r x).failed = t.failed := rfl

/-! ### wp -/

@[simp] theorem Thread.wp_uid (t : Thread) (r : BitVec 3) (x : PReg) : (t.wp r x).uid = t.uid := by unfold Thread.wp; split <;> rfl
@[simp] theorem Thread.wp_task (t : Thread) (r : BitVec 3) (x : PReg) : (t.wp r x).task = t.task := by unfold Thread.wp; split <;> rfl
@[simp] theorem Thread.wp_vu (t : Thread) (r : BitVec 3) (x : PReg) : (t.wp r x).vu = t.vu := by unfold Thread.wp; split <;> rfl
@[simp] theorem Thread.wp_slot (t : Thread) (r : BitVec 3) (x : PReg) : (t.wp r x).slot = t.slot := by unfold Thread.wp; split <;> rfl
@[simp] theorem Thread.wp_child (t : Thread) (r : BitVec 3) (x : PReg) : (t.wp r x).child = t.child := by unfold Thread.wp; split <;> rfl
@[simp] theorem Thread.wp_fw (t : Thread) (r : BitVec 3) (x : PReg) : (t.wp r x).fw = t.fw := by unfold Thread.wp; split <;> rfl
@[simp] theorem Thread.wp_core (t : Thread) (r : BitVec 3) (x : PReg) : (t.wp r x).core = t.core := by unfold Thread.wp; split <;> rfl
@[simp] theorem Thread.wp_pslot (t : Thread) (r : BitVec 3) (x : PReg) : (t.wp r x).pslot = t.pslot := by unfold Thread.wp; split <;> rfl
@[simp] theorem Thread.wp_home (t : Thread) (r : BitVec 3) (x : PReg) : (t.wp r x).home = t.home := by unfold Thread.wp; split <;> rfl
@[simp] theorem Thread.wp_g (t : Thread) (r : BitVec 3) (x : PReg) : (t.wp r x).g = t.g := by unfold Thread.wp; split <;> rfl
@[simp] theorem Thread.wp_v (t : Thread) (r : BitVec 3) (x : PReg) : (t.wp r x).v = t.v := by unfold Thread.wp; split <;> rfl
@[simp] theorem Thread.wp_sg (t : Thread) (r : BitVec 3) (x : PReg) : (t.wp r x).sg = t.sg := by unfold Thread.wp; split <;> rfl
@[simp] theorem Thread.wp_sgw (t : Thread) (r : BitVec 3) (x : PReg) : (t.wp r x).sgw = t.sgw := by unfold Thread.wp; split <;> rfl
@[simp] theorem Thread.wp_pc (t : Thread) (r : BitVec 3) (x : PReg) : (t.wp r x).pc = t.pc := by unfold Thread.wp; split <;> rfl
@[simp] theorem Thread.wp_shadow (t : Thread) (r : BitVec 3) (x : PReg) : (t.wp r x).shadow = t.shadow := by unfold Thread.wp; split <;> rfl
@[simp] theorem Thread.wp_windows (t : Thread) (r : BitVec 3) (x : PReg) : (t.wp r x).windows = t.windows := by unfold Thread.wp; split <;> rfl
@[simp] theorem Thread.wp_pend (t : Thread) (r : BitVec 3) (x : PReg) : (t.wp r x).pend = t.pend := by unfold Thread.wp; split <;> rfl
@[simp] theorem Thread.wp_tcause (t : Thread) (r : BitVec 3) (x : PReg) : (t.wp r x).tcause = t.tcause := by unfold Thread.wp; split <;> rfl
@[simp] theorem Thread.wp_tpc (t : Thread) (r : BitVec 3) (x : PReg) : (t.wp r x).tpc = t.tpc := by unfold Thread.wp; split <;> rfl
@[simp] theorem Thread.wp_tpcd (t : Thread) (r : BitVec 3) (x : PReg) : (t.wp r x).tpcd = t.tpcd := by unfold Thread.wp; split <;> rfl
@[simp] theorem Thread.wp_tval (t : Thread) (r : BitVec 3) (x : PReg) : (t.wp r x).tval = t.tval := by unfold Thread.wp; split <;> rfl
@[simp] theorem Thread.wp_topc (t : Thread) (r : BitVec 3) (x : PReg) : (t.wp r x).topc = t.topc := by unfold Thread.wp; split <;> rfl
@[simp] theorem Thread.wp_tvec (t : Thread) (r : BitVec 3) (x : PReg) : (t.wp r x).tvec = t.tvec := by unfold Thread.wp; split <;> rfl
@[simp] theorem Thread.wp_tscr0 (t : Thread) (r : BitVec 3) (x : PReg) : (t.wp r x).tscr0 = t.tscr0 := by unfold Thread.wp; split <;> rfl
@[simp] theorem Thread.wp_tscr1 (t : Thread) (r : BitVec 3) (x : PReg) : (t.wp r x).tscr1 = t.tscr1 := by unfold Thread.wp; split <;> rfl
@[simp] theorem Thread.wp_inh (t : Thread) (r : BitVec 3) (x : PReg) : (t.wp r x).inh = t.inh := by unfold Thread.wp; split <;> rfl
@[simp] theorem Thread.wp_vlive (t : Thread) (r : BitVec 3) (x : PReg) : (t.wp r x).vlive = t.vlive := by unfold Thread.wp; split <;> rfl
@[simp] theorem Thread.wp_mmxsrc (t : Thread) (r : BitVec 3) (x : PReg) : (t.wp r x).mmxsrc = t.mmxsrc := by unfold Thread.wp; split <;> rfl
@[simp] theorem Thread.wp_icount (t : Thread) (r : BitVec 3) (x : PReg) : (t.wp r x).icount = t.icount := by unfold Thread.wp; split <;> rfl
@[simp] theorem Thread.wp_rng (t : Thread) (r : BitVec 3) (x : PReg) : (t.wp r x).rng = t.rng := by unfold Thread.wp; split <;> rfl
@[simp] theorem Thread.wp_rngBase (t : Thread) (r : BitVec 3) (x : PReg) : (t.wp r x).rngBase = t.rngBase := by unfold Thread.wp; split <;> rfl
@[simp] theorem Thread.wp_mpri (t : Thread) (r : BitVec 3) (x : PReg) : (t.wp r x).mpri = t.mpri := by unfold Thread.wp; split <;> rfl
@[simp] theorem Thread.wp_since (t : Thread) (r : BitVec 3) (x : PReg) : (t.wp r x).since = t.since := by unfold Thread.wp; split <;> rfl
@[simp] theorem Thread.wp_seen (t : Thread) (r : BitVec 3) (x : PReg) : (t.wp r x).seen = t.seen := by unfold Thread.wp; split <;> rfl
@[simp] theorem Thread.wp_displace (t : Thread) (r : BitVec 3) (x : PReg) : (t.wp r x).displace = t.displace := by unfold Thread.wp; split <;> rfl
@[simp] theorem Thread.wp_halting (t : Thread) (r : BitVec 3) (x : PReg) : (t.wp r x).halting = t.halting := by unfold Thread.wp; split <;> rfl
@[simp] theorem Thread.wp_touched (t : Thread) (r : BitVec 3) (x : PReg) : (t.wp r x).touched = t.touched := by unfold Thread.wp; split <;> rfl
@[simp] theorem Thread.wp_fenced (t : Thread) (r : BitVec 3) (x : PReg) : (t.wp r x).fenced = t.fenced := by unfold Thread.wp; split <;> rfl
@[simp] theorem Thread.wp_clock (t : Thread) (r : BitVec 3) (x : PReg) : (t.wp r x).clock = t.clock := by unfold Thread.wp; split <;> rfl
@[simp] theorem Thread.wp_epoch (t : Thread) (r : BitVec 3) (x : PReg) : (t.wp r x).epoch = t.epoch := by unfold Thread.wp; split <;> rfl
@[simp] theorem Thread.wp_park (t : Thread) (r : BitVec 3) (x : PReg) : (t.wp r x).park = t.park := by unfold Thread.wp; split <;> rfl
@[simp] theorem Thread.wp_ticket (t : Thread) (r : BitVec 3) (x : PReg) : (t.wp r x).ticket = t.ticket := by unfold Thread.wp; split <;> rfl
@[simp] theorem Thread.wp_again (t : Thread) (r : BitVec 3) (x : PReg) : (t.wp r x).again = t.again := by unfold Thread.wp; split <;> rfl
@[simp] theorem Thread.wp_seq (t : Thread) (r : BitVec 3) (x : PReg) : (t.wp r x).seq = t.seq := by unfold Thread.wp; split <;> rfl
@[simp] theorem Thread.wp_verdicts (t : Thread) (r : BitVec 3) (x : PReg) : (t.wp r x).verdicts = t.verdicts := by unfold Thread.wp; split <;> rfl
@[simp] theorem Thread.wp_late (t : Thread) (r : BitVec 3) (x : PReg) : (t.wp r x).late = t.late := by unfold Thread.wp; split <;> rfl
@[simp] theorem Thread.wp_msg (t : Thread) (r : BitVec 3) (x : PReg) : (t.wp r x).msg = t.msg := by unfold Thread.wp; split <;> rfl
@[simp] theorem Thread.wp_dig (t : Thread) (r : BitVec 3) (x : PReg) : (t.wp r x).dig = t.dig := by unfold Thread.wp; split <;> rfl
@[simp] theorem Thread.wp_folded (t : Thread) (r : BitVec 3) (x : PReg) : (t.wp r x).folded = t.folded := by unfold Thread.wp; split <;> rfl
@[simp] theorem Thread.wp_folds (t : Thread) (r : BitVec 3) (x : PReg) : (t.wp r x).folds = t.folds := by unfold Thread.wp; split <;> rfl
@[simp] theorem Thread.wp_runnels (t : Thread) (r : BitVec 3) (x : PReg) : (t.wp r x).runnels = t.runnels := by unfold Thread.wp; split <;> rfl
@[simp] theorem Thread.wp_spt (t : Thread) (r : BitVec 3) (x : PReg) : (t.wp r x).spt = t.spt := by unfold Thread.wp; split <;> rfl
@[simp] theorem Thread.wp_caps (t : Thread) (r : BitVec 3) (x : PReg) : (t.wp r x).caps = t.caps := by unfold Thread.wp; split <;> rfl
@[simp] theorem Thread.wp_lastbeta (t : Thread) (r : BitVec 3) (x : PReg) : (t.wp r x).lastbeta = t.lastbeta := by unfold Thread.wp; split <;> rfl
@[simp] theorem Thread.wp_item (t : Thread) (r : BitVec 3) (x : PReg) : (t.wp r x).item = t.item := by unfold Thread.wp; split <;> rfl
@[simp] theorem Thread.wp_lane (t : Thread) (r : BitVec 3) (x : PReg) : (t.wp r x).lane = t.lane := by unfold Thread.wp; split <;> rfl
@[simp] theorem Thread.wp_loop (t : Thread) (r : BitVec 3) (x : PReg) : (t.wp r x).loop = t.loop := by unfold Thread.wp; split <;> rfl
@[simp] theorem Thread.wp_skip (t : Thread) (r : BitVec 3) (x : PReg) : (t.wp r x).skip = t.skip := by unfold Thread.wp; split <;> rfl
@[simp] theorem Thread.wp_failed (t : Thread) (r : BitVec 3) (x : PReg) : (t.wp r x).failed = t.failed := by unfold Thread.wp; split <;> rfl

/-! ### retire -/

@[simp] theorem Thread.retire_uid (t : Thread) (n : Nat) : (t.retire n).uid = t.uid := rfl
@[simp] theorem Thread.retire_task (t : Thread) (n : Nat) : (t.retire n).task = t.task := rfl
@[simp] theorem Thread.retire_vu (t : Thread) (n : Nat) : (t.retire n).vu = t.vu := rfl
@[simp] theorem Thread.retire_slot (t : Thread) (n : Nat) : (t.retire n).slot = t.slot := rfl
@[simp] theorem Thread.retire_child (t : Thread) (n : Nat) : (t.retire n).child = t.child := rfl
@[simp] theorem Thread.retire_fw (t : Thread) (n : Nat) : (t.retire n).fw = t.fw := rfl
@[simp] theorem Thread.retire_core (t : Thread) (n : Nat) : (t.retire n).core = t.core := rfl
@[simp] theorem Thread.retire_pslot (t : Thread) (n : Nat) : (t.retire n).pslot = t.pslot := rfl
@[simp] theorem Thread.retire_home (t : Thread) (n : Nat) : (t.retire n).home = t.home := rfl
@[simp] theorem Thread.retire_g (t : Thread) (n : Nat) : (t.retire n).g = t.g := rfl
@[simp] theorem Thread.retire_v (t : Thread) (n : Nat) : (t.retire n).v = t.v := rfl
@[simp] theorem Thread.retire_p (t : Thread) (n : Nat) : (t.retire n).p = t.p := rfl
@[simp] theorem Thread.retire_sg (t : Thread) (n : Nat) : (t.retire n).sg = t.sg := rfl
@[simp] theorem Thread.retire_sgw (t : Thread) (n : Nat) : (t.retire n).sgw = t.sgw := rfl
@[simp] theorem Thread.retire_pend (t : Thread) (n : Nat) : (t.retire n).pend = t.pend := rfl
@[simp] theorem Thread.retire_tcause (t : Thread) (n : Nat) : (t.retire n).tcause = t.tcause := rfl
@[simp] theorem Thread.retire_tpc (t : Thread) (n : Nat) : (t.retire n).tpc = t.tpc := rfl
@[simp] theorem Thread.retire_tpcd (t : Thread) (n : Nat) : (t.retire n).tpcd = t.tpcd := rfl
@[simp] theorem Thread.retire_tval (t : Thread) (n : Nat) : (t.retire n).tval = t.tval := rfl
@[simp] theorem Thread.retire_topc (t : Thread) (n : Nat) : (t.retire n).topc = t.topc := rfl
@[simp] theorem Thread.retire_tvec (t : Thread) (n : Nat) : (t.retire n).tvec = t.tvec := rfl
@[simp] theorem Thread.retire_tscr0 (t : Thread) (n : Nat) : (t.retire n).tscr0 = t.tscr0 := rfl
@[simp] theorem Thread.retire_tscr1 (t : Thread) (n : Nat) : (t.retire n).tscr1 = t.tscr1 := rfl
@[simp] theorem Thread.retire_inh (t : Thread) (n : Nat) : (t.retire n).inh = t.inh := rfl
@[simp] theorem Thread.retire_vlive (t : Thread) (n : Nat) : (t.retire n).vlive = t.vlive := rfl
@[simp] theorem Thread.retire_mmxsrc (t : Thread) (n : Nat) : (t.retire n).mmxsrc = t.mmxsrc := rfl
@[simp] theorem Thread.retire_rng (t : Thread) (n : Nat) : (t.retire n).rng = t.rng := rfl
@[simp] theorem Thread.retire_rngBase (t : Thread) (n : Nat) : (t.retire n).rngBase = t.rngBase := rfl
@[simp] theorem Thread.retire_mpri (t : Thread) (n : Nat) : (t.retire n).mpri = t.mpri := rfl
@[simp] theorem Thread.retire_since (t : Thread) (n : Nat) : (t.retire n).since = t.since := rfl
@[simp] theorem Thread.retire_seen (t : Thread) (n : Nat) : (t.retire n).seen = t.seen := rfl
@[simp] theorem Thread.retire_displace (t : Thread) (n : Nat) : (t.retire n).displace = t.displace := rfl
@[simp] theorem Thread.retire_halting (t : Thread) (n : Nat) : (t.retire n).halting = false := rfl
@[simp] theorem Thread.retire_touched (t : Thread) (n : Nat) : (t.retire n).touched = t.touched := rfl
@[simp] theorem Thread.retire_fenced (t : Thread) (n : Nat) : (t.retire n).fenced = t.fenced := rfl
@[simp] theorem Thread.retire_clock (t : Thread) (n : Nat) : (t.retire n).clock = t.clock := rfl
@[simp] theorem Thread.retire_epoch (t : Thread) (n : Nat) : (t.retire n).epoch = t.epoch := rfl
@[simp] theorem Thread.retire_park (t : Thread) (n : Nat) : (t.retire n).park = t.park := rfl
@[simp] theorem Thread.retire_ticket (t : Thread) (n : Nat) : (t.retire n).ticket = t.ticket := rfl
@[simp] theorem Thread.retire_verdicts (t : Thread) (n : Nat) : (t.retire n).verdicts = t.verdicts := rfl
@[simp] theorem Thread.retire_late (t : Thread) (n : Nat) : (t.retire n).late = t.late := rfl
@[simp] theorem Thread.retire_msg (t : Thread) (n : Nat) : (t.retire n).msg = t.msg := rfl
@[simp] theorem Thread.retire_dig (t : Thread) (n : Nat) : (t.retire n).dig = t.dig := rfl
@[simp] theorem Thread.retire_folded (t : Thread) (n : Nat) : (t.retire n).folded = t.folded := rfl
@[simp] theorem Thread.retire_folds (t : Thread) (n : Nat) : (t.retire n).folds = t.folds := rfl
@[simp] theorem Thread.retire_runnels (t : Thread) (n : Nat) : (t.retire n).runnels = t.runnels := rfl
@[simp] theorem Thread.retire_spt (t : Thread) (n : Nat) : (t.retire n).spt = t.spt := rfl
@[simp] theorem Thread.retire_caps (t : Thread) (n : Nat) : (t.retire n).caps = t.caps := rfl
@[simp] theorem Thread.retire_lastbeta (t : Thread) (n : Nat) : (t.retire n).lastbeta = t.lastbeta := rfl
@[simp] theorem Thread.retire_item (t : Thread) (n : Nat) : (t.retire n).item = t.item := rfl
@[simp] theorem Thread.retire_lane (t : Thread) (n : Nat) : (t.retire n).lane = t.lane := rfl
@[simp] theorem Thread.retire_loop (t : Thread) (n : Nat) : (t.retire n).loop = t.loop := rfl
@[simp] theorem Thread.retire_skip (t : Thread) (n : Nat) : (t.retire n).skip = t.skip := rfl

/-! ### unpend -/

@[simp] theorem Thread.unpend_uid (t : Thread) (r : R5) : (t.unpend r).uid = t.uid := rfl
@[simp] theorem Thread.unpend_task (t : Thread) (r : R5) : (t.unpend r).task = t.task := rfl
@[simp] theorem Thread.unpend_vu (t : Thread) (r : R5) : (t.unpend r).vu = t.vu := rfl
@[simp] theorem Thread.unpend_slot (t : Thread) (r : R5) : (t.unpend r).slot = t.slot := rfl
@[simp] theorem Thread.unpend_child (t : Thread) (r : R5) : (t.unpend r).child = t.child := rfl
@[simp] theorem Thread.unpend_fw (t : Thread) (r : R5) : (t.unpend r).fw = t.fw := rfl
@[simp] theorem Thread.unpend_core (t : Thread) (r : R5) : (t.unpend r).core = t.core := rfl
@[simp] theorem Thread.unpend_pslot (t : Thread) (r : R5) : (t.unpend r).pslot = t.pslot := rfl
@[simp] theorem Thread.unpend_home (t : Thread) (r : R5) : (t.unpend r).home = t.home := rfl
@[simp] theorem Thread.unpend_g (t : Thread) (r : R5) : (t.unpend r).g = t.g := rfl
@[simp] theorem Thread.unpend_v (t : Thread) (r : R5) : (t.unpend r).v = t.v := rfl
@[simp] theorem Thread.unpend_p (t : Thread) (r : R5) : (t.unpend r).p = t.p := rfl
@[simp] theorem Thread.unpend_sg (t : Thread) (r : R5) : (t.unpend r).sg = t.sg := rfl
@[simp] theorem Thread.unpend_sgw (t : Thread) (r : R5) : (t.unpend r).sgw = t.sgw := rfl
@[simp] theorem Thread.unpend_pc (t : Thread) (r : R5) : (t.unpend r).pc = t.pc := rfl
@[simp] theorem Thread.unpend_shadow (t : Thread) (r : R5) : (t.unpend r).shadow = t.shadow := rfl
@[simp] theorem Thread.unpend_windows (t : Thread) (r : R5) : (t.unpend r).windows = t.windows := rfl
@[simp] theorem Thread.unpend_tcause (t : Thread) (r : R5) : (t.unpend r).tcause = t.tcause := rfl
@[simp] theorem Thread.unpend_tpc (t : Thread) (r : R5) : (t.unpend r).tpc = t.tpc := rfl
@[simp] theorem Thread.unpend_tpcd (t : Thread) (r : R5) : (t.unpend r).tpcd = t.tpcd := rfl
@[simp] theorem Thread.unpend_tval (t : Thread) (r : R5) : (t.unpend r).tval = t.tval := rfl
@[simp] theorem Thread.unpend_topc (t : Thread) (r : R5) : (t.unpend r).topc = t.topc := rfl
@[simp] theorem Thread.unpend_tvec (t : Thread) (r : R5) : (t.unpend r).tvec = t.tvec := rfl
@[simp] theorem Thread.unpend_tscr0 (t : Thread) (r : R5) : (t.unpend r).tscr0 = t.tscr0 := rfl
@[simp] theorem Thread.unpend_tscr1 (t : Thread) (r : R5) : (t.unpend r).tscr1 = t.tscr1 := rfl
@[simp] theorem Thread.unpend_inh (t : Thread) (r : R5) : (t.unpend r).inh = t.inh := rfl
@[simp] theorem Thread.unpend_vlive (t : Thread) (r : R5) : (t.unpend r).vlive = t.vlive := rfl
@[simp] theorem Thread.unpend_mmxsrc (t : Thread) (r : R5) : (t.unpend r).mmxsrc = t.mmxsrc := rfl
@[simp] theorem Thread.unpend_icount (t : Thread) (r : R5) : (t.unpend r).icount = t.icount := rfl
@[simp] theorem Thread.unpend_rng (t : Thread) (r : R5) : (t.unpend r).rng = t.rng := rfl
@[simp] theorem Thread.unpend_rngBase (t : Thread) (r : R5) : (t.unpend r).rngBase = t.rngBase := rfl
@[simp] theorem Thread.unpend_mpri (t : Thread) (r : R5) : (t.unpend r).mpri = t.mpri := rfl
@[simp] theorem Thread.unpend_since (t : Thread) (r : R5) : (t.unpend r).since = t.since := rfl
@[simp] theorem Thread.unpend_seen (t : Thread) (r : R5) : (t.unpend r).seen = t.seen := rfl
@[simp] theorem Thread.unpend_displace (t : Thread) (r : R5) : (t.unpend r).displace = t.displace := rfl
@[simp] theorem Thread.unpend_halting (t : Thread) (r : R5) : (t.unpend r).halting = t.halting := rfl
@[simp] theorem Thread.unpend_touched (t : Thread) (r : R5) : (t.unpend r).touched = t.touched := rfl
@[simp] theorem Thread.unpend_fenced (t : Thread) (r : R5) : (t.unpend r).fenced = t.fenced := rfl
@[simp] theorem Thread.unpend_clock (t : Thread) (r : R5) : (t.unpend r).clock = t.clock := rfl
@[simp] theorem Thread.unpend_epoch (t : Thread) (r : R5) : (t.unpend r).epoch = t.epoch := rfl
@[simp] theorem Thread.unpend_park (t : Thread) (r : R5) : (t.unpend r).park = t.park := rfl
@[simp] theorem Thread.unpend_ticket (t : Thread) (r : R5) : (t.unpend r).ticket = t.ticket := rfl
@[simp] theorem Thread.unpend_again (t : Thread) (r : R5) : (t.unpend r).again = t.again := rfl
@[simp] theorem Thread.unpend_seq (t : Thread) (r : R5) : (t.unpend r).seq = t.seq := rfl
@[simp] theorem Thread.unpend_verdicts (t : Thread) (r : R5) : (t.unpend r).verdicts = t.verdicts := rfl
@[simp] theorem Thread.unpend_late (t : Thread) (r : R5) : (t.unpend r).late = t.late := rfl
@[simp] theorem Thread.unpend_msg (t : Thread) (r : R5) : (t.unpend r).msg = t.msg := rfl
@[simp] theorem Thread.unpend_dig (t : Thread) (r : R5) : (t.unpend r).dig = t.dig := rfl
@[simp] theorem Thread.unpend_folded (t : Thread) (r : R5) : (t.unpend r).folded = t.folded := rfl
@[simp] theorem Thread.unpend_folds (t : Thread) (r : R5) : (t.unpend r).folds = t.folds := rfl
@[simp] theorem Thread.unpend_runnels (t : Thread) (r : R5) : (t.unpend r).runnels = t.runnels := rfl
@[simp] theorem Thread.unpend_spt (t : Thread) (r : R5) : (t.unpend r).spt = t.spt := rfl
@[simp] theorem Thread.unpend_caps (t : Thread) (r : R5) : (t.unpend r).caps = t.caps := rfl
@[simp] theorem Thread.unpend_lastbeta (t : Thread) (r : R5) : (t.unpend r).lastbeta = t.lastbeta := rfl
@[simp] theorem Thread.unpend_item (t : Thread) (r : R5) : (t.unpend r).item = t.item := rfl
@[simp] theorem Thread.unpend_lane (t : Thread) (r : R5) : (t.unpend r).lane = t.lane := rfl
@[simp] theorem Thread.unpend_loop (t : Thread) (r : R5) : (t.unpend r).loop = t.loop := rfl
@[simp] theorem Thread.unpend_skip (t : Thread) (r : R5) : (t.unpend r).skip = t.skip := rfl
@[simp] theorem Thread.unpend_failed (t : Thread) (r : R5) : (t.unpend r).failed = t.failed := rfl

/-! ### addBuf -/

@[simp] theorem Thread.addBuf_uid (t : Thread) (l : List BufW) : (t.addBuf l).uid = t.uid := rfl
@[simp] theorem Thread.addBuf_task (t : Thread) (l : List BufW) : (t.addBuf l).task = t.task := rfl
@[simp] theorem Thread.addBuf_vu (t : Thread) (l : List BufW) : (t.addBuf l).vu = t.vu := rfl
@[simp] theorem Thread.addBuf_slot (t : Thread) (l : List BufW) : (t.addBuf l).slot = t.slot := rfl
@[simp] theorem Thread.addBuf_child (t : Thread) (l : List BufW) : (t.addBuf l).child = t.child := rfl
@[simp] theorem Thread.addBuf_fw (t : Thread) (l : List BufW) : (t.addBuf l).fw = t.fw := rfl
@[simp] theorem Thread.addBuf_core (t : Thread) (l : List BufW) : (t.addBuf l).core = t.core := rfl
@[simp] theorem Thread.addBuf_pslot (t : Thread) (l : List BufW) : (t.addBuf l).pslot = t.pslot := rfl
@[simp] theorem Thread.addBuf_home (t : Thread) (l : List BufW) : (t.addBuf l).home = t.home := rfl
@[simp] theorem Thread.addBuf_g (t : Thread) (l : List BufW) : (t.addBuf l).g = t.g := rfl
@[simp] theorem Thread.addBuf_v (t : Thread) (l : List BufW) : (t.addBuf l).v = t.v := rfl
@[simp] theorem Thread.addBuf_p (t : Thread) (l : List BufW) : (t.addBuf l).p = t.p := rfl
@[simp] theorem Thread.addBuf_sg (t : Thread) (l : List BufW) : (t.addBuf l).sg = t.sg := rfl
@[simp] theorem Thread.addBuf_sgw (t : Thread) (l : List BufW) : (t.addBuf l).sgw = t.sgw := rfl
@[simp] theorem Thread.addBuf_pc (t : Thread) (l : List BufW) : (t.addBuf l).pc = t.pc := rfl
@[simp] theorem Thread.addBuf_shadow (t : Thread) (l : List BufW) : (t.addBuf l).shadow = t.shadow := rfl
@[simp] theorem Thread.addBuf_windows (t : Thread) (l : List BufW) : (t.addBuf l).windows = t.windows := rfl
@[simp] theorem Thread.addBuf_pend (t : Thread) (l : List BufW) : (t.addBuf l).pend = t.pend := rfl
@[simp] theorem Thread.addBuf_tcause (t : Thread) (l : List BufW) : (t.addBuf l).tcause = t.tcause := rfl
@[simp] theorem Thread.addBuf_tpc (t : Thread) (l : List BufW) : (t.addBuf l).tpc = t.tpc := rfl
@[simp] theorem Thread.addBuf_tpcd (t : Thread) (l : List BufW) : (t.addBuf l).tpcd = t.tpcd := rfl
@[simp] theorem Thread.addBuf_tval (t : Thread) (l : List BufW) : (t.addBuf l).tval = t.tval := rfl
@[simp] theorem Thread.addBuf_topc (t : Thread) (l : List BufW) : (t.addBuf l).topc = t.topc := rfl
@[simp] theorem Thread.addBuf_tvec (t : Thread) (l : List BufW) : (t.addBuf l).tvec = t.tvec := rfl
@[simp] theorem Thread.addBuf_tscr0 (t : Thread) (l : List BufW) : (t.addBuf l).tscr0 = t.tscr0 := rfl
@[simp] theorem Thread.addBuf_tscr1 (t : Thread) (l : List BufW) : (t.addBuf l).tscr1 = t.tscr1 := rfl
@[simp] theorem Thread.addBuf_inh (t : Thread) (l : List BufW) : (t.addBuf l).inh = t.inh := rfl
@[simp] theorem Thread.addBuf_vlive (t : Thread) (l : List BufW) : (t.addBuf l).vlive = t.vlive := rfl
@[simp] theorem Thread.addBuf_mmxsrc (t : Thread) (l : List BufW) : (t.addBuf l).mmxsrc = t.mmxsrc := rfl
@[simp] theorem Thread.addBuf_icount (t : Thread) (l : List BufW) : (t.addBuf l).icount = t.icount := rfl
@[simp] theorem Thread.addBuf_rng (t : Thread) (l : List BufW) : (t.addBuf l).rng = t.rng := rfl
@[simp] theorem Thread.addBuf_rngBase (t : Thread) (l : List BufW) : (t.addBuf l).rngBase = t.rngBase := rfl
@[simp] theorem Thread.addBuf_mpri (t : Thread) (l : List BufW) : (t.addBuf l).mpri = t.mpri := rfl
@[simp] theorem Thread.addBuf_since (t : Thread) (l : List BufW) : (t.addBuf l).since = t.since := rfl
@[simp] theorem Thread.addBuf_seen (t : Thread) (l : List BufW) : (t.addBuf l).seen = t.seen := rfl
@[simp] theorem Thread.addBuf_displace (t : Thread) (l : List BufW) : (t.addBuf l).displace = t.displace := rfl
@[simp] theorem Thread.addBuf_halting (t : Thread) (l : List BufW) : (t.addBuf l).halting = t.halting := rfl
@[simp] theorem Thread.addBuf_touched (t : Thread) (l : List BufW) : (t.addBuf l).touched = t.touched := rfl
@[simp] theorem Thread.addBuf_fenced (t : Thread) (l : List BufW) : (t.addBuf l).fenced = t.fenced := rfl
@[simp] theorem Thread.addBuf_clock (t : Thread) (l : List BufW) : (t.addBuf l).clock = t.clock := rfl
@[simp] theorem Thread.addBuf_epoch (t : Thread) (l : List BufW) : (t.addBuf l).epoch = t.epoch := rfl
@[simp] theorem Thread.addBuf_park (t : Thread) (l : List BufW) : (t.addBuf l).park = t.park := rfl
@[simp] theorem Thread.addBuf_ticket (t : Thread) (l : List BufW) : (t.addBuf l).ticket = t.ticket := rfl
@[simp] theorem Thread.addBuf_again (t : Thread) (l : List BufW) : (t.addBuf l).again = t.again := rfl
@[simp] theorem Thread.addBuf_seq (t : Thread) (l : List BufW) : (t.addBuf l).seq = t.seq := rfl
@[simp] theorem Thread.addBuf_verdicts (t : Thread) (l : List BufW) : (t.addBuf l).verdicts = t.verdicts := rfl
@[simp] theorem Thread.addBuf_late (t : Thread) (l : List BufW) : (t.addBuf l).late = t.late := rfl
@[simp] theorem Thread.addBuf_msg (t : Thread) (l : List BufW) : (t.addBuf l).msg = t.msg := rfl
@[simp] theorem Thread.addBuf_dig (t : Thread) (l : List BufW) : (t.addBuf l).dig = t.dig := rfl
@[simp] theorem Thread.addBuf_folded (t : Thread) (l : List BufW) : (t.addBuf l).folded = t.folded := rfl
@[simp] theorem Thread.addBuf_folds (t : Thread) (l : List BufW) : (t.addBuf l).folds = t.folds := rfl
@[simp] theorem Thread.addBuf_runnels (t : Thread) (l : List BufW) : (t.addBuf l).runnels = t.runnels := rfl
@[simp] theorem Thread.addBuf_spt (t : Thread) (l : List BufW) : (t.addBuf l).spt = t.spt := rfl
@[simp] theorem Thread.addBuf_caps (t : Thread) (l : List BufW) : (t.addBuf l).caps = t.caps := rfl
@[simp] theorem Thread.addBuf_lastbeta (t : Thread) (l : List BufW) : (t.addBuf l).lastbeta = t.lastbeta := rfl
@[simp] theorem Thread.addBuf_item (t : Thread) (l : List BufW) : (t.addBuf l).item = t.item := rfl
@[simp] theorem Thread.addBuf_loop (t : Thread) (l : List BufW) : (t.addBuf l).loop = t.loop := rfl
@[simp] theorem Thread.addBuf_skip (t : Thread) (l : List BufW) : (t.addBuf l).skip = t.skip := rfl
@[simp] theorem Thread.addBuf_failed (t : Thread) (l : List BufW) : (t.addBuf l).failed = t.failed := rfl

end Sys2Proof.Machine
end

