-- ==== Sys2Proof/Laws/Memory.lean ====
section
/-!
SUPPORT. Memory: a byte written is the byte read, every other byte stays, and every operation that writes memory keeps the
canonical form.
-/
namespace Sys2Proof.Machine

/-! ### One byte -/

/-- The tail of a canonical list is canonical. -/
theorem Memory.wf_tail {c : Host.Cell} {t : List Host.Cell} (h : Memory.wf (c :: t) = true) : Memory.wf t = true := by
  simp only [Memory.wf, Bool.and_eq_true] at h; exact h.2

/-- A canonical list holds nothing at or below its head in its tail. -/
theorem peek_low (t : List Host.Cell) (k : Nat) (c : Byte) (h : Memory.wf ((k, c) :: t) = true) (i : Nat) (hi : i ≤ k) :
    peek t i = 0 := by
  induction t generalizing k c with
  | nil => rfl
  | cons d u ih =>
    obtain ⟨j, d⟩ := d
    have hlt : k < j := by
      simp only [Memory.wf, Bool.and_eq_true, decide_eq_true_eq] at h
      exact h.1.2
    rw [peek, if_neg (by omega)]
    exact ih j d (Memory.wf_tail h) (by omega)

/-- A byte written is the byte read. -/
theorem peek_poke_same (m : List Host.Cell) (a : Nat) (b : Byte) (h : Memory.wf m = true) : peek (poke m a b) a = b := by
  induction m with
  | nil => by_cases hb : b = 0#8 <;> simp [poke, peek, hb]
  | cons c t ih =>
    obtain ⟨k, c⟩ := c
    have ht := Memory.wf_tail h
    simp only [poke]
    by_cases h1 : a < k
    · by_cases hb : b = 0#8
      · have := peek_low t k c h a (by omega)
        rw [if_pos h1, if_pos (show b = 0 from hb), peek, if_neg (by omega), this, hb]; rfl
      · simp [h1, hb, peek]
    · by_cases h2 : a = k
      · by_cases hb : b = 0#8
        · have := peek_low t k c h a (by omega)
          rw [if_neg h1, if_pos h2, if_pos (show b = 0 from hb), this, hb]; rfl
        · simp [h2, hb, peek]
      · rw [if_neg h1, if_neg h2, peek, if_neg (by omega)]
        exact ih ht

/-- Every other byte stays. -/
theorem peek_poke_other (m : List Host.Cell) (a i : Nat) (b : Byte) (h : Memory.wf m = true) (hi : i ≠ a) :
    peek (poke m a b) i = peek m i := by
  induction m with
  | nil => by_cases hb : b = 0#8 <;> simp [poke, peek, hb, hi.symm]
  | cons c t ih =>
    obtain ⟨k, c⟩ := c
    have ht := Memory.wf_tail h
    simp only [poke]
    by_cases h1 : a < k
    · by_cases hb : b = 0#8
      · simp [h1, hb]
      · simp [h1, hb, peek, hi.symm]
    · by_cases h2 : a = k
      · subst h2
        by_cases hb : b = 0#8
        · simp [hb, peek, hi.symm]
        · simp [hb, peek, hi.symm]
      · rw [if_neg h1, if_neg h2, peek, peek, ih ht]

/-- A head below a canonical list, with a byte that is not zero. -/
theorem Memory.wf_cons (k : Nat) (c : Byte) (t : List Host.Cell) :
    Memory.wf ((k, c) :: t) = true ↔ c ≠ 0 ∧ (∀ x ∈ t.head?, k < x.1) ∧ Memory.wf t = true := by
  cases t with
  | nil => simp [Memory.wf]
  | cons d u => simp [Memory.wf, and_assoc]

/-- The first place of a list after a write. -/
theorem head_poke (m : List Host.Cell) (a : Nat) (b : Byte) (k : Nat) (hk : k < a) (hm : ∀ x ∈ m.head?, k < x.1)
    (hw : Memory.wf m = true) : ∀ x ∈ (poke m a b).head?, k < x.1 := by
  cases m with
  | nil => by_cases hb : b = 0#8 <;> simp [poke, hb, hk]
  | cons d u =>
    obtain ⟨j, d⟩ := d
    have hj : k < j := by simpa using hm
    simp only [poke]
    by_cases h1 : a < j
    · by_cases hb : b = 0#8 <;> simp [h1, hb, hk, hj]
    · by_cases h2 : a = j
      · by_cases hb : b = 0#8
        · rw [if_neg h1, if_pos h2, if_pos (show b = 0 from hb)]
          intro x hx
          have := ((Memory.wf_cons _ _ _).1 hw).2.1 x hx
          omega
        · simp [h2, hb, hj]
      · simp [h1, h2, hj]

/-- A write keeps the canonical form. -/
theorem poke_wf (m : List Host.Cell) (a : Nat) (b : Byte) (h : Memory.wf m = true) : Memory.wf (poke m a b) = true := by
  induction m with
  | nil => by_cases hb : b = 0#8 <;> simp [poke, Memory.wf, hb]
  | cons c t ih =>
    obtain ⟨k, c⟩ := c
    have hc := (Memory.wf_cons _ _ _).1 h
    simp only [poke]
    by_cases h1 : a < k
    · by_cases hb : b = 0#8
      · simpa [h1, hb] using h
      · rw [if_pos h1, if_neg (show ¬b = 0 from hb), Memory.wf_cons]
        exact ⟨hb, by simpa using h1, h⟩
    · by_cases h2 : a = k
      · by_cases hb : b = 0#8
        · simpa [h2, hb] using hc.2.2
        · rw [if_neg h1, if_pos h2, if_neg (show ¬b = 0 from hb), Memory.wf_cons]
          exact ⟨hb, by simpa [h2] using hc.2.1, hc.2.2⟩
      · rw [if_neg h1, if_neg h2, Memory.wf_cons]
        exact ⟨hc.1, head_poke t a b k (by omega) hc.2.1 hc.2.2, ih hc.2.2⟩

/-- A canonical list is one whose places rise and whose bytes are not zero. -/
theorem Memory.wf_iff (l : List Host.Cell) : Memory.wf l = true ↔ l.Pairwise (fun x y => x.1 < y.1) ∧ ∀ x ∈ l, x.2 ≠ 0 := by
  induction l with
  | nil => simp [Memory.wf]
  | cons c t ih =>
    obtain ⟨k, b⟩ := c
    rw [Memory.wf_cons, ih, List.pairwise_cons]
    constructor
    · rintro ⟨hb, hh, hp, hz⟩
      refine ⟨⟨fun y hy => ?_, hp⟩, by simpa using ⟨hb, fun a b h => hz (a, b) h⟩⟩
      cases t with
      | nil => simp at hy
      | cons d u =>
        have hd := hh d (by simp)
        rcases List.mem_cons.1 hy with rfl | hy
        · exact hd
        · exact Nat.lt_trans hd ((List.pairwise_cons.1 hp).1 y hy)
    · rintro ⟨⟨hy, hp⟩, hz⟩
      exact ⟨hz (k, b) (by simp), fun x hx => hy x (List.mem_of_mem_head? hx), hp, fun x hx => hz x (by simp [hx])⟩

/-- What is left of a canonical list is canonical. -/
theorem Memory.wf_filter (l : List Host.Cell) (f : Host.Cell → Bool) (h : Memory.wf l = true) : Memory.wf (l.filter f) = true := by
  rw [Memory.wf_iff] at h ⊢
  exact ⟨h.1.filter f, fun x hx => h.2 x (List.mem_filter.1 hx).1⟩

/-- Two canonical lists, the second above the first, are one. -/
theorem Memory.wf_append (l m : List Host.Cell) (hl : Memory.wf l = true) (hm : Memory.wf m = true)
    (h : ∀ x ∈ l, ∀ y ∈ m, x.1 < y.1) : Memory.wf (l ++ m) = true := by
  rw [Memory.wf_iff] at hl hm ⊢
  exact ⟨List.pairwise_append.2 ⟨hl.1, hm.1, h⟩, fun x hx => (List.mem_append.1 hx).elim (hl.2 x) (hm.2 x)⟩

/-- Replacing a range with rising bytes keeps the canonical form. -/
theorem putRange_wf (m : List Host.Cell) (a n : Nat) (l : List Host.Cell) (hl : l.Pairwise fun x y => x.1 < y.1)
    (h : Memory.wf m = true) : Memory.wf (putRange m a n l) = true := by
  have hm : Memory.wf (l.filter fun x => x.2 != 0 && decide (a ≤ x.1) && decide (x.1 < a + n)) = true := by
    rw [Memory.wf_iff]
    refine ⟨hl.filter _, fun x hx => ?_⟩
    have := (List.mem_filter.1 hx).2
    simp only [Bool.and_eq_true, bne_iff_ne] at this
    exact this.1.1
  unfold putRange
  refine Memory.wf_append _ _ (Memory.wf_filter _ _ h) (Memory.wf_append _ _ hm (Memory.wf_filter _ _ h) ?_) ?_
  · intro x hx y hy
    have h1 := (List.mem_filter.1 hx).2
    have h2 := (List.mem_filter.1 hy).2
    simp only [Bool.and_eq_true, decide_eq_true_eq] at h1 h2
    omega
  · intro x hx y hy
    have h1 := (List.mem_filter.1 hx).2
    simp only [decide_eq_true_eq] at h1
    rcases List.mem_append.1 hy with hy | hy
    · have h2 := (List.mem_filter.1 hy).2
      simp only [Bool.and_eq_true, decide_eq_true_eq] at h2
      omega
    · have h2 := (List.mem_filter.1 hy).2
      simp only [decide_eq_true_eq] at h2
      omega

/-! ### The operations of State that write memory -/

/-- Reset memory is canonical. -/
theorem reset_mem_wf : Memory.wf State.reset.mem = true := rfl

theorem setByte_wf (s : State) (a : Nat) (b : Byte) (h : Memory.wf s.mem = true) : Memory.wf (s.setByte a b).mem = true :=
  poke_wf _ _ _ h

theorem setBytes_wf (l : List Byte) (s : State) (a : Nat) (h : Memory.wf s.mem = true) :
    Memory.wf (s.setBytes a l).mem = true := by
  induction l generalizing s a with
  | nil => exact h
  | cons b t ih => exact ih _ _ (setByte_wf s a b h)

theorem setNum_wf (s : State) (a n x : Nat) (h : Memory.wf s.mem = true) : Memory.wf (s.setNum a n x).mem = true :=
  setBytes_wf _ _ _ h

/-- A fold whose steps keep the canonical form keeps it. -/
theorem foldl_wf {α : Type} (f : State → α → State) (hf : ∀ s x, Memory.wf s.mem = true → Memory.wf (f s x).mem = true)
    (l : List α) (s : State) (h : Memory.wf s.mem = true) : Memory.wf (l.foldl f s).mem = true := by
  induction l generalizing s with
  | nil => exact h
  | cons x t ih => exact ih _ (hf s x h)

theorem setBit16_wf (s : State) (a n : Nat) (b : Bool) (h : Memory.wf s.mem = true) :
    Memory.wf (s.setBit16 a n b).mem = true := by
  unfold State.setBit16
  dsimp only
  split
  · exact h
  · exact setNum_wf _ _ _ _ (by simpa using h)

theorem devNum_wf (s : State) (a n x : Nat) (h : Memory.wf s.mem = true) : Memory.wf (s.devNum a n x).mem = true :=
  setNum_wf _ _ _ _ (by simpa using h)

/-- A write to one word keeps the form; so do the plain stores, the engine stores and a lane's withdrawal. -/
theorem putWord_wf (s : State) (p : Place) (mask : BitVec 8) (x : Word) (h : Memory.wf s.mem = true) :
    Memory.wf (s.putWord p mask x).mem = true := by
  have hf : ∀ (s : State) (i : Nat), Memory.wf s.mem = true →
      Memory.wf (if mask.toNat.testBit i = true then
        s.setByte (p.loc + i) (BitVec.ofNat 8 (x.toNat / 2 ^ (8 * i))) else s).mem = true := by
    intro s i hs
    split
    · exact setByte_wf _ _ _ hs
    · exact hs
  have h0 : Memory.wf (if p.space = 0 then s.keepOld p.loc else s).mem = true := by
    split
    · simpa using h
    · exact h
  have hl := foldl_wf _ hf (List.range 8) _ h0
  unfold State.putWord
  dsimp only
  split
  · exact hl
  · exact hl

/-- What a thread's own bookkeeping changes is no memory. -/
@[simp] theorem touchMe_mem (s : State) (x : Option Nat) : (s.touchMe x).mem = s.mem := by
  unfold State.touchMe; split <;> simp

@[simp] theorem foldMe_mem (s : State) (l : List Dig) : (s.foldMe l).mem = s.mem := by
  unfold State.foldMe; simp

theorem storeWord_wf (s : State) (p : Place) (mask : BitVec 8) (x : Word) (h : Memory.wf s.mem = true) :
    Memory.wf (s.storeWord p mask x).1.mem = true := by
  unfold State.storeWord
  split
  · simpa using h
  · dsimp only
    split <;> simpa [State.sawFrom] using putWord_wf s p mask x h

/-- A rejected lane's threads and slots are no memory. -/
@[simp] theorem setCtx_foldl_mem {α : Type} (f : State → α → State) (hf : ∀ s x, (f s x).mem = s.mem) (l : List α) (s : State) :
    (l.foldl f s).mem = s.mem := by
  induction l generalizing s with
  | nil => rfl
  | cons x t ih => rw [List.foldl_cons, ih, hf]

theorem dropProv_wf (s : State) (p : Prov) (h : Memory.wf s.mem = true) : Memory.wf (s.dropProv p).mem = true := by
  unfold State.dropProv
  dsimp only
  rw [State.setCtx_mem]
  refine foldl_wf _ (fun s x hs => by simpa using putWord_wf _ _ _ _ hs) _ _ (foldl_wf _ (fun s x hs => ?_) _ _ h)
  obtain ⟨slot, hdr, area, old⟩ := x
  exact devNum_wf _ _ _ _ (setBit16_wf _ _ _ _ hs)

theorem engWord_wf (s : State) (p : Place) (mask : BitVec 8) (x : Word) (poison : Bool) (c : Clock)
    (h : Memory.wf s.mem = true) : Memory.wf (s.engWord p mask x poison c).mem = true := by
  unfold State.engWord
  dsimp only
  split
  · simpa using putWord_wf s p mask x h
  · simpa using putWord_wf s p mask x h

/-- A fold over pairs whose steps keep the canonical form keeps it. -/
theorem foldl_wf₂ {α β : Type} (f : State × β → α → State × β)
    (hf : ∀ y x, Memory.wf y.1.mem = true → Memory.wf (f y x).1.mem = true) (l : List α) (y : State × β)
    (h : Memory.wf y.1.mem = true) : Memory.wf (l.foldl f y).1.mem = true := by
  induction l generalizing y with
  | nil => exact h
  | cons x t ih => exact ih _ (hf y x h)

theorem engStore_wf (s : State) (p : Place) (data : List (Option Byte)) (poison : Bool) (c : Clock)
    (h : Memory.wf s.mem = true) : Memory.wf (s.engStore p data poison c).1.mem = true :=
  foldl_wf₂ _ (fun _ _ hy => engWord_wf _ _ _ _ _ _ hy) _ _ h

end Sys2Proof.Machine
end

