-- ==== Sys2Proof/Laws/Operations.lean ====
section
/-!
SUPPORT. What the shared operations of instructions answer for a thread that issues: its own registers, sources that are ready,
the b() operand, the destination, the end of the instruction.
-/
namespace Sys2Proof.Machine

/-! ### The current thread -/

theorem Issuing.me {s : State} {t : Thread} (h : Issuing s t) : s.me = t := by
  simp [State.me, h.cur, h.thr]

/-- A state with the same threads and current thread has the same thread issuing. -/
theorem Issuing.of_eq {s s' : State} {t : Thread} (h : Issuing s t) (hc : s'.cur = s.cur) (ht : s'.threads = s.threads) :
    Issuing s' t :=
  ⟨hc.trans h.cur, by simpa [State.thread?, ht] using h.thr, h.shadow, h.lane⟩

theorem Issuing.not_spec {s : State} {t : Thread} (h : Issuing s t) : t.spec = false := by
  simp [Thread.spec, h.lane]

theorem Issuing.agent {s : State} {t : Thread} (h : Issuing s t) : t.agent = t.uid := by
  simp [Thread.agent, h.lane]

theorem Issuing.agentT {s : State} {t : Thread} (h : Issuing s t) : s.agentT = t := by
  simp [State.agentT, h.me, h.agent, h.thr]

/-- An instruction of a current thread is performed. -/
theorem run_of_issuing {s : State} {t : Thread} (h : Issuing s t) (x : State → R Unit) :
    run s x = match x s with | .ok _ s' => .next s' | .stop s' => .next s' := by
  cases hx : x s <;> simp [run, h.cur, h.thr, hx]

@[simp] theorem R.bind_ok {α β : Type} (a : α) (s : State) (f : α → State → R β) : (R.ok a s).bind f = f a s := rfl
@[simp] theorem R.bind_stop {α β : Type} (s : State) (f : α → State → R β) : (R.stop s : R α).bind f = .stop s := rfl

/-! ### Sources and destinations -/

theorem Thread.find_freeOf {t : Thread} {rs : List R5} (h : t.freeOf rs) (r : R5) (hr : r ∈ rs) :
    (t.pend.find? fun x => x.1 == r) = none := by
  rw [List.find?_eq_none]
  intro y hy hyr
  exact h y hy (by simpa [beq_iff_eq.1 hyr] using hr)

theorem Issuing.not_pending {s s' : State} {t : Thread} (_ : Issuing s t) {rs : List R5} (hf : t.freeOf rs) (r : R5)
    (hr : r ∈ rs) : s'.pending t r = none := by
  simp [State.pending, Thread.find_freeOf hf r hr]

theorem Issuing.pendSrc_none {s : State} {t : Thread} (h : Issuing s t) {rs : List R5} (hf : t.freeOf rs) (r : R5)
    (hr : r ∈ rs) : s.pendSrc t r = none := by
  simp [State.pendSrc, h.shadow, h.not_pending hf r hr]

/-- No command is absorbed where no source is a status register. -/
theorem Issuing.absorbs_free {s : State} {t : Thread} (h : Issuing s t) {rs : List R5} (hf : t.freeOf rs) :
    s.absorbs rs = s := by
  have h1 : (s.cmds.filter fun c => rs.any fun r => s.me.pend.any fun x => x.1 == r && x.2 == c.id) = [] := by
    rw [List.filter_eq_nil_iff]
    intro c _ hc
    rw [h.me] at hc
    rw [List.any_eq_true] at hc
    obtain ⟨r, hr, hx⟩ := hc
    rw [List.any_eq_true] at hx
    obtain ⟨x, hx, hxr⟩ := hx
    rw [Bool.and_eq_true, beq_iff_eq] at hxr
    exact hf x hx (hxr.1 ▸ hr)
  have h2 : ∀ l : List R5, (∀ r ∈ l, r ∈ rs) → l.foldl State.absorb s = s := by
    intro l
    induction l with
    | nil => intro _; rfl
    | cons r u ih =>
      intro hl
      have : s.absorb r = s := by
        simp [State.absorb, h.me, Thread.find_freeOf hf r (hl r (by simp))]
      rw [List.foldl_cons, this]
      exact ih fun x hx => hl x (by simp [hx])
  simp only [State.absorbs, h1, List.foldl_nil]
  exact h2 rs fun _ => id

/-- Sources that are no status registers are ready. -/
theorem Issuing.needRegs_free {s : State} {t : Thread} (h : Issuing s t) {rs : List R5} (hf : t.freeOf rs) :
    needRegs rs s = .ok () s := by
  have : (rs.findSome? fun r => if r = 0 then none else s.pendSrc s.me r) = none := by
    rw [List.findSome?_eq_none_iff]
    intro r hr
    split
    · rfl
    · rw [h.me]; exact h.pendSrc_none hf r hr
  unfold needRegs
  rw [this]
  simp [h.me, h.not_spec, h.absorbs_free hf]

/-- A free destination is written and the instruction goes on. -/
theorem Issuing.wrG_free {s : State} {t : Thread} (h : Issuing s t) {rs : List R5} (hf : t.freeOf rs) {d : R5} (hd : d ∈ rs)
    (x : Word) : wrG d x s = .ok () (s.setG d x) := by
  simp [wrG, destOk, h.me, h.not_pending hf d hd]

/-! ### The b() operand -/

/-- An access record touches neither the threads nor who is current. -/
theorem Issuing.afterB {s : State} {t : Thread} (h : Issuing s t) (b : BOp) : Issuing (s.afterB b) t := by
  cases b <;> exact h.of_eq rfl rfl

/-- An access of an aligned doubleword touches one word. -/
theorem wordOffs_eight {a : Nat} (h : a % 8 = 0) : wordOffs a 8 = [0] := by
  have : ∀ i < 8, ((i == 0 || (a + i) % 8 == 0) = (i == 0)) := by
    intro i hi
    by_cases h0 : i = 0
    · simp [h0]
    · have : (a + i) % 8 ≠ 0 := by omega
      simp [h0, this]
  unfold wordOffs
  rw [List.filter_congr fun i hi => this i (List.mem_range.1 hi)]
  rfl

/-- The bytes of an access to an unconverted place. -/
theorem State.readP_eq (s : State) (p : Place) (hl : p.lc = none) (n : Nat) : s.readP p n = s.bytes p.loc n := by
  have : ∀ n a, (List.range n).map (fun i => s.byte (a + i)) = s.bytes a n := by
    intro n
    induction n with
    | zero => intro _; rfl
    | succ n ih =>
      intro a
      rw [List.range_succ_eq_map, List.map_cons, List.map_map, State.bytes, ← ih (a + 1)]
      congr 1
      exact List.map_congr_left fun i _ => by simp only [Function.comp, Nat.succ_eq_add_one]; congr 1; omega
  simpa [State.readP, Place.at, hl] using this n p.loc

/-- A recorded load of an aligned doubleword outside device memory that is neither poisoned nor in conflict. -/
theorem State.load_word (s : State) (p : Place) (hl : p.lc = none) (ha : p.addr % 8 = 0) (hx : p.loc % 8 = 0) (hb : 2 ^ 40 ≤ p.loc)
    (hs : s.me.spec = false) (hp : s.poisoned p.loc = false) (hc : s.clash p.loc p.slice false false = none) :
    s.load p 8 true = .val (s.bytes p.loc 8) (s.record p.loc (s.accOf false false)) := by
  have hk : ∀ i < 8, s.poisoned (p.at i) = false := by
    intro i hi
    have h1 : (p.loc + i) / 8 = p.loc / 8 := by omega
    have h2 : ¬p.loc + i < 2 ^ 40 := by omega
    have h3 : ¬p.loc < 2 ^ 40 := by omega
    simpa only [State.poisoned, Place.at, hl, State.chan, if_neg h2, if_neg h3, h1] using hp
  have hpp : s.poisonP p 8 = none := by
    unfold State.poisonP
    rw [List.filter_eq_nil_iff.2 fun i hi => by simp [hk i (List.mem_range.1 hi)]]
    rfl
  have h0 : p.at 0 = p.loc := by simp [Place.at, hl]
  simp [State.load, State.loadBoth, hs, State.clashP, State.recordP, State.poisonTrap, wordOffs_eight ha, h0, hc, hpp,
    s.readP_eq p hl]

theorem Issuing.specGate_ok {s : State} {t : Thread} (h : Issuing s t) (p : Place) (n : Nat) (st : Bool) :
    specGate p n st s = .ok () s := by
  cases st <;> simp [specGate, specWords, h.me, h.not_spec]

/-- A b() operand that can be read gives its value. -/
theorem Issuing.readB_ready {s : State} {t : Thread} (h : Issuing s t) {b : BOp} (hb : s.bReady b) :
    readB b s = .ok (s.bValue b) (s.afterB b) := by
  cases b with
  | reg r => rfl
  | imm v => rfl
  | lit v => rfl
  | cw n =>
    obtain ⟨hw, ha, hp, hc⟩ := hb
    have hw' : (s.me.windows.any fun w => w.acq && w.waiting) = false := by
      rw [List.any_eq_false]
      intro w hm
      have := List.all_eq_true.1 hw w hm
      cases ha : w.acq <;> cases hb : w.waiting <;> simp_all
    have hs : s.me.spec = false := h.me ▸ h.not_spec
    have hx : (abBase s.me.vu + 8 * n.toNat) % 8 = 0 := by unfold abBase; omega
    have hl := s.load_word { space := 1, addr := 8 * n.toNat, loc := abBase s.me.vu + 8 * n.toNat, slice := none } rfl
      (by simp) hx (by simp only [abBase]; omega) hs hp hc
    simp only [readB, constWord, accessGate, homeGate, hw', ha, Bool.false_eq_true, if_false, R.bind_ok, h.specGate_ok, hl]
    rfl

/-! ### The gates that stand before an instruction's effect -/

theorem Calm.freeOf {s : State} {t : Thread} (h : Calm s t) (rs : List R5) : t.freeOf rs := by
  intro y hy; simp [h.pend] at hy

theorem Issuing.serialise_ok {s : State} {t : Thread} (h : Issuing s t) : serialise s = .ok () s := by
  simp [serialise, h.me, h.not_spec]

theorem Issuing.guessEnds_ok {s : State} {t : Thread} (h : Issuing s t) : guessEnds s = .ok () s := by
  simp [guessEnds, h.me, Thread.guessing, h.lane]

theorem Calm.accessGate_ok {s : State} {t : Thread} (h : Calm s t) : accessGate s = .ok () s := by
  simp [accessGate, h.me, h.windows]

theorem Calm.syncGate_ok {s : State} {t : Thread} (h : Calm s t) : syncGate s = .ok () s := by
  simp [syncGate, h.me, h.windows]

theorem Calm.verdictGate_ok {s : State} {t : Thread} (h : Calm s t) : verdictGate s = .ok () s := by
  simp [verdictGate, h.me, h.verdicts, h.runnels]

theorem Calm.accessesGate_ok {s : State} {t : Thread} (h : Calm s t) : accessesGate s = .ok () s := by
  simp [accessesGate, h.me, h.windows]

theorem Issuing.homeGate_ok {s : State} {t : Thread} (h : Issuing s t) (ha : s.away t = false) : homeGate s = .ok () s := by
  simp [homeGate, h.me, ha]

/-- The implicit FENCE ends at once where the thread has touched no slice of its scope. -/
theorem Calm.fenceGate_ok {s : State} {t : Thread} (h : Calm s t) {n : Nat} (hn : t.touched &&& s.scopeMask t n = 0) :
    fenceGate n s = .ok () s := by
  simp only [fenceGate, h.verdictGate_ok, h.accessesGate_ok, R.bind_ok, h.me, hn, if_true]

theorem Issuing.specAccess_ok {s : State} {t : Thread} (h : Issuing s t) (a : SegA) (n : Nat) (st : Bool) :
    specAccess a n st s = .ok () s := by
  cases st <;> simp [specAccess, specUnits, h.me, h.not_spec]

/-! ### How a thread goes on -/

/-- Two changes of the current thread one after the other are one. -/
theorem State.upd_upd (s : State) (f g : Thread → Thread) (hf : ∀ t, (f t).uid = t.uid) :
    (s.upd f).upd g = s.upd fun t => g (f t) := by
  unfold State.upd
  cases h : s.cur with
  | none => simp [h]
  | some u =>
    simp only [State.updT, h, List.map_map]
    congr 1
    apply List.map_congr_left
    intro t _
    by_cases ht : t.uid = u <;> simp [ht, hf]

/-- The current thread after a change of it. -/
theorem Issuing.me_upd {s : State} {t : Thread} (h : Issuing s t) (f : Thread → Thread) (hf : ∀ t, (f t).uid = t.uid) :
    (s.upd f).me = f t := by
  have hfind : ∀ l : List Thread, (l.find? fun x => x.uid == t.uid) = some t →
      ((l.map fun x => if x.uid == t.uid then f x else x).find? fun x => x.uid == t.uid) = some (f t) := by
    intro l
    induction l with
    | nil => simp
    | cons x u ih =>
      intro hl
      by_cases hx : x.uid = t.uid
      · have : x = t := by simpa [hx] using hl
        simp [this, hf]
      · simp [hx] at hl ⊢
        simpa using ih (by simpa using hl)
  have := hfind s.threads h.thr
  unfold State.me
  rw [State.upd_cur, h.cur]
  simp only [Option.bind_some, State.upd, h.cur, State.updT, State.thread?]
  rw [this]; rfl

/-- Another instruction of a thread that issues: a change that keeps its number, registers' source and lane. -/
theorem Issuing.upd {s : State} {t : Thread} (h : Issuing s t) (f : Thread → Thread) (hf : ∀ t, (f t).uid = t.uid)
    (hs : (f t).shadow = none) (hl : (f t).lane = none) : Issuing (s.upd f) (f t) := by
  have hm := h.me_upd f hf
  have hc : (s.upd f).cur = some (f t).uid := by rw [State.upd_cur, h.cur, hf]
  refine ⟨hc, ?_, hs, hl⟩
  have hx : ((s.upd f).thread? t.uid).getD Thread.blank = f t := by simpa [State.me, h.cur] using hm
  cases hq : (s.upd f).thread? t.uid with
  | some y => rw [hq] at hx; rw [hf, hq]; exact congrArg some hx
  | none =>
    exfalso
    have hn : ∀ x ∈ s.threads, x.uid ≠ t.uid := by
      intro x hx' hxu
      have := List.find?_eq_none.1 hq (f x) (by
        simp only [State.upd, h.cur, State.updT, List.mem_map]
        exact ⟨x, hx', by simp [hxu]⟩)
      simp [hf, hxu] at this
    exact hn t (List.mem_of_find?_eq_some h.thr) rfl

theorem Thread.put_uid (t : Thread) (d : R5) (x : Word) : (t.put d x).uid = t.uid := by
  unfold Thread.put; split <;> rfl

theorem State.retire_eq (s : State) (n : Nat) : s.retire n = s.wentOn n := rfl

/-- A register written at issue, and the instruction over. -/
theorem State.setG_retire (s : State) (d : R5) (x : Word) (n : Nat) :
    (s.setG d x).retire n = s.wentOn n fun t => t.put d x := by
  unfold State.setG
  by_cases h : d = 0
  · rw [if_pos h]
    simp only [Thread.put, if_pos h]; rfl
  · rw [if_neg h, State.retire, State.upd_upd _ _ _ (by intro t; simp)]
    unfold State.wentOn
    congr 1
    funext t
    simp only [Thread.put, if_neg h, Thread.wg, Thread.unpend, Thread.retire, Thread.wentTo, tickWindows]

theorem finish_eq (n : Nat) (s : State) : finish n s = .ok () (s.wentOn n) := rfl

theorem finish_setG (s : State) (d : R5) (x : Word) (n : Nat) :
    finish n (s.setG d x) = .ok () (s.wentOn n fun t => t.put d x) := by
  rw [finish, State.setG_retire]

theorem goTo_eq (s : State) (pc : Word) : goTo pc s = .ok () (s.jumped pc) := by
  rw [goTo, State.retire, State.upd_upd _ _ _ (by intro t; rfl)]; rfl

theorem goTo_setG (s : State) (d : R5) (x : Word) (pc : Word) :
    goTo pc (s.setG d x) = .ok () (s.jumped pc fun t => t.put d x) := by
  rw [goTo, State.setG_retire]
  unfold State.wentOn
  rw [State.upd_upd _ _ _ (by intro t; simp [Thread.wentTo, Thread.put_uid])]
  rfl

theorem openRegs_eq (look : BitVec 4) (n : Nat) (l : List RegW) (s : State) :
    openRegs look n l s = .ok () ((s.wentOn n).upd fun u => u.opened look.toNat s.me.pc (.regs l)) := rfl

/-! ### Traps -/

theorem Calm.of_eq {s s' : State} {t : Thread} (h : Calm s t) (hc : s'.cur = s.cur) (ht : s'.threads = s.threads) : Calm s' t :=
  { h.toIssuing.of_eq hc ht, h with lanes := ht ▸ h.lanes }

theorem Calm.afterB {s : State} {t : Thread} (h : Calm s t) (b : BOp) : Calm (s.afterB b) t := by
  cases b <;> exact h.of_eq rfl rfl

/-- No lane of its own is there to be rejected. -/
theorem Calm.rejectAbove_id {s : State} {t : Thread} (h : Calm s t) (n : Nat) : s.rejectAbove t.uid n = s := by
  unfold State.rejectAbove
  rw [List.filter_eq_nil_iff.2]
  · rfl
  · intro x hx
    cases hl : x.lane with
    | none => simp
    | some l => simp [h.lanes x hx l (by simp [hl])]

/-- A trap of a calm thread outside a handler. -/
theorem Calm.raise_eq {s : State} {t : Thread} (h : Calm s t) (hi : t.inh = false) (code : Nat) (tval : Word) :
    s.raise ⟨code, tval, none⟩ = s.trapped code tval := by
  have hl : t.laneIndex = 0 := by simp [Thread.laneIndex, h.lane]
  simp [State.raise, h.me, h.not_spec, h.windows, State.closeWins, State.deliver, hi, h.agent, hl, h.rejectAbove_id,
    State.trapped, Thread.trapped, b2n, w64]

/-- A trap of a calm thread inside a handler. -/
theorem Calm.raise_double {s : State} {t : Thread} (h : Calm s t) (hi : t.inh = true) (code : Nat) (tval : Word) :
    s.raise ⟨code, tval, none⟩ = s.doubleTrap code := by
  simp [State.raise, h.me, h.not_spec, h.windows, State.closeWins, State.deliver, hi]

theorem Calm.raiseR_eq {α : Type} {s : State} {t : Thread} (h : Calm s t) (hi : t.inh = false) (code : Nat) (tval : Word) :
    (raiseR code tval s : R α) = .stop (s.trapped code tval) := by
  rw [raiseR, h.raise_eq hi]

theorem Calm.illegalR_eq {α : Type} {s : State} {t : Thread} (h : Calm s t) (hi : t.inh = false) (tval : Word) :
    (illegalR tval s : R α) = .stop (s.trapped 3 tval) := h.raiseR_eq hi 3 tval

end Sys2Proof.Machine
end

