-- ==== Sys2Proof/Laws/PerInstr.lean ====
section
/-!
SUPPORT. The shape of every instruction's words: as many as LEN of the base word says (10 R235), and none for the device's own steps.
-/
namespace Sys2Proof.Laws

/-- The low field of two joined fields. -/
theorem extract_low {n k : Nat} (x : BitVec n) (y : BitVec k) : (x ++ y).extractLsb' 0 k = y := by
  ext i hi
  simp [BitVec.getLsbD_append, hi]

/-- The words are none, or as many as LEN of the first says. -/
def Shape.Counted : List (BitVec 32) → Prop
  | [] => True
  | w :: l => lenWords (fLen w).toNat = l.length + 1

/-- A well-formed instruction's words are counted by LEN; the illegal major, which has no LEN, stands in one word. -/
def Shape.Statement (i : Instr) : Prop := i.wf = true → Shape.Counted (encode i) ∨ ∃ w, encode i = [w] ∧ fMajor w = 0

theorem packS_len (f : BitVec 4) (bk : BitVec 2) (opb : BitVec 8) (a d : R5) (m : BitVec 6) (len : BitVec 2) :
    fLen (packS f bk opb a d m len) = len := extract_low _ _

theorem packV_len (f : BitVec 4) (ty : BitVec 2) (pg : BitVec 3) (b a d : R5) (m : BitVec 6) (len : BitVec 2) :
    fLen (packV f ty pg b a d m len) = len := extract_low _ _

theorem packM_len (look : BitVec 4) (off : BitVec 3) (fr sx : BitVec 1) (sz : BitVec 2) (seg : BitVec 3) (base d : R5)
    (m : BitVec 6) (len : BitVec 2) : fLen (packM look off fr sx sz seg base d m len) = len := extract_low _ _

theorem packB_len (off : BitVec 11) (c : BitVec 3) (b a : R5) (m : BitVec 6) : fLen (packB off c b a m) = 0 := extract_low _ _

theorem packJ_len (off : BitVec 19) (l : R5) (m : BitVec 6) : fLen (packJ off l m) = 0 := extract_low _ _

theorem encS_counted (f : BitVec 4) (b : BOp) (a d : R5) (m : BitVec 6) : Shape.Counted (encS f b a d m) := by
  cases b <;> simp [Shape.Counted, encS, packS_len, BOp.lenS, BOp.tail, litWords, lenWords]

theorem encF_counted (f : BitVec 4) (bk : BitVec 2) (opb : BitVec 8) (a d : R5) (m : BitVec 6) :
    Shape.Counted (encF f bk opb a d m) := by simp [Shape.Counted, encF, packS_len, lenWords]

theorem encX_counted (f : BitVec 4) (b : BOp) (a d : R5) (m : BitVec 6) (w1 w2 : BitVec 32) :
    Shape.Counted (encX f b a d m w1 w2) := by
  cases b <;> simp [Shape.Counted, encX, packS_len, BOp.lenX, BOp.tail, litWords, lenWords]

theorem encXF_counted (f : BitVec 4) (bk : BitVec 2) (opb : BitVec 8) (a d : R5) (m : BitVec 6) (w1 w2 : BitVec 32) :
    Shape.Counted (encXF f bk opb a d m w1 w2) := by simp [Shape.Counted, encXF, packS_len, lenWords]

theorem encV_counted (f : BitVec 4) (x : V3) (m : BitVec 6) : Shape.Counted (encV f x m) := by
  simp [Shape.Counted, encV, packV_len, lenWords]

theorem encB_counted (off : BitVec 11) (c : BitVec 3) (b a : R5) (m : BitVec 6) : Shape.Counted [packB off c b a m] := by
  simp [Shape.Counted, packB_len, lenWords]

theorem encJ_counted (off : BitVec 19) (l : R5) (m : BitVec 6) : Shape.Counted [packJ off l m] := by
  simp [Shape.Counted, packJ_len, lenWords]

theorem encLoad_counted (x : LoadA) (m : BitVec 6) : Shape.Counted (encLoad x m) := by
  cases h : x.off <;> simp [Shape.Counted, encLoad, h, packM_len, MOff.len, MOff.tail, litWords, lenWords]

theorem encStore_counted (x : StoreA) (m : BitVec 6) : Shape.Counted (encStore x m) := by
  cases h : x.off <;> simp [Shape.Counted, encStore, h, packM_len, MOff.len, MOff.tail, litWords, lenWords]

theorem encIdx_counted (x : VIdxA) (f : BitVec 8) : Shape.Counted (encIdx x f) := by
  cases h : x.off <;> simp [Shape.Counted, encIdx, h, packV_len, XOff.len, XOff.tail, litWords, lenWords]

theorem packV3_counted (f : BitVec 4) (ty : BitVec 2) (pg : BitVec 3) (b a d : R5) (m : BitVec 6) (w1 w2 : BitVec 32) :
    Shape.Counted [packV f ty pg b a d m 2, w1, w2] := by simp [Shape.Counted, packV_len, lenWords]

theorem packV1_counted (f : BitVec 4) (ty : BitVec 2) (pg : BitVec 3) (b a d : R5) (m : BitVec 6) :
    Shape.Counted [packV f ty pg b a d m 0] := by simp [Shape.Counted, packV_len, lenWords]

theorem Shape.add (x : Alu) : Shape.Statement (.add x) := fun _ => .inl (encS_counted _ _ _ _ _)
theorem Shape.sub (x : Alu) : Shape.Statement (.sub x) := fun _ => .inl (encS_counted _ _ _ _ _)
theorem Shape.mul (x : Alu) : Shape.Statement (.mul x) := fun _ => .inl (encS_counted _ _ _ _ _)
theorem Shape.mulh (x : Alu) : Shape.Statement (.mulh x) := fun _ => .inl (encS_counted _ _ _ _ _)
theorem Shape.mulhu (x : Alu) : Shape.Statement (.mulhu x) := fun _ => .inl (encS_counted _ _ _ _ _)
theorem Shape.andr (x : Alu) : Shape.Statement (.andr x) := fun _ => .inl (encS_counted _ _ _ _ _)
theorem Shape.orr (x : Alu) : Shape.Statement (.orr x) := fun _ => .inl (encS_counted _ _ _ _ _)
theorem Shape.xor (x : Alu) : Shape.Statement (.xor x) := fun _ => .inl (encS_counted _ _ _ _ _)
theorem Shape.andn (x : Alu) : Shape.Statement (.andn x) := fun _ => .inl (encS_counted _ _ _ _ _)
theorem Shape.shl (x : Alu) : Shape.Statement (.shl x) := fun _ => .inl (encS_counted _ _ _ _ _)
theorem Shape.shr (x : Alu) : Shape.Statement (.shr x) := fun _ => .inl (encS_counted _ _ _ _ _)
theorem Shape.sar (x : Alu) : Shape.Statement (.sar x) := fun _ => .inl (encS_counted _ _ _ _ _)
theorem Shape.rol (x : Alu) : Shape.Statement (.rol x) := fun _ => .inl (encS_counted _ _ _ _ _)
theorem Shape.min (x : Alu) : Shape.Statement (.min x) := fun _ => .inl (encS_counted _ _ _ _ _)
theorem Shape.max (x : Alu) : Shape.Statement (.max x) := fun _ => .inl (encS_counted _ _ _ _ _)
theorem Shape.minu (x : Alu) : Shape.Statement (.minu x) := fun _ => .inl (encS_counted _ _ _ _ _)
theorem Shape.maxu (x : Alu) : Shape.Statement (.maxu x) := fun _ => .inl (encS_counted _ _ _ _ _)
theorem Shape.slt (x : Alu) : Shape.Statement (.slt x) := fun _ => .inl (encS_counted _ _ _ _ _)
theorem Shape.sltu (x : Alu) : Shape.Statement (.sltu x) := fun _ => .inl (encS_counted _ _ _ _ _)
theorem Shape.seq (x : Alu) : Shape.Statement (.seq x) := fun _ => .inl (encS_counted _ _ _ _ _)
theorem Shape.sne (x : Alu) : Shape.Statement (.sne x) := fun _ => .inl (encS_counted _ _ _ _ _)
theorem Shape.clz (x : Una) : Shape.Statement (.clz x) := fun _ => .inl (encF_counted _ _ _ _ _ _)
theorem Shape.ctz (x : Una) : Shape.Statement (.ctz x) := fun _ => .inl (encF_counted _ _ _ _ _ _)
theorem Shape.popc (x : Una) : Shape.Statement (.popc x) := fun _ => .inl (encF_counted _ _ _ _ _ _)
theorem Shape.brev (x : Una) : Shape.Statement (.brev x) := fun _ => .inl (encF_counted _ _ _ _ _ _)
theorem Shape.bswap (x : Una) : Shape.Statement (.bswap x) := fun _ => .inl (encF_counted _ _ _ _ _ _)
theorem Shape.sextb (x : Una) : Shape.Statement (.sextb x) := fun _ => .inl (encF_counted _ _ _ _ _ _)
theorem Shape.sexth (x : Una) : Shape.Statement (.sexth x) := fun _ => .inl (encF_counted _ _ _ _ _ _)
theorem Shape.sextw (x : Una) : Shape.Statement (.sextw x) := fun _ => .inl (encF_counted _ _ _ _ _ _)
theorem Shape.zextw (x : Una) : Shape.Statement (.zextw x) := fun _ => .inl (encF_counted _ _ _ _ _ _)
theorem Shape.scadd (x : Alu) : Shape.Statement (.scadd x) := fun _ => .inl (encS_counted _ _ _ _ _)
theorem Shape.sel (x : Alu) : Shape.Statement (.sel x) := fun _ => .inl (encS_counted _ _ _ _ _)
theorem Shape.bfxs (x : Bfx) : Shape.Statement (.bfxs x) := fun _ => .inl (encXF_counted _ _ _ _ _ _ _ _)
theorem Shape.bfxu (x : Bfx) : Shape.Statement (.bfxu x) := fun _ => .inl (encXF_counted _ _ _ _ _ _ _ _)
theorem Shape.bfi (x : BfiA) : Shape.Statement (.bfi x) := fun _ => .inl (encX_counted _ _ _ _ _ _ _)
theorem Shape.div (x : LongAlu) : Shape.Statement (.div x) := fun _ => .inl (encS_counted _ _ _ _ _)
theorem Shape.divu (x : LongAlu) : Shape.Statement (.divu x) := fun _ => .inl (encS_counted _ _ _ _ _)
theorem Shape.rem (x : LongAlu) : Shape.Statement (.rem x) := fun _ => .inl (encS_counted _ _ _ _ _)
theorem Shape.remu (x : LongAlu) : Shape.Statement (.remu x) := fun _ => .inl (encS_counted _ _ _ _ _)
theorem Shape.br (c : BrCond) (a b : R5) (off : BitVec 11) : Shape.Statement (.br c a b off) := fun _ => .inl (encB_counted _ _ _ _ _)
theorem Shape.brp (c : BrpCond) (p : BitVec 3) (off : BitVec 11) : Shape.Statement (.brp c p off) := fun _ => .inl (encB_counted _ _ _ _ _)
theorem Shape.jmp (off : BitVec 19) : Shape.Statement (.jmp off) := fun _ => .inl (encJ_counted _ _ _)
theorem Shape.call (link : R5) (off : BitVec 19) : Shape.Statement (.call link off) := fun _ => .inl (encJ_counted _ _ _)
theorem Shape.jmpr (a : R5) (b : BOp) : Shape.Statement (.jmpr a b) := fun _ => .inl (encS_counted _ _ _ _ _)
theorem Shape.callr (x : Alu) : Shape.Statement (.callr x) := fun _ => .inl (encS_counted _ _ _ _ _)
theorem Shape.ret : Shape.Statement .ret := fun _ => .inl (encF_counted _ _ _ _ _ _)
theorem Shape.nop : Shape.Statement .nop := fun _ => .inl (encF_counted _ _ _ _ _ _)
theorem Shape.yield : Shape.Statement .yield := fun _ => .inl (encF_counted _ _ _ _ _ _)
theorem Shape.halt : Shape.Statement .halt := fun _ => .inl (encF_counted _ _ _ _ _ _)
theorem Shape.trap (b : BOp) : Shape.Statement (.trap b) := fun _ => .inl (encS_counted _ _ _ _ _)
theorem Shape.bkpt (b : BOp) : Shape.Statement (.bkpt b) := fun _ => .inl (encS_counted _ _ _ _ _)
theorem Shape.gets (d : R5) (n : BitVec 8) : Shape.Statement (.gets d n) := fun _ => .inl (encF_counted _ _ _ _ _ _)
theorem Shape.sets (n : BitVec 8) (a : R5) : Shape.Statement (.sets n a) := fun _ => .inl (encF_counted _ _ _ _ _ _)
theorem Shape.stepgo (a : R5) : Shape.Statement (.stepgo a) := fun _ => .inl (encF_counted _ _ _ _ _ _)
theorem Shape.eret : Shape.Statement .eret := fun _ => .inl (encF_counted _ _ _ _ _ _)
theorem Shape.illegalInstruction (w : BitVec 32) : Shape.Statement (.illegalInstruction w) := fun h => .inr ⟨w, rfl, by simpa [Instr.wf, fMajor] using h⟩
theorem Shape.ld (x : LoadA) : Shape.Statement (.ld x) := fun _ => .inl (encLoad_counted _ _)
theorem Shape.st (x : StoreA) : Shape.Statement (.st x) := fun _ => .inl (encStore_counted _ _)
theorem Shape.ldf (x : LoadA) : Shape.Statement (.ldf x) := fun _ => .inl (encLoad_counted _ _)
theorem Shape.stf (x : StoreA) : Shape.Statement (.stf x) := fun _ => .inl (encStore_counted _ _)
theorem Shape.feset (x : SliceA) : Shape.Statement (.feset x) := fun _ => .inl (encF_counted _ _ _ _ _ _)
theorem Shape.feclr (x : SliceA) : Shape.Statement (.feclr x) := fun _ => .inl (encF_counted _ _ _ _ _ _)
theorem Shape.feget (x : SliceA) : Shape.Statement (.feget x) := fun _ => .inl (encF_counted _ _ _ _ _ _)
theorem Shape.amoadd (x : AmoA) : Shape.Statement (.amoadd x) := fun _ => .inl (encX_counted _ _ _ _ _ _ _)
theorem Shape.amoand (x : AmoA) : Shape.Statement (.amoand x) := fun _ => .inl (encX_counted _ _ _ _ _ _ _)
theorem Shape.amoor (x : AmoA) : Shape.Statement (.amoor x) := fun _ => .inl (encX_counted _ _ _ _ _ _ _)
theorem Shape.amoxor (x : AmoA) : Shape.Statement (.amoxor x) := fun _ => .inl (encX_counted _ _ _ _ _ _ _)
theorem Shape.amomin (x : AmoA) : Shape.Statement (.amomin x) := fun _ => .inl (encX_counted _ _ _ _ _ _ _)
theorem Shape.amomax (x : AmoA) : Shape.Statement (.amomax x) := fun _ => .inl (encX_counted _ _ _ _ _ _ _)
theorem Shape.amominu (x : AmoA) : Shape.Statement (.amominu x) := fun _ => .inl (encX_counted _ _ _ _ _ _ _)
theorem Shape.amomaxu (x : AmoA) : Shape.Statement (.amomaxu x) := fun _ => .inl (encX_counted _ _ _ _ _ _ _)
theorem Shape.amoswp (x : AmoA) : Shape.Statement (.amoswp x) := fun _ => .inl (encX_counted _ _ _ _ _ _ _)
theorem Shape.amocas (x : AmoA) : Shape.Statement (.amocas x) := fun _ => .inl (encX_counted _ _ _ _ _ _ _)
theorem Shape.amofadd (x : AmoA) : Shape.Statement (.amofadd x) := fun _ => .inl (encX_counted _ _ _ _ _ _ _)
theorem Shape.fence (sc : Scope) : Shape.Statement (.fence sc) := fun _ => .inl (encF_counted _ _ _ _ _ _)
theorem Shape.drain (p : Path) : Shape.Statement (.drain p) := fun _ => .inl (encF_counted _ _ _ _ _ _)
theorem Shape.bar (n : BitVec 3) : Shape.Statement (.bar n) := fun _ => .inl (encF_counted _ _ _ _ _ _)
theorem Shape.sbar (n : BitVec 3) : Shape.Statement (.sbar n) := fun _ => .inl (encF_counted _ _ _ _ _ _)
theorem Shape.bind (d a : R5) (seg : BitVec 3) : Shape.Statement (.bind d a seg) := fun _ => .inl (encF_counted _ _ _ _ _ _)
theorem Shape.unbind (d : R5) : Shape.Statement (.unbind d) := fun _ => .inl (encF_counted _ _ _ _ _ _)
theorem Shape.flume (f : BitVec 3) (a : R5) : Shape.Statement (.flume f a) := fun _ => .inl (encF_counted _ _ _ _ _ _)
theorem Shape.mrecv (look : BitVec 4) (d a : R5) : Shape.Statement (.mrecv look d a) := fun _ => .inl (encF_counted _ _ _ _ _ _)
theorem Shape.mrecvPoll (look : BitVec 4) (d a : R5) : Shape.Statement (.mrecvPoll look d a) := fun _ => .inl (encF_counted _ _ _ _ _ _)
theorem Shape.msend (d a : R5) (n : BitVec 3) : Shape.Statement (.msend d a n) := fun _ => .inl (encF_counted _ _ _ _ _ _)
theorem Shape.spawn (d a : R5) : Shape.Statement (.spawn d a) := fun _ => .inl (encF_counted _ _ _ _ _ _)
theorem Shape.segld (d : BitVec 3) (a : R5) (seg : BitVec 3) : Shape.Statement (.segld d a seg) := fun _ => .inl (encF_counted _ _ _ _ _ _)
theorem Shape.segrd (d : R5) (a : BitVec 3) (hi : Bool) : Shape.Statement (.segrd d a hi) := fun _ => .inl (encF_counted _ _ _ _ _ _)
theorem Shape.ldb (x : Alu) : Shape.Statement (.ldb x) := fun _ => .inl (encS_counted _ _ _ _ _)
theorem Shape.stb (x : Alu) : Shape.Statement (.stb x) := fun _ => .inl (encS_counted _ _ _ _ _)
theorem Shape.cpy (x : XCmd) : Shape.Statement (.cpy x) := fun _ => .inl (encX_counted _ _ _ _ _ _ _)
theorem Shape.cpyr (x : XCmd) : Shape.Statement (.cpyr x) := fun _ => .inl (encX_counted _ _ _ _ _ _ _)
theorem Shape.cpyrOrd (x : XCmd) : Shape.Statement (.cpyrOrd x) := fun _ => .inl (encX_counted _ _ _ _ _ _ _)
theorem Shape.rqcpy (x : XCmd) : Shape.Statement (.rqcpy x) := fun _ => .inl (encX_counted _ _ _ _ _ _ _)
theorem Shape.chain (x : ChainA) : Shape.Statement (.chain x) := fun _ => .inl (encX_counted _ _ _ _ _ _ _)
theorem Shape.cstep (x : XCmd) : Shape.Statement (.cstep x) := fun _ => .inl (encX_counted _ _ _ _ _ _ _)
theorem Shape.cchain (x : XCmd) : Shape.Statement (.cchain x) := fun _ => .inl (encX_counted _ _ _ _ _ _ _)
theorem Shape.dgst (d a : R5) (seg : BitVec 3) : Shape.Statement (.dgst d a seg) := fun _ => .inl (encF_counted _ _ _ _ _ _)
theorem Shape.pin (x : SliceA) : Shape.Statement (.pin x) := fun _ => .inl (encF_counted _ _ _ _ _ _)
theorem Shape.unpin (x : SliceA) : Shape.Statement (.unpin x) := fun _ => .inl (encF_counted _ _ _ _ _ _)
theorem Shape.cistrn (d a : R5) (n : BitVec 8) : Shape.Statement (.cistrn d a n) := fun _ => .inl (encF_counted _ _ _ _ _ _)
theorem Shape.vadd (x : V3) : Shape.Statement (.vadd x) := fun _ => .inl (encV_counted _ _ _)
theorem Shape.vsub (x : V3) : Shape.Statement (.vsub x) := fun _ => .inl (encV_counted _ _ _)
theorem Shape.vmul (x : V3) : Shape.Statement (.vmul x) := fun _ => .inl (encV_counted _ _ _)
theorem Shape.vfma (x : V3) : Shape.Statement (.vfma x) := fun _ => .inl (encV_counted _ _ _)
theorem Shape.vfms (x : V3) : Shape.Statement (.vfms x) := fun _ => .inl (encV_counted _ _ _)
theorem Shape.vnfma (x : V3) : Shape.Statement (.vnfma x) := fun _ => .inl (encV_counted _ _ _)
theorem Shape.vmin (x : V3) : Shape.Statement (.vmin x) := fun _ => .inl (encV_counted _ _ _)
theorem Shape.vmax (x : V3) : Shape.Statement (.vmax x) := fun _ => .inl (encV_counted _ _ _)
theorem Shape.vabs (x : V3) : Shape.Statement (.vabs x) := fun _ => .inl (encV_counted _ _ _)
theorem Shape.vneg (x : V3) : Shape.Statement (.vneg x) := fun _ => .inl (encV_counted _ _ _)
theorem Shape.vrcpe (x : V3) : Shape.Statement (.vrcpe x) := fun _ => .inl (encV_counted _ _ _)
theorem Shape.vrsqe (x : V3) : Shape.Statement (.vrsqe x) := fun _ => .inl (encV_counted _ _ _)
theorem Shape.vaddS (x : V3) : Shape.Statement (.vaddS x) := fun _ => .inl (encV_counted _ _ _)
theorem Shape.vsubS (x : V3) : Shape.Statement (.vsubS x) := fun _ => .inl (encV_counted _ _ _)
theorem Shape.vmulS (x : V3) : Shape.Statement (.vmulS x) := fun _ => .inl (encV_counted _ _ _)
theorem Shape.vfmaS (x : V3) : Shape.Statement (.vfmaS x) := fun _ => .inl (encV_counted _ _ _)
theorem Shape.vfmsS (x : V3) : Shape.Statement (.vfmsS x) := fun _ => .inl (encV_counted _ _ _)
theorem Shape.vnfmaS (x : V3) : Shape.Statement (.vnfmaS x) := fun _ => .inl (encV_counted _ _ _)
theorem Shape.vminS (x : V3) : Shape.Statement (.vminS x) := fun _ => .inl (encV_counted _ _ _)
theorem Shape.vmaxS (x : V3) : Shape.Statement (.vmaxS x) := fun _ => .inl (encV_counted _ _ _)
theorem Shape.viadd (x : V3) : Shape.Statement (.viadd x) := fun _ => .inl (encV_counted _ _ _)
theorem Shape.visub (x : V3) : Shape.Statement (.visub x) := fun _ => .inl (encV_counted _ _ _)
theorem Shape.vimul (x : V3) : Shape.Statement (.vimul x) := fun _ => .inl (encV_counted _ _ _)
theorem Shape.vand (x : V3) : Shape.Statement (.vand x) := fun _ => .inl (encV_counted _ _ _)
theorem Shape.vor (x : V3) : Shape.Statement (.vor x) := fun _ => .inl (encV_counted _ _ _)
theorem Shape.vxor (x : V3) : Shape.Statement (.vxor x) := fun _ => .inl (encV_counted _ _ _)
theorem Shape.vshl (x : V3) : Shape.Statement (.vshl x) := fun _ => .inl (encV_counted _ _ _)
theorem Shape.vshr (x : V3) : Shape.Statement (.vshr x) := fun _ => .inl (encV_counted _ _ _)
theorem Shape.vsar (x : V3) : Shape.Statement (.vsar x) := fun _ => .inl (encV_counted _ _ _)
theorem Shape.vimin (x : V3) : Shape.Statement (.vimin x) := fun _ => .inl (encV_counted _ _ _)
theorem Shape.vimax (x : V3) : Shape.Statement (.vimax x) := fun _ => .inl (encV_counted _ _ _)
theorem Shape.viminu (x : V3) : Shape.Statement (.viminu x) := fun _ => .inl (encV_counted _ _ _)
theorem Shape.vimaxu (x : V3) : Shape.Statement (.vimaxu x) := fun _ => .inl (encV_counted _ _ _)
theorem Shape.viaddS (x : V3) : Shape.Statement (.viaddS x) := fun _ => .inl (encV_counted _ _ _)
theorem Shape.visubS (x : V3) : Shape.Statement (.visubS x) := fun _ => .inl (encV_counted _ _ _)
theorem Shape.vimulS (x : V3) : Shape.Statement (.vimulS x) := fun _ => .inl (encV_counted _ _ _)
theorem Shape.vandS (x : V3) : Shape.Statement (.vandS x) := fun _ => .inl (encV_counted _ _ _)
theorem Shape.vorS (x : V3) : Shape.Statement (.vorS x) := fun _ => .inl (encV_counted _ _ _)
theorem Shape.vxorS (x : V3) : Shape.Statement (.vxorS x) := fun _ => .inl (encV_counted _ _ _)
theorem Shape.vshlS (x : V3) : Shape.Statement (.vshlS x) := fun _ => .inl (encV_counted _ _ _)
theorem Shape.vshrS (x : V3) : Shape.Statement (.vshrS x) := fun _ => .inl (encV_counted _ _ _)
theorem Shape.vsarS (x : V3) : Shape.Statement (.vsarS x) := fun _ => .inl (encV_counted _ _ _)
theorem Shape.viminS (x : V3) : Shape.Statement (.viminS x) := fun _ => .inl (encV_counted _ _ _)
theorem Shape.vimaxS (x : V3) : Shape.Statement (.vimaxS x) := fun _ => .inl (encV_counted _ _ _)
theorem Shape.viminuS (x : V3) : Shape.Statement (.viminuS x) := fun _ => .inl (encV_counted _ _ _)
theorem Shape.vimaxuS (x : V3) : Shape.Statement (.vimaxuS x) := fun _ => .inl (encV_counted _ _ _)
theorem Shape.vcmp (c : VCond) (x : V3) : Shape.Statement (.vcmp c x) := fun _ => .inl (encV_counted _ _ _)
theorem Shape.pand (x : V3) : Shape.Statement (.pand x) := fun _ => .inl (encV_counted _ _ _)
theorem Shape.por (x : V3) : Shape.Statement (.por x) := fun _ => .inl (encV_counted _ _ _)
theorem Shape.pxor (x : V3) : Shape.Statement (.pxor x) := fun _ => .inl (encV_counted _ _ _)
theorem Shape.pandn (x : V3) : Shape.Statement (.pandn x) := fun _ => .inl (encV_counted _ _ _)
theorem Shape.whilelt (x : V3) : Shape.Statement (.whilelt x) := fun _ => .inl (encV_counted _ _ _)
theorem Shape.whilele (x : V3) : Shape.Statement (.whilele x) := fun _ => .inl (encV_counted _ _ _)
theorem Shape.vpopc (x : V3) : Shape.Statement (.vpopc x) := fun _ => .inl (encV_counted _ _ _)
theorem Shape.vfirst (x : V3) : Shape.Statement (.vfirst x) := fun _ => .inl (encV_counted _ _ _)
theorem Shape.vsel (x : V3) : Shape.Statement (.vsel x) := fun _ => .inl (encV_counted _ _ _)
theorem Shape.vext (x : V3) : Shape.Statement (.vext x) := fun _ => .inl (encV_counted _ _ _)
theorem Shape.vins (x : V3) : Shape.Statement (.vins x) := fun _ => .inl (encV_counted _ _ _)
theorem Shape.vbcast (x : V3) : Shape.Statement (.vbcast x) := fun _ => .inl (encV_counted _ _ _)
theorem Shape.viota (x : V3) : Shape.Statement (.viota x) := fun _ => .inl (encV_counted _ _ _)
theorem Shape.vlen (x : V3) : Shape.Statement (.vlen x) := fun _ => .inl (encV_counted _ _ _)
theorem Shape.vmov (x : V3) : Shape.Statement (.vmov x) := fun _ => .inl (encV_counted _ _ _)
theorem Shape.vperm (x : V3) : Shape.Statement (.vperm x) := fun _ => .inl (encV_counted _ _ _)
theorem Shape.vziplo (x : V3) : Shape.Statement (.vziplo x) := fun _ => .inl (encV_counted _ _ _)
theorem Shape.vziphi (x : V3) : Shape.Statement (.vziphi x) := fun _ => .inl (encV_counted _ _ _)
theorem Shape.vunzlo (x : V3) : Shape.Statement (.vunzlo x) := fun _ => .inl (encV_counted _ _ _)
theorem Shape.vunzhi (x : V3) : Shape.Statement (.vunzhi x) := fun _ => .inl (encV_counted _ _ _)
theorem Shape.vslideup (x : V3) : Shape.Statement (.vslideup x) := fun _ => .inl (encV_counted _ _ _)
theorem Shape.vslidedn (x : V3) : Shape.Statement (.vslidedn x) := fun _ => .inl (encV_counted _ _ _)
theorem Shape.vrev (x : V3) : Shape.Statement (.vrev x) := fun _ => .inl (encV_counted _ _ _)
theorem Shape.vcompact (x : V3) : Shape.Statement (.vcompact x) := fun _ => .inl (encV_counted _ _ _)
theorem Shape.vrope (x : V3) : Shape.Statement (.vrope x) := fun _ => .inl (encV_counted _ _ _)
theorem Shape.vdiv (x : XvA) : Shape.Statement (.vdiv x) := fun _ => .inl (packV3_counted _ _ _ _ _ _ _ _ _)
theorem Shape.vsqrt (x : XvA) : Shape.Statement (.vsqrt x) := fun _ => .inl (packV3_counted _ _ _ _ _ _ _ _ _)
theorem Shape.vexp (x : XvA) : Shape.Statement (.vexp x) := fun _ => .inl (packV3_counted _ _ _ _ _ _ _ _ _)
theorem Shape.vlog (x : XvA) : Shape.Statement (.vlog x) := fun _ => .inl (packV3_counted _ _ _ _ _ _ _ _ _)
theorem Shape.vtanh (x : XvA) : Shape.Statement (.vtanh x) := fun _ => .inl (packV3_counted _ _ _ _ _ _ _ _ _)
theorem Shape.verf (x : XvA) : Shape.Statement (.verf x) := fun _ => .inl (packV3_counted _ _ _ _ _ _ _ _ _)
theorem Shape.vredadd (x : XvA) : Shape.Statement (.vredadd x) := fun _ => .inl (packV3_counted _ _ _ _ _ _ _ _ _)
theorem Shape.vredmax (x : XvA) : Shape.Statement (.vredmax x) := fun _ => .inl (packV3_counted _ _ _ _ _ _ _ _ _)
theorem Shape.vredmin (x : XvA) : Shape.Statement (.vredmin x) := fun _ => .inl (packV3_counted _ _ _ _ _ _ _ _ _)
theorem Shape.vscanadd (x : XvA) : Shape.Statement (.vscanadd x) := fun _ => .inl (packV3_counted _ _ _ _ _ _ _ _ _)
theorem Shape.vld (x : VlA) : Shape.Statement (.vld x) := fun _ => .inl (packV1_counted _ _ _ _ _ _ _)
theorem Shape.vldStrided (x : VStrA) : Shape.Statement (.vldStrided x) := fun _ => .inl (packV3_counted _ _ _ _ _ _ _ _ _)
theorem Shape.vst (x : VlA) : Shape.Statement (.vst x) := fun _ => .inl (packV1_counted _ _ _ _ _ _ _)
theorem Shape.vstStrided (x : VStrA) : Shape.Statement (.vstStrided x) := fun _ => .inl (packV3_counted _ _ _ _ _ _ _ _ _)
theorem Shape.vldx (x : VIdxA) : Shape.Statement (.vldx x) := fun _ => .inl (encIdx_counted _ _)
theorem Shape.vstx (x : VIdxA) : Shape.Statement (.vstx x) := fun _ => .inl (encIdx_counted _ _)
theorem Shape.vldq (x : VQuA) : Shape.Statement (.vldq x) := fun _ => .inl (packV3_counted _ _ _ _ _ _ _ _ _)
theorem Shape.vstq (x : VQuA) : Shape.Statement (.vstq x) := fun _ => .inl (packV3_counted _ _ _ _ _ _ _ _ _)
theorem Shape.vcvt (x : CvtA) : Shape.Statement (.vcvt x) := fun _ => .inl (packV3_counted _ _ _ _ _ _ _ _ _)
theorem Shape.vrng (d : R5) (pg : BitVec 3) (ty : BitVec 2) : Shape.Statement (.vrng d pg ty) := fun _ => .inl (encF_counted _ _ _ _ _ _)
theorem Shape.rseed (a : R5) : Shape.Statement (.rseed a) := fun _ => .inl (encF_counted _ _ _ _ _ _)
theorem Shape.wld (x : WldA) : Shape.Statement (.wld x) := fun _ => .inl (encX_counted _ _ _ _ _ _ _)
theorem Shape.mma (x : MmaA) : Shape.Statement (.mma x) := fun _ => .inl (encX_counted _ _ _ _ _ _ _)
theorem Shape.msacc (x : MsaccA) : Shape.Statement (.msacc x) := fun _ => .inl (encX_counted _ _ _ _ _ _ _)
theorem Shape.mzero (t : BitVec 2) : Shape.Statement (.mzero t) := fun _ => .inl (encF_counted _ _ _ _ _ _)
theorem Shape.mpri (n : BitVec 3) : Shape.Statement (.mpri n) := fun _ => .inl (encF_counted _ _ _ _ _ _)
theorem Shape.mst (x : MstA) : Shape.Statement (.mst x) := fun _ => .inl (encX_counted _ _ _ _ _ _ _)
theorem Shape.mlda (x : MstA) : Shape.Statement (.mlda x) := fun _ => .inl (encX_counted _ _ _ _ _ _ _)
theorem Shape.mstq (x : MstqA) : Shape.Statement (.mstq x) := fun _ => .inl (encX_counted _ _ _ _ _ _ _)
theorem Shape.mstqKv (x : KvA) : Shape.Statement (.mstqKv x) := fun _ => .inl (encX_counted _ _ _ _ _ _ _)
theorem Shape.gathb (x : GathbA) : Shape.Statement (.gathb x) := fun _ => .inl (encX_counted _ _ _ _ _ _ _)
theorem Shape.attn (x : AttnA) : Shape.Statement (.attn x) := fun _ => .inl (encX_counted _ _ _ _ _ _ _)
theorem Shape.atedrain (look : BitVec 4) (d : R5) (mask : BitVec 2) : Shape.Statement (.atedrain look d mask) := fun _ => .inl (encXF_counted _ _ _ _ _ _ _ _)
theorem Shape.atbound (look : BitVec 4) (d : R5) : Shape.Statement (.atbound look d) := fun _ => .inl (encXF_counted _ _ _ _ _ _ _ _)
theorem Shape.edins (x : EditA) : Shape.Statement (.edins x) := fun _ => .inl (encX_counted _ _ _ _ _ _ _)
theorem Shape.eddel (x : EditA) : Shape.Statement (.eddel x) := fun _ => .inl (encX_counted _ _ _ _ _ _ _)
theorem Shape.edsub (x : EditA) : Shape.Statement (.edsub x) := fun _ => .inl (encX_counted _ _ _ _ _ _ _)
theorem Shape.settle (x : LongAlu) : Shape.Statement (.settle x) := fun _ => .inl (encX_counted _ _ _ _ _ _ _)
theorem Shape.ctxrdNow (x : CtxrdA) : Shape.Statement (.ctxrdNow x) := fun _ => .inl (encX_counted _ _ _ _ _ _ _)
theorem Shape.ctxrdAt (x : CtxrdA) : Shape.Statement (.ctxrdAt x) := fun _ => .inl (encX_counted _ _ _ _ _ _ _)
theorem Shape.silt (x : LongAlu) : Shape.Statement (.silt x) := fun _ => .inl (encX_counted _ _ _ _ _ _ _)
theorem Shape.ctxreg (x : XCmd) : Shape.Statement (.ctxreg x) := fun _ => .inl (encX_counted _ _ _ _ _ _ _)
theorem Shape.ctxregRel (look : BitVec 4) (d a : R5) : Shape.Statement (.ctxregRel look d a) := fun _ => .inl (encXF_counted _ _ _ _ _ _ _ _)
theorem Shape.commitb (x : CommitA) : Shape.Statement (.commitb x) := fun _ => .inl (encX_counted _ _ _ _ _ _ _)
theorem Shape.commitbSkip (x : CommitA) : Shape.Statement (.commitbSkip x) := fun _ => .inl (encX_counted _ _ _ _ _ _ _)
theorem Shape.probe (x : CommitA) : Shape.Statement (.probe x) := fun _ => .inl (encX_counted _ _ _ _ _ _ _)
theorem Shape.repack (look : BitVec 4) (d a : R5) : Shape.Statement (.repack look d a) := fun _ => .inl (encXF_counted _ _ _ _ _ _ _ _)
theorem Shape.fcst (x : XCmd) : Shape.Statement (.fcst x) := fun _ => .inl (encX_counted _ _ _ _ _ _ _)
theorem Shape.facc (look : BitVec 4) (a : R5) : Shape.Statement (.facc look a) := fun _ => .inl (encXF_counted _ _ _ _ _ _ _ _)
theorem Shape.fend (look : BitVec 4) : Shape.Statement (.fend look) := fun _ => .inl (encXF_counted _ _ _ _ _ _ _ _)
theorem Shape.resultArrival : Shape.Statement .resultArrival := fun _ => .inl trivial
theorem Shape.engineCompletion : Shape.Statement .engineCompletion := fun _ => .inl trivial
theorem Shape.threadWake : Shape.Statement .threadWake := fun _ => .inl trivial
theorem Shape.messageArrival : Shape.Statement .messageArrival := fun _ => .inl trivial
theorem Shape.spawnArrival : Shape.Statement .spawnArrival := fun _ => .inl trivial
theorem Shape.migrationArrival : Shape.Statement .migrationArrival := fun _ => .inl trivial
theorem Shape.runnelFill : Shape.Statement .runnelFill := fun _ => .inl trivial
theorem Shape.runnelDrain : Shape.Statement .runnelDrain := fun _ => .inl trivial
theorem Shape.storeVerdict : Shape.Statement .storeVerdict := fun _ => .inl trivial
theorem Shape.fenceEcho : Shape.Statement .fenceEcho := fun _ => .inl trivial
theorem Shape.culvertRecord : Shape.Statement .culvertRecord := fun _ => .inl trivial
theorem Shape.chainOwnWake : Shape.Statement .chainOwnWake := fun _ => .inl trivial
theorem Shape.scoutProbe : Shape.Statement .scoutProbe := fun _ => .inl trivial
theorem Shape.confluenceStep : Shape.Statement .confluenceStep := fun _ => .inl trivial
theorem Shape.stepDataArrival : Shape.Statement .stepDataArrival := fun _ => .inl trivial
theorem Shape.stepAcknowledge : Shape.Statement .stepAcknowledge := fun _ => .inl trivial
theorem Shape.matrixDispatch : Shape.Statement .matrixDispatch := fun _ => .inl trivial
theorem Shape.matrixRetire : Shape.Statement .matrixRetire := fun _ => .inl trivial
theorem Shape.wldFillComplete : Shape.Statement .wldFillComplete := fun _ => .inl trivial
theorem Shape.mmaReplay : Shape.Statement .mmaReplay := fun _ => .inl trivial
theorem Shape.attnRetire : Shape.Statement .attnRetire := fun _ => .inl trivial
theorem Shape.editArbitration : Shape.Statement .editArbitration := fun _ => .inl trivial
theorem Shape.surgeDispatch : Shape.Statement .surgeDispatch := fun _ => .inl trivial
theorem Shape.contextReleaseComplete : Shape.Statement .contextReleaseComplete := fun _ => .inl trivial
theorem Shape.requantisation : Shape.Statement .requantisation := fun _ => .inl trivial
theorem Shape.tierMigration : Shape.Statement .tierMigration := fun _ => .inl trivial
theorem Shape.recordFree : Shape.Statement .recordFree := fun _ => .inl trivial
theorem Shape.stepBuild : Shape.Statement .stepBuild := fun _ => .inl trivial
theorem Shape.taskEnd : Shape.Statement .taskEnd := fun _ => .inl trivial
theorem Shape.reexecutionEnd : Shape.Statement .reexecutionEnd := fun _ => .inl trivial
theorem Shape.queueKick : Shape.Statement .queueKick := fun _ => .inl trivial
theorem Shape.packetFetchRetry : Shape.Statement .packetFetchRetry := fun _ => .inl trivial
theorem Shape.deviceQueueKick : Shape.Statement .deviceQueueKick := fun _ => .inl trivial
theorem Shape.queueEnable : Shape.Statement .queueEnable := fun _ => .inl trivial
theorem Shape.launch : Shape.Statement .launch := fun _ => .inl trivial
theorem Shape.teardown : Shape.Statement .teardown := fun _ => .inl trivial
theorem Shape.suspend : Shape.Statement .suspend := fun _ => .inl trivial
theorem Shape.resume : Shape.Statement .resume := fun _ => .inl trivial
theorem Shape.workitem : Shape.Statement .workitem := fun _ => .inl trivial
theorem Shape.publish : Shape.Statement .publish := fun _ => .inl trivial
theorem Shape.launchSelect : Shape.Statement .launchSelect := fun _ => .inl trivial
theorem Shape.gangPlacement : Shape.Statement .gangPlacement := fun _ => .inl trivial
theorem Shape.preemption : Shape.Statement .preemption := fun _ => .inl trivial
theorem Shape.preemptionSave : Shape.Statement .preemptionSave := fun _ => .inl trivial
theorem Shape.restore : Shape.Statement .restore := fun _ => .inl trivial
theorem Shape.registerWrite : Shape.Statement .registerWrite := fun _ => .inl trivial
theorem Shape.hostApertureAccess : Shape.Statement .hostApertureAccess := fun _ => .inl trivial
theorem Shape.peerIngressAccess : Shape.Statement .peerIngressAccess := fun _ => .inl trivial
theorem Shape.translationWalk : Shape.Statement .translationWalk := fun _ => .inl trivial
theorem Shape.fcmdWake : Shape.Statement .fcmdWake := fun _ => .inl trivial
theorem Shape.fcmdReplayAll : Shape.Statement .fcmdReplayAll := fun _ => .inl trivial
theorem Shape.fcmdFail : Shape.Statement .fcmdFail := fun _ => .inl trivial
theorem Shape.tinvPage : Shape.Statement .tinvPage := fun _ => .inl trivial
theorem Shape.tinvFunction : Shape.Statement .tinvFunction := fun _ => .inl trivial
theorem Shape.tinvAll : Shape.Statement .tinvAll := fun _ => .inl trivial
theorem Shape.tinvComplete : Shape.Statement .tinvComplete := fun _ => .inl trivial
theorem Shape.pageMigrate : Shape.Statement .pageMigrate := fun _ => .inl trivial
theorem Shape.pageUnmap : Shape.Statement .pageUnmap := fun _ => .inl trivial
theorem Shape.pcmdInvalid : Shape.Statement .pcmdInvalid := fun _ => .inl trivial
theorem Shape.channelRetire : Shape.Statement .channelRetire := fun _ => .inl trivial
theorem Shape.lineRecompress : Shape.Statement .lineRecompress := fun _ => .inl trivial
theorem Shape.thermalCrossing : Shape.Statement .thermalCrossing := fun _ => .inl trivial
theorem Shape.slotReenable : Shape.Statement .slotReenable := fun _ => .inl trivial
theorem Shape.powerInterval : Shape.Statement .powerInterval := fun _ => .inl trivial
theorem Shape.healthLatch : Shape.Statement .healthLatch := fun _ => .inl trivial
theorem Shape.healthClear : Shape.Statement .healthClear := fun _ => .inl trivial
theorem Shape.softError : Shape.Statement .softError := fun _ => .inl trivial
theorem Shape.getVersion : Shape.Statement .getVersion := fun _ => .inl trivial
theorem Shape.getCapabilities : Shape.Statement .getCapabilities := fun _ => .inl trivial
theorem Shape.negotiateAlgorithms : Shape.Statement .negotiateAlgorithms := fun _ => .inl trivial
theorem Shape.getDigests : Shape.Statement .getDigests := fun _ => .inl trivial
theorem Shape.getCertificate : Shape.Statement .getCertificate := fun _ => .inl trivial
theorem Shape.challenge : Shape.Statement .challenge := fun _ => .inl trivial
theorem Shape.getMeasurements : Shape.Statement .getMeasurements := fun _ => .inl trivial
theorem Shape.keyExchange : Shape.Statement .keyExchange := fun _ => .inl trivial
theorem Shape.finish : Shape.Statement .finish := fun _ => .inl trivial
theorem Shape.heartbeat : Shape.Statement .heartbeat := fun _ => .inl trivial
theorem Shape.endSession : Shape.Statement .endSession := fun _ => .inl trivial
theorem Shape.unsupportedSpdmRequest : Shape.Statement .unsupportedSpdmRequest := fun _ => .inl trivial
theorem Shape.sealkeyInstall : Shape.Statement .sealkeyInstall := fun _ => .inl trivial
theorem Shape.sealkeyErase : Shape.Statement .sealkeyErase := fun _ => .inl trivial
theorem Shape.functionLevelReset : Shape.Statement .functionLevelReset := fun _ => .inl trivial
theorem Shape.reset : Shape.Statement .reset := fun _ => .inl trivial
theorem Shape.memoryTraining : Shape.Statement .memoryTraining := fun _ => .inl trivial
theorem Shape.discoveryRound : Shape.Statement .discoveryRound := fun _ => .inl trivial
theorem Shape.discoveryReturn : Shape.Statement .discoveryReturn := fun _ => .inl trivial
theorem Shape.discoveryDone : Shape.Statement .discoveryDone := fun _ => .inl trivial
theorem Shape.multicastAttempt : Shape.Statement .multicastAttempt := fun _ => .inl trivial
theorem Shape.multicastFlit : Shape.Statement .multicastFlit := fun _ => .inl trivial
theorem Shape.multicastAnswer : Shape.Statement .multicastAnswer := fun _ => .inl trivial
theorem Shape.dieJoin : Shape.Statement .dieJoin := fun _ => .inl trivial
theorem Shape.aliasKeyDerivation : Shape.Statement .aliasKeyDerivation := fun _ => .inl trivial
theorem Shape.linkUp : Shape.Statement .linkUp := fun _ => .inl trivial
theorem Shape.firmwareUpdateStage : Shape.Statement .firmwareUpdateStage := fun _ => .inl trivial
theorem Shape.linkRetry : Shape.Statement .linkRetry := fun _ => .inl trivial
theorem Shape.assistRingConsume : Shape.Statement .assistRingConsume := fun _ => .inl trivial
theorem Shape.assistRingEnable : Shape.Statement .assistRingEnable := fun _ => .inl trivial
theorem Shape.freeListRefill : Shape.Statement .freeListRefill := fun _ => .inl trivial
theorem Shape.vectorUnmask : Shape.Statement .vectorUnmask := fun _ => .inl trivial

end Sys2Proof.Laws
end

