-- ==== Sys2Proof/Tests/Slice0.lean ====
section
/-!
SUPPORT. Tests: words that the spec prints, ill-formed instructions that the checks refuse, one step of instructions with results from the
spec's rules, and for every statement a state and operands that meet its hypotheses.
-/
namespace Sys2Proof.Machine

set_option Elab.async false

/-! ## Decoding: words written out from the spec's encodings -/

/-- What the decoder reads from words. -/
def dec (l : List (BitVec 32)) : Dec := decodeWords (wordsOf l)

/-- 09, the table of worked encodings. -/
theorem test_decode_worked :
    dec [0x0804A604] = .ok (.add ⟨6, 5, .imm 1⟩) ∧ dec [0x0430A604] = .ok (.add ⟨6, 5, .cw 12⟩) ∧
    dec [0x0C00A605, 1, 0] = .ok (.add ⟨6, 5, .lit 1⟩) ∧ dec [0x00082104] = .ok (.add ⟨1, 1, .reg 2⟩) ∧
    dec [0x0268E540] = .ok (.ld ⟨0, .small 1, false, false, 3, 2, 7, 5⟩) ∧
    dec [0x2268E540] = .ok (.ld ⟨2, .small 1, false, false, 3, 2, 7, 5⟩) ∧ dec [0x31882480] = .ok (.vfma ⟨0, 3, 2, 1, 4⟩) := by decide

/-- 10, the worked trace at 0x100: a literal, a bundle's second half, windows, a branch back, and the three refusals. -/
theorem test_decode_trace :
    dec [0x0C00A605, 0x3E8, 0] = .ok (.add ⟨6, 5, .lit 1000⟩) ∧ dec [0x00182384] = .ok (.vaddS ⟨0, 0, 6, 1, 3⟩) ∧
    dec [0x301CC510] = .ok (.div ⟨3, 5, 6, .reg 7⟩) ∧ dec [0xFFA8C520] = .ok (.br .lt 5 6 0x7FD) ∧
    dec [0x1268E544] = .bad 4 0 ∧ dec [0x39882480] = .bad 8 0 ∧ dec [0x00000038] = .bad 1 0 ∧
    dec [0] = .ok (.illegalInstruction 0) := by decide

/-- 11: BFXU, and the listing of its worked example. -/
theorem test_decode_scalar :
    dec [0x0000C50E, 0x0000C801, 0] = .ok (.bfxu ⟨5, 6, 8, 3⟩) ∧ dec [0x34] = .ok .nop ∧ dec [0x10000034] = .ok .yield ∧
    dec [0x20000034] = .ok .halt ∧ dec [0x70000034] = .ok .eret ∧ dec [0x68150034] = .ok (.sets 5 8) ∧
    dec [0x00A00620] = .ok (.br .eq 6 0 5) ∧ dec [0x1018A71C] = .ok (.remu ⟨1, 7, 5, .reg 6⟩) ∧
    dec [0xFFFF8024] = .ok (.jmp 0x7FFFC) ∧ dec [0x30140034] = .ok (.trap (.reg 5)) ∧ dec [0x58080934] = .ok (.gets 9 2) ∧
    dec [0xF01CA808] = .ok (.sel ⟨8, 5, .reg 7⟩) ∧ dec [0x28E02408] = .ok (.sltu ⟨4, 1, .imm 56⟩) := by decide

/-- 12, 16, 19: barriers, paths and culvert commands. -/
theorem test_decode_memory :
    dec [0x080C0058] = .ok (.fence .die) ∧ dec [0x18040058] = .ok (.drain .mem) ∧ dec [0x28000058] = .ok (.bar 0) ∧
    dec [0x38000058] = .ok (.sbar 0) ∧ dec [0x68010058] = .ok (.flume 0 8) ∧
    dec [0x08000966, 0x200, 0] = .ok (.cpy ⟨0, .imm 0, 0, 9, 2⟩) ∧ dec [0x0800096A, 0x201, 0] = .ok (.cchain ⟨0, .imm 0, 0, 9, 2⟩) := by
  decide

/-- 13, the worked loop over 70 elements. -/
theorem test_decode_vector :
    dec [0xD8000894] = .ok (.vlen ⟨2, 0, 0, 0, 8⟩) ∧ dec [0x4800A194] = .ok (.whilelt ⟨2, 0, 0, 5, 1⟩) ∧
    dec [0x0880C1A4] = .ok (.vld ⟨0, 2, 1, 6, 1⟩) ∧ dec [0x08844288] = .ok (.viadd ⟨2, 1, 1, 2, 2⟩) ∧
    (∃ x, dec [0x080047A2, 0, 0] = .ok (.vredadd x) ∧ x.d = 7 ∧ x.a = 2 ∧ x.ty = 2) := by
  refine ⟨by decide, by decide, by decide, by decide, _, rfl, by decide⟩

/-- 14, 16: the matrix instructions. -/
theorem test_decode_matrix :
    dec [0x000001CC] = .ok (.mzero 1) ∧ dec [0x181400CC] = .ok (.mpri 5) ∧
    (∃ x, dec [0x0800C0C2, 0x4042, 0] = .ok (.wld x) ∧ x.tile = 0 ∧ x.seg = 2 ∧ x.a = 6 ∧ x.f = 8 ∧ x.wf = 1) ∧
    (∃ x, dec [0x0800C0C6, 0x00010040, 0x69] = .ok (.mma x) ∧ x.tile = 1 ∧ x.pt = false ∧ x.a = 6 ∧ x.f = 9 ∧ x.fseg = 3 ∧ x.rm1 = 0) ∧
    (∃ x, dec [0x0424E0CA, 0, 0] = .ok (.msacc x) ∧ x.b = .cw 9 ∧ x.a = 7 ∧ x.acc = false ∧ x.pt = false) ∧
    (∃ x, dec [0x000000D2, 0x80000001, 0x2800020C] = .ok (.mstqKv x) ∧ x.fin = true ∧ x.val = true ∧ x.r = 12 ∧ x.fseg = 2) := by
  refine ⟨by decide, by decide, ⟨_, rfl, by decide⟩, ⟨_, rfl, by decide⟩, ⟨_, rfl, by decide⟩, ⟨_, rfl, by decide⟩⟩

/-- 15, 17, 18: edits, SETTLE, SILT and the loop instructions. -/
theorem test_decode_context :
    dec [0x001889E2, 0x00000500, 0] = .ok (.edins ⟨0, .reg 6, 4, 9, 5⟩) ∧ dec [0x001889E2, 1, 0] = .ok (.eddel ⟨0, .reg 6, 4, 9, 0⟩) ∧
    dec [0x081C8BE6, 0, 0] = .ok (.settle ⟨0, 11, 4, .imm 7⟩) ∧ dec [0x0C0094E7, 2, 0, 0x100010, 0] = .ok (.silt ⟨0, 20, 4, .lit 0x100010⟩) ∧
    dec [0x0000A0EE, 1, 0] = .ok (.facc 0 5) ∧ dec [0x000000EE, 2, 0] = .ok (.fend 0) ∧
    dec [0x080000EE, 0x200, 0] = .ok (.fcst ⟨0, .imm 0, 0, 0, 2⟩) := by decide

/-- The encoder gives back the printed words of one instruction of each format. -/
theorem test_encode_formats :
    encode (.add ⟨6, 5, .lit 1⟩) = [0x0C00A605, 1, 0] ∧ encode (.ld ⟨2, .small 1, false, false, 3, 2, 7, 5⟩) = [0x2268E540] ∧
    encode (.br .lt 5 6 0x7FD) = [0xFFA8C520] ∧ encode (.jmp 0x7FFFC) = [0xFFFF8024] ∧ encode (.vfma ⟨0, 3, 2, 1, 4⟩) = [0x31882480] ∧
    encode (.cpy ⟨0, .imm 0, 0, 9, 2⟩) = [0x08000966, 0x200, 0] := by decide

/-! ## Instructions that no words hold: one for each check -/

/-- An ill-formed instruction for each check of `Instr.wf`. -/
def illFormed : List Instr :=
  [.bfxs ⟨1, 2, 60, 5⟩, .bfxu ⟨1, 2, 63, 1⟩, .bfi ⟨1, 2, .imm 0, 33, 31⟩, .call 0 4, .jmpr 1 (.lit 0), .callr ⟨1, 2, .lit 0⟩,
   .callr ⟨0, 2, .imm 0⟩, .sets 0x12 1, .illegalInstruction 4, .ld ⟨0, .small 0, false, true, 3, 1, 2, 3⟩,
   .ldf ⟨0, .small 0, true, false, 3, 1, 2, 3⟩, .feset ⟨1, 2, 1, 0⟩, .feclr ⟨1, 2, 1, 0⟩,
   .amoadd ⟨0, .imm 1, 2, 3, 0, false, false, true, 1, 4⟩, .amofadd ⟨0, .imm 1, 2, 3, 0, false, false, true, 1, 0⟩] ++
  ([.vadd ⟨2, 0, 1, 2, 3⟩, .vaddS ⟨3, 0, 1, 2, 3⟩, .vabs ⟨0, 0, 1, 2, 3⟩, .vrcpe ⟨2, 0, 0, 2, 3⟩, .viadd ⟨0, 0, 1, 2, 3⟩,
    .viaddS ⟨1, 0, 1, 2, 3⟩, .vcmp .eq ⟨0, 0, 1, 2, 8⟩, .vcmp .ltu ⟨0, 0, 1, 2, 3⟩, .vcmp .ord ⟨2, 0, 1, 2, 3⟩, .pand ⟨0, 0, 1, 2, 3⟩,
    .por ⟨1, 0, 0, 2, 3⟩, .pxor ⟨0, 0, 0, 8, 3⟩, .pandn ⟨0, 0, 0, 2, 9⟩, .whilelt ⟨0, 0, 1, 2, 3⟩, .whilele ⟨0, 0, 0, 2, 8⟩,
    .vpopc ⟨0, 0, 0, 8, 3⟩, .vfirst ⟨0, 0, 1, 2, 3⟩, .vmov ⟨0, 0, 1, 2, 3⟩, .viota ⟨0, 0, 0, 0, 3⟩, .viota ⟨2, 0, 0, 1, 3⟩,
    .vlen ⟨0, 1, 0, 0, 3⟩, .vlen ⟨0, 0, 0, 1, 3⟩, .vrope ⟨2, 0, 1, 2, 3⟩] : List Instr) ++
  ([.vdiv ⟨0, 2, 0, 1, 2, 3, 0, false⟩, .vdiv ⟨0, 0, 0, 1, 2, 3, 0, true⟩, .vsqrt ⟨0, 0, 0, 1, 2, 3, 0, false⟩,
    .vexp ⟨0, 0, 0, 0, 2, 3, 1, false⟩, .vredadd ⟨0, 0, 0, 1, 2, 3, 0, false⟩, .vredmax ⟨0, 2, 0, 0, 2, 3, 0, true⟩,
    .vst ⟨1, 0, 0, 2, 3⟩, .vldStrided ⟨0, 1, 0, 2, 3, 0, true, 1, 4⟩, .vstStrided ⟨1, 0, 0, 2, 3, 0, false, 1, 4⟩,
    .vldx ⟨0, 2, 0, 1, 2, 3, .small 0, 0, true, 1⟩, .vstx ⟨1, 0, 0, 1, 2, 3, .small 0, 0, false, 1⟩,
    .vldq ⟨0, 2, 0, 1, 2, 3, 1, 1, 4, 5⟩, .vldq ⟨0, 0, 0, 1, 2, 3, 0, 1, 4, 5⟩, .vstq ⟨1, 0, 0, 1, 2, 3, 1, 1, 4, 5⟩,
    .vcvt ⟨0, 0, 1, 2, 0, 0, 5, 0⟩, .vcvt ⟨0, 0, 1, 2, 0, 0, 1, 1⟩, .vcvt ⟨0, 0, 1, 2, 2, 0, 1, 0⟩] : List Instr) ++
  ([.wld ⟨0, .imm 0, 1, 2, 0, 0, 3, 1⟩, .mma ⟨0, .imm 0, 1, 2, 0, 0, false, 0, false, 0, 1, 3⟩,
    .mma ⟨0, .reg 0, 0, 2, 23, 1, false, 0, false, 0, 1, 3⟩, .mma ⟨0, .reg 0, 1, 2, 24, 1, false, 0, false, 0, 1, 3⟩,
    .mst ⟨0, .imm 0, 1, false, 0, 0, false, 7⟩, .mlda ⟨0, .imm 0, 1, true, 0, 0, false, 3⟩,
    .mstq ⟨0, .imm 0, 1, 2, 0, false, 0, 0, false, 3, 1, 4⟩,
    .mstqKv ⟨0, .imm 0, 1, 0, 16, 0, false, false, false, false, false, 0, 1, 2⟩,
    .mstqKv ⟨0, .imm 0, 0, 0, 0, 0, false, false, false, true, false, 0, 1, 2⟩,
    .mstqKv ⟨0, .imm 0, 0, 1, 0, 0, false, false, false, false, false, 0, 1, 2⟩, .eddel ⟨0, .imm 0, 1, 2, 3⟩,
    .silt ⟨0, 3, 1, .imm 0⟩, .silt ⟨0, 0, 1, .imm 0⟩, .fcst ⟨0, .imm 0, 1, 1, 2⟩] : List Instr)

theorem test_wf_refuses : (illFormed.all fun i => !i.wf) = true := by decide

/-- Values at the edge of what the checks admit. -/
theorem test_wf_admits : (([.bfxs ⟨1, 2, 60, 3⟩, .callr ⟨1, 2, .imm 0⟩, .mst ⟨0, .imm 0, 1, false, 0, 0, false, 8⟩,
    .mma ⟨0, .reg 0, 0, 2, 24, 1, false, 0, false, 0, 1, 3⟩, .vcvt ⟨0, 0, 1, 2, 1, 0, 1, 0⟩, .silt ⟨0, 2, 1, .imm 0⟩] : List Instr).all Instr.wf) =
    true := by decide

/-! ## A small machine -/

/-- Segment 1: device addresses 0 to 0xFFFF; segments 2 and 3: the first 8 KiB of AB; each with every right. -/
def segMem : Seg := ⟨1#64 <<< 63, w64 (31 * 2 ^ 59 + 0xFFFF)⟩
def segAb : Seg := ⟨w64 (2 ^ 63 + 2 ^ 61), w64 (31 * 2 ^ 59 + 0x1FFF)⟩

/-- A thread of task 1 on its vcore 0, with nothing outstanding. -/
def demoT : Thread := { Thread.blank with
  uid := 7, task := 1, vu := 1024, pc := 0x40, tvec := 0x80,
  g := (Vector.replicate 32 0).set 5 0x100 |>.set 6 0xA5F0 |>.set 7 3,
  sg := (Vector.replicate 8 {}).set 0 fetchSeg |>.set 1 segMem |>.set 2 segAb |>.set 3 segAb }

/-- Its task and its vcore. -/
def demoK : Task := { tid := 1, fn := 0, tag := 5, q := 0, prio := 0, st := .running, placedGangs := [0], absz := 2, npt := 2, nacc := 2, save := 2 ^ 40,
                      nwb := 2, levels := [⟨true, false, 5, 4, 1⟩, ⟨false, true, 2, 1, 1024⟩, ⟨false, false, 1, 0, 1⟩] }
def demoV : Vcore := { vu := 1024, task := 1, idx := 0, placed := true, pslots := List.range 8 }

/-- The machine in which a thread of that task has just been given its turn; device addresses 0 to 0xFFFF are mapped to the page at
0x10000. -/
def demoOf (t : Thread) (k : Task := demoK) : State :=
  fetchTables.foldl (fun s x => s.setNum x.1 8 x.2) { State.reset with
    nextUid := 8, nextTask := 2, cur := some 7, threads := [t], vcores := [demoV], tasks := [k], functab := 0x1000, ready := true }

def demo : State := demoOf demoT

/-- `Issuing` as a check. -/
def issuingB (s : State) (t : Thread) : Bool :=
  decide (s.cur = some t.uid) && decide (s.thread? t.uid = some t) && decide (t.shadow = none) && decide (t.lane = none)

theorem issuing_of {s : State} {t : Thread} (h : issuingB s t = true) : Issuing s t := by
  simp only [issuingB, Bool.and_eq_true, decide_eq_true_eq] at h
  obtain ⟨⟨⟨a, b⟩, c⟩, d⟩ := h
  exact ⟨a, b, c, d⟩

/-- `Calm` as a check. -/
def calmB (s : State) (t : Thread) : Bool :=
  issuingB s t && decide (t.windows = []) && decide (t.pend = []) && decide (t.verdicts = []) && decide (t.late = []) &&
  decide (t.runnels = []) && decide (t.loop = none) && decide (t.failed = []) &&
  s.threads.all fun x => match x.lane with | some l => l.loopOf != t.uid | none => true

theorem calm_of {s : State} {t : Thread} (h : calmB s t = true) : Calm s t := by
  simp only [calmB, Bool.and_eq_true, decide_eq_true_eq, List.all_eq_true] at h
  obtain ⟨⟨⟨⟨⟨⟨⟨⟨a, b⟩, c⟩, d⟩, e⟩, f⟩, g⟩, i⟩, j⟩ := h
  refine ⟨issuing_of a, b, c, d, e, f, g, i, ?_⟩
  intro x hx l hl
  have := j x hx
  rw [Option.mem_def] at hl
  simpa [hl] using this

/-- `Reaches` as a check. -/
def reachB (s : State) (t : Thread) (seg : BitVec 3) (e : Int) (size align need : Nat) (wr : Bool) (mig : SegA → Bool) (lcOk : Bool)
    (p : Place) : Bool :=
  match s.unit seg e size align need wr with
  | .ok a =>
    (a.space != 1 || (s.away t == false && decide ((s.vcore t.vu).stageAt t.spt a.addr size = none))) &&
    (!mig a || decide (s.migrateTo (s.sliceNow a) = none)) &&
    (match s.trans a wr lcOk (b2n wr) with | .ok q => decide (q = p) | _ => false)
  | .bad _ => false

theorem reach_of {s : State} {t : Thread} {seg : BitVec 3} {e : Int} {size align need : Nat} {wr : Bool} {mig : SegA → Bool}
    {lcOk : Bool} {p : Place} (h : reachB s t seg e size align need wr mig lcOk p = true) :
    Reaches s t seg e size align need wr mig lcOk p := by
  unfold reachB at h
  split at h
  · rename_i a ha
    simp only [Bool.and_eq_true, Bool.or_eq_true, bne_iff_ne, ne_eq, beq_iff_eq, decide_eq_true_eq, Bool.not_eq_true'] at h
    obtain ⟨⟨h1, h2⟩, h3⟩ := h
    refine ⟨a, ha, ?_, ?_, ?_⟩
    · intro h; rcases h1 with h1 | h1
      · exact absurd h h1
      · exact h1
    · intro h; rcases h2 with h2 | h2
      · rw [h] at h2; cases h2
      · exact h2
    · split at h3
      · rename_i q hq; rw [hq]; simp at h3; rw [h3]
      · cases h3
  · cases h

/-- A snapshot load of a place brings the newest value: none of its words is poisoned or has an earlier one to show. -/
def snapB (s : State) (p : Place) (n : Nat) : Bool := !s.me.spec && decide (s.poisonTrap p n = none) && (p.space != 0 || !s.hasOld p n)

theorem snap_of {s : State} {p : Place} {n : Nat} (h : snapB s p n = true) : Snapshot s p n (s.readP p n) s := by
  simp only [snapB, Bool.and_eq_true, Bool.not_eq_true', decide_eq_true_eq] at h
  obtain ⟨⟨h1, h2⟩, h3⟩ := h
  simp [Snapshot, State.loadBoth, h1, h2, h3]

theorem free_of {t : Thread} (h : t.pend = []) (rs : List R5) : t.freeOf rs := by
  intro y hy; rw [h] at hy; cases hy

theorem demo_calm : Calm demo demoT := calm_of (by decide +kernel)
theorem demo_issuing : Issuing demo demoT := demo_calm.toIssuing
theorem demo_free (rs : List R5) : demoT.freeOf rs := free_of rfl rs

/-- A constant-window operand that can be read at once (10 R242). -/
theorem demo_cw : demo.bReady (.cw 3) := by unfold State.bReady; decide +kernel

/-- The places of 8 bytes at 0x100 of segment 1 and at 0x200 of segment 2. -/
def memPlace : Place := { space := 0, addr := 0x100, loc := 0x10100, slice := some 0 }
def abPlace : Place := { space := 1, addr := 0x200, loc := abBase 1024 + 0x200, slice := none }

/-! ## Witnesses: hypotheses of the statements are met -/

theorem witness_IntegerArithmeticResult : (∃ f, ruleAlu (.add ⟨6, 5, .cw 3⟩) = some (⟨6, 5, .cw 3⟩, f)) ∧ Issuing demo demoT ∧
    demoT.freeOf (6 :: 5 :: bRegs (.cw 3)) ∧ demo.bReady (.cw 3) := ⟨⟨_, rfl⟩, demo_issuing, demo_free _, demo_cw⟩

theorem witness_UnaryAndBitFieldResult : (∃ p, ruleUna (.clz ⟨6, 5⟩) = some (⟨6, 5⟩, p)) ∧ Issuing demo demoT ∧ demoT.freeOf [6, 5] ∧
    demo.bReady (.imm 1) ∧ (60 : BitVec 6).toNat + (3 : BitVec 6).toNat + 1 ≤ 64 :=
  ⟨⟨_, rfl⟩, demo_issuing, demo_free _, trivial, by decide⟩

theorem witness_DivideResult : (∃ f, ruleDivide (.rem ⟨3, 6, 5, .imm 0⟩) = some (⟨3, 6, 5, .imm 0⟩, f)) ∧ Issuing demo demoT ∧
    demoT.freeOf (5 :: bRegs (.imm 0)) ∧ demo.bReady (.imm 0) := ⟨⟨_, rfl⟩, demo_issuing, demo_free _, trivial⟩

theorem witness_ControlTransfers : Issuing demo demoT ∧ demoT.freeOf [5, 6] ∧ ruleBr .ltu (demoT.gr 5) (demoT.gr 6) ∧
    ¬ruleBr .geu (demoT.gr 5) (demoT.gr 6) ∧ ruleBrp .all (demoT.pr 0) ∧ ¬ruleBrp .any (demoT.pr 1) ∧ demo.bReady (.imm 4) := by
  refine ⟨demo_issuing, demo_free _, ?_, ?_, ?_, ?_, trivial⟩ <;> simp only [ruleBr, ruleBrp] <;> decide +kernel

/-- The thread in its trap handler. -/
def inhT : Thread := { demoT with inh := true }

theorem witness_TrapsAreTaken : Calm demo demoT ∧ demoT.inh = false ∧ demo.bReady (.cw 3) ∧
    Calm (demoOf inhT) inhT ∧ inhT.inh = true ∧ (demoOf inhT).bReady (.imm 0) :=
  ⟨demo_calm, rfl, demo_cw, calm_of (by decide +kernel), rfl, trivial⟩

/-- Firmware of die 1 at its management core. -/
def fwT : Thread := { demoT with fw := some 1 }

theorem witness_SystemRegisters : Issuing demo demoT ∧ demoT.freeOf [4] ∧ demo.away demoT = false ∧
    (∃ v, ruleGets demo demoT 0x0C = some v) ∧ ruleGets demo demoT 0x0D = none ∧ ruleGets demo demoT 0x80 = none ∧ Calm demo demoT ∧
    demoT.inh = false ∧ (∃ f, ruleSets (demoT.gr 5) 0x11 = some f) ∧ ruleSets (demoT.gr 5) 0x0D = none ∧
    Issuing (demoOf fwT) fwT ∧ (∃ f, ruleSetsDie (fwT.gr 5) 0x82 = some f) ∧ fwT.fw = some 1 ∧
    (∃ v, ruleGets (demoOf fwT) fwT 0x82 = some v) :=
  ⟨demo_issuing, demo_free _, by decide +kernel, ⟨_, rfl⟩, rfl, rfl, demo_calm, rfl, ⟨_, rfl⟩, rfl, issuing_of (by decide +kernel), ⟨_, rfl⟩,
   rfl, ⟨_, rfl⟩⟩

theorem witness_StepgoHandsOver : Calm demo demoT ∧ (demoT.gr 5).toNat % 32 = 0 ∧ (demo.die demoT.die).steps.length < 8 ∧
    (demoT.gr 7).toNat % 32 ≠ 0 ∧ demoT.inh = false := ⟨demo_calm, by decide +kernel, by decide +kernel, by decide +kernel, rfl⟩

/-- Firmware of die 1 whose segment 2 is its core's data memory, and a register of its block (21 R423). -/
def blockT : Thread := { fwT with sg := fwT.sg.set 2 segMem }
def blockDemo : State := demoOf blockT
def blockPlace : Place := { space := 0, addr := 0x3010, loc := mgmtBase 1 + 0x3010, slice := none }

theorem witness_LoadResult : Calm demo demoT ∧
    Reaches demo demoT 1 (ruleOff demoT 5 (.small 0) 8) 8 8 needRD false (fun a => false || a.space == 2) true memPlace ∧
    Snapshot demo memPlace 8 (demo.readP memPlace 8) demo ∧ memPlace.space = 0 ∧ blockAt memPlace.loc 8 = none ∧
    (∀ i < 8, ∀ o ∈ demo.pastOf (memPlace.key i), o.upto ≤ demo.snapFrom (memPlace.key i)) ∧
    Reaches demo demoT 2 (ruleOff demoT 5 (.lit 0x100) 8) 8 8 needRD false (fun a => false || a.space == 2) true abPlace ∧
    demo.poisonTrap abPlace 8 = none ∧ abPlace.space ≠ 0 ∧ demo.clashP abPlace 8 false false = none ∧ blockAt abPlace.loc 8 = none ∧
    demoT.fw = none ∧
    Calm blockDemo blockT ∧ (∀ d, blockT.fw = some d → blockDemo.posting d = false) ∧ blockAt blockPlace.loc 8 = some (1, 0x10) ∧
    Reaches blockDemo blockT 2 (ruleOff blockT 5 (.lit 0x2F10) 8) 8 8 needRD false (fun a => false || a.space == 2) true blockPlace ∧
    Reaches blockDemo blockT 2 (ruleOff blockT 5 (.lit 0x2F10) 8) 8 8 needWR true (fun _ => true) false blockPlace := by
  refine ⟨demo_calm, reach_of ?_, snap_of ?_, rfl, ?_, ?_, reach_of ?_, ?_, by decide, ?_, ?_, rfl, calm_of ?_, fun _ _ => rfl, ?_, reach_of ?_,
    reach_of ?_⟩ <;> decide +kernel

theorem demo_wf : Memory.wf demo.mem = true := by decide +kernel

theorem witness_StoreResult : Calm demo demoT ∧ Memory.wf demo.mem = true ∧
    Reaches demo demoT 1 (ruleOff demoT 5 (.small 0) 8) 8 8 needWR true (fun _ => true) false memPlace ∧ memPlace.straight ∧
    memPlace.addr % 8 = 0 ∧ blockAt memPlace.loc 8 = none ∧ demo.clash (memPlace.loc / 8 * 8) memPlace.slice true false = none :=
  ⟨demo_calm, demo_wf, reach_of (by decide +kernel), ⟨rfl, rfl⟩, rfl, by decide +kernel, by decide +kernel⟩

/-- The machine with the word at 0x100 empty. -/
def emptyDemo : State := demo.setFull 0x10100 false

theorem emptyDemo_calm : Calm emptyDemo demoT := calm_of (by decide +kernel)

theorem witness_FullEmptyLoadsAndStores : Calm demo demoT ∧
    Reaches demo demoT 1 (ruleOff demoT 5 (.small 0) 8) 8 8 (needRD + needSY + needWR) true (fun _ => true) false memPlace ∧
    Reaches demo demoT 1 (ruleOff demoT 5 (.small 0) 8) 8 8 (needRD + needSY + 0) false (fun _ => true) false memPlace ∧
    demo.full memPlace.loc = true ∧ demo.firstAt (memPlace.loc / 8) demo.order true = true ∧ demo.poisoned memPlace.loc = false ∧
    (∀ b, demo.clashAfter (demo.ldfClock memPlace.loc) memPlace.loc memPlace.slice b true = none) ∧
    Calm emptyDemo demoT ∧ Memory.wf emptyDemo.mem = true ∧
    Reaches emptyDemo demoT 1 (ruleOff demoT 5 (.small 0) 8) 8 8 (needWR + needSY) true (fun _ => true) false memPlace ∧
    memPlace.straight ∧ demoT.touched = 0 ∧ emptyDemo.full memPlace.loc = false ∧ emptyDemo.stfWaiters (memPlace.loc / 8) = false ∧
    emptyDemo.clashAfter (emptyDemo.wordRec memPlace.loc).take memPlace.loc memPlace.slice true true = none := by
  refine ⟨demo_calm, reach_of ?_, reach_of ?_, ?_, ?_, ?_, ?_, emptyDemo_calm, ?_, reach_of ?_, ⟨rfl, rfl⟩, ?_, ?_, ?_, ?_⟩ <;> decide +kernel

theorem witness_FullEmptyBitsAndWaits : Calm emptyDemo demoT ∧
    Reaches emptyDemo demoT 1 (ruleOff demoT 5 (.small 0) 8) 8 8 (needRD + needSY + needWR) true (fun _ => true) false memPlace ∧
    emptyDemo.full memPlace.loc = false ∧ Calm demo demoT ∧ demo.full memPlace.loc = true ∧ demoT.touched = 0 ∧
    Reaches demo demoT 1 (ruleOff demoT 5 (.small 0) 8) 8 8 (needWR + needSY) true (fun _ => true) false memPlace ∧
    Reaches demo demoT 1 ((demoT.gr 5).toInt + (0 : BitVec 5).toInt * 8) 8 8 (needWR + needSY) true (fun _ => true) false memPlace ∧
    demo.clash memPlace.loc memPlace.slice true true = none ∧
    Reaches demo demoT 1 ((demoT.gr 5).toInt + (0 : BitVec 5).toInt * 8) 8 8 (needRD + needSY) false (fun _ => true) false memPlace ∧
    demo.clash memPlace.loc memPlace.slice false true = none := by
  refine ⟨emptyDemo_calm, reach_of ?_, ?_, demo_calm, ?_, ?_, reach_of ?_, reach_of ?_, ?_, reach_of ?_, ?_⟩ <;> decide +kernel

theorem witness_BlockLoadStoreResult : Calm demo demoT ∧ demo.bReady (.imm 0) ∧ demo.away demoT = false ∧
    (demoT.gr 5).toInt + (demo.bValue (.imm 0)).toInt = ((0x100 : Nat) : Int) ∧ 0x100 % 256 = 0 ∧
    0x100 + 256 ≤ (demo.task demoT.task).absz * 4096 ∧ (demo.vcore demoT.vu).flumesAt 0x100 256 = [] ∧
    (let p : Place := { space := 1, addr := 0x100, loc := abBase demoT.vu + 0x100, slice := none }
     demo.poisonTrap p 256 = none ∧ demo.clashP p 256 false false = none ∧ demo.clashP p 256 true false = none) ∧
    Memory.wf demo.mem = true ∧ ¬(1984 < 0x100 + 256 ∧ 0x100 < 2048) := by
  refine ⟨demo_calm, trivial, ?_, ?_, by decide, ?_, ?_, ⟨?_, ?_, ?_⟩, demo_wf, by decide⟩ <;> decide +kernel


/-- The machine after thread 9 wrote the word at 0x100, not ordered before the current thread. -/
def raceDemo : State := demo.setRec 0x10100 fun r => { r with acc := [⟨9, 9, 1, true, false, false⟩] }

theorem witness_RacesAreCaught : Calm raceDemo demoT ∧
    Reaches raceDemo demoT 1 (ruleOff demoT 5 (.small 0) 8) 8 8 needRD false (fun _ => true) false memPlace ∧
    memPlace.straight ∧ memPlace.addr % 8 = 0 ∧ blockAt memPlace.loc 8 = none ∧ demoT.fw = none ∧
    raceDemo.clash memPlace.loc memPlace.slice false false = some ⟨9, 9, 1, true, false, false⟩ ∧
    Reaches raceDemo demoT 1 (ruleOff demoT 5 (.small 0) 8) 8 8 needWR true (fun _ => true) false memPlace ∧
    raceDemo.clash (memPlace.loc / 8 * 8) memPlace.slice true false = some ⟨9, 9, 1, true, false, false⟩ := by
  refine ⟨calm_of ?_, reach_of ?_, ⟨rfl, rfl⟩, rfl, ?_, rfl, ?_, reach_of ?_, ?_⟩ <;> decide +kernel

/-- A deterministic task. -/
def detK : Task := { demoK with det := true }

theorem witness_AtomicResult : (∃ f, ruleAmo demoT (.amocas ⟨2, .imm 1, 5, 9, 0, true, true, true, 1, 7⟩) =
      some (⟨2, .imm 1, 5, 9, 0, true, true, true, 1, 7⟩, f, false, 3, false)) ∧
    (Instr.amocas ⟨2, .imm 1, 5, 9, 0, true, true, true, 1, 7⟩).wf = true ∧ Calm demo demoT ∧ Memory.wf demo.mem = true ∧
    Reaches demo demoT 1 ((demoT.gr 5).toInt + (0 : BitVec 16).toInt) 8 8 (needRD + needWR + needSY) true (fun _ => true) false memPlace ∧
    memPlace.straight ∧ memPlace.addr % 8 = 0 ∧ (demo.task demoT.task).det = false ∧ demoT.touched = 0 ∧
    demo.clashAfter (demo.amoClock (memPlace.loc / 8 * 8) true) (memPlace.loc / 8 * 8) memPlace.slice true true = none ∧
    demo.poisoned (memPlace.loc / 8 * 8) = false ∧ Calm (demoOf demoT detK) demoT ∧ ((demoOf demoT detK).task demoT.task).det = true ∧ ¬((true = true) ∧ (9 : R5) = 0) ∧
    (demoOf demoT detK).unit 1 ((demoT.gr 5).toInt + (0 : BitVec 16).toInt) 4 4 (needRD + needWR + needSY) true = .ok ⟨0, 0, 0x100, 1⟩ ∧
    demoT.inh = false := by
  refine ⟨⟨_, rfl⟩, rfl, demo_calm, demo_wf, reach_of ?_, ⟨rfl, rfl⟩, rfl, ?_, rfl, ?_, ?_, calm_of ?_, ?_, ?_, ?_, rfl⟩ <;> decide +kernel

/-- A thread that has touched slice 3, and the machine with an MST of its vcore queued. -/
def touchT : Thread := { demoT with touched := 8 }
def queuedDemo : State := { demo with order := 5, matq := [
  { order := 2, thr := 9, vu := 1024, core := 0, prio := 0, wid := some 1, pc := 0, seq := 0, i := .mst ⟨0, .imm 0, 1, false, 0, 0, false, 0⟩,
    a := [⟨1, 0, 0x400, 2⟩] }] }

theorem witness_FenceAndDrain : Calm demo demoT ∧ demoT.touched = 0 ∧ Calm (demoOf touchT) touchT ∧ touchT.touched ≠ 0 ∧
    (∀ c ∈ demo.cmds, c.vu = demoT.vu → c.st = .finished) ∧ (∀ m ∈ demo.matq, m.vu ≠ demoT.vu) ∧ (∀ f ∈ demo.fills, f.vu ≠ demoT.vu) ∧
    Calm queuedDemo demoT ∧ queuedDemo.drainWaits demoT.vu .ab queuedDemo.order = true := by
  refine ⟨demo_calm, rfl, calm_of ?_, ?_, ?_, ?_, ?_, calm_of ?_, ?_⟩ <;> decide +kernel

/-- A task with a flume, whose producer is slot 0 and whose consumer is slot 1, and the machine in which vcore 0 has bound it. -/
def flumeK : Task := { demoK with ringoff := 0x1000, flumes := 1 }
def flumeWord : Nat := 2 * 2 ^ 44 + 2 ^ 36 + 2 ^ 28 + 2 ^ 18 + 2048
def flumeT : Thread := { demoT with g := demoT.g.set 8 (w64 flumeWord) }
def flumeDemo : State := (demoOf flumeT flumeK).setVcore 1024 fun v => { v with flumes := [flumeOf 0 (w64 flumeWord)] }

theorem witness_BarriersAndFlumes : Calm demo demoT ∧ demo.task? demoT.task = some demoK ∧ (2 : BitVec 3).toNat < demoK.levels.length ∧
    demoT.child = false ∧ demoT.item = none ∧ demoT.touched = 0 ∧ demoK.levels.length ≤ (3 : BitVec 3).toNat ∧ demoT.inh = false ∧
    Calm (demoOf flumeT flumeK) flumeT ∧ (demoOf flumeT flumeK).away flumeT = false ∧ flumeT.gr 8 ≠ 0 ∧
    (demoOf flumeT flumeK).flumeOk flumeT.vu 0 (flumeT.gr 8) = true ∧ flumeT.gr 1 = 0 ∧ (demoOf flumeT flumeK).flumeBusy flumeT.vu 0 = false ∧
    Calm flumeDemo flumeT ∧ flumeDemo.away flumeT = false ∧
    (∃ v f, flumeDemo.vcore? flumeT.vu = some v ∧ (v.flumes.find? fun y => y.f == 0) = some f ∧ f.member flumeT.slot = true) := by
  refine ⟨demo_calm, ?_, ?_, ?_, ?_, ?_, ?_, ?_, calm_of ?_, ?_, ?_, ?_, ?_, ?_, calm_of ?_, ?_, _, _, rfl, rfl, ?_⟩ <;> decide +kernel

/-- The machine with one entry in the ring of vcore 0. -/
def ringV : Vcore := { demoV with ringhd := 1, ringClk := [[]] }
def ringDemo : State := { demo with vcores := [ringV] }

theorem witness_MessagesAreSentAndReceived : Calm demo demoT ∧ (demoT.gr 7).toNat < 1024 ∧ demoT.msg = none ∧ demoT.touched = 0 ∧
    (demo.task demoT.task).det = false ∧ 1024 ≤ (demoT.gr 6).toNat ∧ demoT.inh = false ∧ demo.away demoT = false ∧
    demo.vcore? demoT.vu = some demoV ∧ demoV.ringhd = demoV.ringtl ∧ Calm ringDemo demoT ∧ ringDemo.away demoT = false ∧
    ringDemo.vcore? demoT.vu = some ringV ∧ ringV.ringhd ≠ ringV.ringtl ∧ ringDemo.ringFirst demoT.vu ringDemo.order = true := by
  refine ⟨demo_calm, ?_, ?_, ?_, ?_, ?_, ?_, ?_, ?_, ?_, calm_of ?_, ?_, ?_, ?_, ?_⟩ <;> decide +kernel

/-- A descriptor at each edge of 02 R44: the last byte of the space, the last of AB, of the cistern; and one beyond it. -/
theorem witness_SegmentEdges :
    (⟨1#64 <<< 63, w64 (2 ^ 52 - 1)⟩ : Seg).wf 2 = true ∧ (⟨w64 (2 ^ 63 + 64), w64 (2 ^ 52 - 64)⟩ : Seg).wf 2 = false ∧
    (⟨w64 (2 ^ 63 + 2 ^ 61), 0x1FFF⟩ : Seg).wf 2 = true ∧ (⟨w64 (2 ^ 63 + 2 ^ 61), 0x2000⟩ : Seg).wf 2 = false ∧
    (⟨w64 (2 ^ 63 + 2 ^ 62 + 2 ^ 54), 0x17FFFF⟩ : Seg).wf 2 = true ∧ (⟨w64 (2 ^ 63 + 2 ^ 62), 0x180000⟩ : Seg).wf 2 = false := by
  decide +kernel

/-- Doublewords written at places of the small machine. -/
def demoWith (ws : List (Nat × Nat)) (t : Thread := demoT) (k : Task := demoK) : State :=
  ws.foldl (fun s x => s.setNum x.1 8 x.2) (demoOf t k)

/-- The machine with a descriptor that is not well formed at 0x100. -/
def badSegDemo : State := demoWith [(0x10100, 2 ^ 63 + 1)]

theorem witness_SegmentDescriptors_SegmentsReadAndChecked : Calm demo demoT ∧
    Reaches demo demoT 1 (demoT.gr 5).toInt 16 16 needRD false (fun _ => false) false memPlace ∧ demo.poisonTrap memPlace 16 = none ∧
    demo.clashP memPlace 16 false false = none ∧
    (⟨w64 (natOfBytes ((demo.readP memPlace 16).take 8)), w64 (natOfBytes ((demo.readP memPlace 16).drop 8))⟩ : Seg).wf
      (demo.task demoT.task).absz = true ∧ Calm badSegDemo demoT ∧
    Reaches badSegDemo demoT 1 (demoT.gr 5).toInt 16 16 needRD false (fun _ => false) false memPlace ∧
    badSegDemo.poisonTrap memPlace 16 = none ∧ badSegDemo.clashP memPlace 16 false false = none ∧
    (⟨w64 (natOfBytes ((badSegDemo.readP memPlace 16).take 8)), w64 (natOfBytes ((badSegDemo.readP memPlace 16).drop 8))⟩ : Seg).wf
      (badSegDemo.task demoT.task).absz = false ∧ demoT.inh = false ∧
    segMem.lo.getLsbD 63 = true ∧ (segMem.hi.extractLsb' 59 5).toNat &&& 31 = 31 ∧ ¬((0xFFF8 : Int) < 0 ∨ (0xFFFF : Int) < 0xFFF8 + 8 - 1) ∧
    ((0xFFF9 : Int) < 0 ∨ (0xFFFF : Int) < 0xFFF9 + 8 - 1) ∧ ({} : Seg).lo.getLsbD 63 = false ∧
    (fetchSeg.hi.extractLsb' 59 5).toNat &&& needWR ≠ needWR := by
  refine ⟨demo_calm, reach_of ?_, ?_, ?_, ?_, calm_of ?_, reach_of ?_, ?_, ?_, ?_, rfl, ?_, ?_, ?_, ?_, ?_, ?_⟩ <;> decide +kernel

/-- A check that passed, as a truth value. -/
def goodB {α : Type} (c : Ck α) : Bool := match c with | .good _ => true | _ => false

theorem good_of {α : Type} {c : Ck α} (h : goodB c = true) : ∃ a, c = .good a := by
  cases c <;> simp_all [goodB]

/-- Doublewords one after the other, with their places. -/
def wordsFrom (a : Nat) (l : List Nat) : List (Nat × Nat) := ((List.range l.length).zip l).map fun x => (a + 8 * x.1, x.2)

/-- Transfer records of 12 R298: COPY of one doubleword, REDUCE of one word, the same in order, and REQUANT of a block. -/
def cpyRec : List Nat := [3 * 2 ^ 53 + 2 ^ 26 + 2 * 2 ^ 23, 0x300, 0x400, 0x0001000100010001, 0, 0, 0, 0]
def cpyrRec : List Nat := [2 ^ 60 + 2 * 2 ^ 53 + 2 ^ 26 + 2 * 2 ^ 23, 0x300, 0x400, 0x0001000100010001, 0, 0, 0, 0]
def ordRec : List Nat := [2 ^ 60 + 8 * 2 ^ 56 + 2 ^ 55 + 2 * 2 ^ 53 + 2 ^ 26 + 2 * 2 ^ 23, 0x300, 0x400, 0x0001000100010001, 0, 0, 0, 0]
def rqRec : List Nat := [2 * 2 ^ 60 + 2 ^ 26 + 2 * 2 ^ 23, 0x400, 0x400, 0x500, 0x200, 0x240, 0x600, 0]

/-- The descriptor of a frame of 128 E4M3 codes. -/
def frameW : List Nat := [0, 0, 0x7F, 0x01010101 * 2 ^ 32 + 0xE401]

def recDemo (l : List Nat) : State := demoWith (wordsFrom 0x10100 l)
def rqDemo : State := demoWith (wordsFrom 0x10100 rqRec ++ wordsFrom 0x10200 frameW ++ wordsFrom (abBase 1024 + 0x240) frameW)

/-- The doublewords at a place. -/
def wordsAt (s : State) (p : Place) (n : Nat) : List Word := recWords (s.readP p (8 * n)) n

/-- What CPY, CPYR and CPYR.ord find at their issue. -/
def culvertB (l : List Nat) (op : Nat) (ord : Bool) : Bool :=
  let s := recDemo l
  let r := wordsAt s memPlace 8
  calmB s demoT && reachB s demoT 1 ((demoT.gr 5).toInt + (s.bValue (.imm 0)).toInt) 64 64 needRD false (fun _ => false) true memPlace &&
  snapB s memPlace 64 && decide (demoT.touched = 0) && !s.away demoT && decide (s.queued (demoT.core / 16) < 64) &&
  trOp r == op && trOrd r == ord && decide (trBad r = none) && !(s.task demoT.task).det && goodB (s.trIssue (s.draft .record) r none)

theorem witness_CulvertCommandsAreIssued : culvertB cpyRec 0 false = true ∧ culvertB cpyrRec 1 false = true ∧ culvertB ordRec 1 true = true ∧
    calmB rqDemo demoT = true ∧
    reachB rqDemo demoT 1 ((demoT.gr 5).toInt + (rqDemo.bValue (.imm 0)).toInt) 64 64 needRD false (fun _ => false) true memPlace = true ∧
    (let r := wordsAt rqDemo memPlace 8
     let pa : Place := { space := 0, addr := 0x200, loc := 0x10200, slice := some 0 }
     let pb : Place := { space := 1, addr := 0x240, loc := abBase 1024 + 0x240, slice := none }
     let c := rqDemo.draft .record
     trOp r = 2 ∧ trOrd r = false ∧ trBad r = none ∧ goodB (rqDemo.rqFrameAddr c (some demoT.slot) r) = true ∧
     (match rqDemo.rqFrameAddr c (some demoT.slot) r with
      | .good (a, b) => (match rqDemo.trans a false true 2, rqDemo.trans b false true 2 with | .ok x, .ok y => x == pa && y == pb | _, _ => false)
      | _ => false) = true ∧
     Snapshot rqDemo memPlace 64 (rqDemo.readP memPlace 64) rqDemo ∧ Snapshot rqDemo pa 32 (rqDemo.readP pa 32) rqDemo ∧
     Snapshot rqDemo pb 32 (rqDemo.readP pb 32) rqDemo ∧
     goodB (rqDemo.trIssue c r (some (wordsAt rqDemo pa 4, wordsAt rqDemo pb 4))) = true) := by
  refine ⟨?_, ?_, ?_, ?_, ?_, ?_, ?_, ?_, ?_, ?_, snap_of ?_, snap_of ?_, snap_of ?_, ?_⟩ <;> decide +kernel

/-- A chain of the current thread that walks channel 3 of its cluster. -/
def walkDemo : State := { demo with cmds := [{ id := 0, thr := 7, task := 1, vu := 1024, core := 0, kind := .chain 3, segs := demoT.sg }] }

/-- A task of two modules, and a step of it that sends one word to module 1. -/
def peerK : Task := { demoK with levels := [⟨true, false, 5, 5, 2⟩, ⟨false, true, 2, 1, 1024⟩, ⟨false, false, 1, 0, 1⟩] }
def stepRec : List Nat := [2 * 2 ^ 60 + 2 ^ 38, 0x300, 0, 0, 1, 0, 0, 0]
def stepDemo : State := demoWith (wordsFrom 0x10100 stepRec) demoT peerK

/-- Function 0 holds slice 3. -/
def grantDemo : State := demoWith [(0x1008, 8)]

/-- The line of 0x100 pinned, and its slice full of other lines. -/
def pinDemo : State := { demo with pins := [⟨0, 0, 0x80, 1⟩] }
def fullPins : State := { demo with pins := (List.range 32).map fun i => ⟨0, 0, 0x81 + i, 1⟩ }

theorem witness_ChainsDigestsPinsAndCisterns : Calm demo demoT ∧ demoT.touched = 0 ∧ demo.away demoT = false ∧
    demo.unit 1 ((demoT.gr 5).toInt + (demo.bValue (.imm 0)).toInt) 64 64 needRD false = .ok ⟨0, 0, 0x100, 1⟩ ∧
    demo.walking (fun c => c.kind == .chain 3 && c.core / 16 == demoT.core / 16) = false ∧ Calm walkDemo demoT ∧
    walkDemo.walking (fun c => c.kind == .chain 3 && c.core / 16 == demoT.core / 16) = true ∧
    Reaches demo demoT 1 ((demoT.gr 5).toInt + (demo.bValue (.imm 0)).toInt) 64 64 needRD false (fun _ => false) true memPlace ∧
    Snapshot demo memPlace 64 (demo.readP memPlace 64) demo ∧ Snapshot stepDemo memPlace 64 (stepDemo.readP memPlace 64) stepDemo ∧
    stBad (demo.task demoT.task) (wordsAt demo memPlace 8) ≠ none ∧
    Calm stepDemo demoT ∧ stBad (stepDemo.task demoT.task) (wordsAt stepDemo memPlace 8) = none ∧
    (let r := wordsAt stepDemo memPlace 8
     ∀ k < stCount r, ∀ y ∈ [(stSends r, 1, stSize (stIfmt r), false), (stLands r, 2, stSize (stIfmt r), true), (stForms r, 3, stSize (stRfmt r), true)],
       y.1 = true → ∃ a, stepDemo.engAddr (stepDemo.draft .cstep) (some demoT.slot) 1 (((r.getD y.2.1 0).extractLsb' 0 52).toNat + y.2.2.1 * k)
         y.2.2.1 y.2.2.1 (needRD + needWR + needEN) y.2.2.2 = .good a) ∧
    demo.unit 1 (demoT.gr 5).toInt 32 32 (needWR + needEN) true = .ok ⟨0, 0, 0x100, 1⟩ ∧ demoT.folds = [] ∧
    demo.unit 1 ((demoT.gr 5).toInt + (0 : BitVec 5).toInt * 8) 8 8 needRD false = .ok ⟨0, 0, 0x100, 1⟩ ∧
    (match demo.trans ⟨0, 0, 0x100, 1⟩ false false 0 with | .ok p => p == memPlace | _ => false) = true ∧
    (pinDemo.pins.any fun q => q.slice == 0 && q.fn == pinDemo.fnOf demoT && q.line == memPlace.loc / 512) = true ∧
    (demo.pins.any fun q => q.slice == 0 && q.fn == demo.fnOf demoT && q.line == memPlace.loc / 512) = false ∧
    (demo.pins.filter fun q => q.slice == 0).length < 32 ∧ 32 ≤ (fullPins.pins.filter fun q => q.slice == 0).length ∧
    (fullPins.pins.any fun q => q.slice == 0 && q.fn == fullPins.fnOf demoT && q.line == memPlace.loc / 512) = false ∧
    Calm grantDemo demoT ∧ (demoT.gr 7).toNat ≤ 127 ∧ (12 : BitVec 8).toNat ≤ 12 ∧ grantDemo.granted (grantDemo.fnOf demoT) (demoT.gr 7).toNat = true ∧
    demo.granted (demo.fnOf demoT) (demoT.gr 7).toNat = false ∧ 127 < (demoT.gr 5).toNat ∧ demoT.inh = false := by
  refine ⟨demo_calm, ?_, ?_, ?_, ?_, calm_of ?_, ?_, reach_of ?_, snap_of ?_, snap_of ?_, ?_, calm_of ?_, ?_, ?_, ?_, ?_, ?_, ?_, ?_, ?_, ?_, ?_,
    ?_, calm_of ?_, ?_, ?_, ?_, ?_, ?_, rfl⟩
  case refine_13 =>
    have h : ∀ k < stCount (wordsAt stepDemo memPlace 8), ∀ y ∈ [(stSends (wordsAt stepDemo memPlace 8), 1, stSize (stIfmt (wordsAt stepDemo memPlace 8)), false),
        (stLands (wordsAt stepDemo memPlace 8), 2, stSize (stIfmt (wordsAt stepDemo memPlace 8)), true),
        (stForms (wordsAt stepDemo memPlace 8), 3, stSize (stRfmt (wordsAt stepDemo memPlace 8)), true)],
        y.1 = true → goodB (stepDemo.engAddr (stepDemo.draft .cstep) (some demoT.slot) 1
          ((((wordsAt stepDemo memPlace 8).getD y.2.1 0).extractLsb' 0 52).toNat + y.2.2.1 * k)
          y.2.2.1 y.2.2.1 (needRD + needWR + needEN) y.2.2.2) = true := by decide +kernel
    exact fun k hk y hy hh => good_of (h k hk y hy hh)
  all_goals decide +kernel

/-- A thread with data in v1 and v2, and elements 0 and 1 of 4 bytes active under p1. -/
def vecT : Thread := { demoT with
  v := (Vector.replicate 32 0).set 1 (BitVec.ofNat 2048 0x3F80000040490FDB7FC00000FF800001) |>.set 2 (BitVec.ofNat 2048 0xBF80000000000001),
  p := (Vector.replicate 8 0).set 1 0xFF |>.set 2 0xF0F }
def vecDemo : State := demoOf vecT

theorem vec_calm : Calm vecDemo vecT := calm_of (by decide +kernel)

theorem witness_VectorIntegerResult : (∃ f, ruleVInt (.viaddS ⟨3, 1, 7, 1, 3⟩) = some (⟨3, 1, 7, 1, 3⟩, true, f)) ∧
    (Instr.viaddS ⟨3, 1, 7, 1, 3⟩).wf = true ∧ Issuing vecDemo vecT ∧ vecT.runnels = [] ∧ vecT.freeOf [7] :=
  ⟨⟨_, rfl⟩, rfl, vec_calm.toIssuing, rfl, free_of rfl _⟩

theorem witness_VectorFloatResult : (∃ f, ruleVFlt (.vfmaS ⟨1, 1, 7, 1, 3⟩) = some (⟨1, 1, 7, 1, 3⟩, true, f)) ∧
    (Instr.vfmaS ⟨1, 1, 7, 1, 3⟩).wf = true ∧ Issuing vecDemo vecT ∧ vecT.runnels = [] ∧ vecT.freeOf [7] :=
  ⟨⟨_, rfl⟩, rfl, vec_calm.toIssuing, rfl, free_of rfl _⟩

/-- The edge of rounding to infinity: half a step above the greatest finite value, and the even neighbour below it. -/
theorem witness_RoundedOnceToNearestEven : f32 ∈ [f32, bf16] ∧
    ((2 : Rat) ^ (128 : Int) - (2 : Rat) ^ ((127 : Int) - f32.p) ≤ (ruleVal (.fin false (2 ^ 25 - 1) 103)).abs) ∧
    ((ruleVal (.fin true (2 ^ 24 - 1) 104)).abs < (2 : Rat) ^ (128 : Int) - (2 : Rat) ^ ((127 : Int) - f32.p)) := by
  refine ⟨by decide, by decide +kernel, by decide +kernel⟩

theorem witness_ComparesSelectionAndLanes : Issuing vecDemo vecT ∧ vecT.runnels = [] ∧ VCond.tyOk .unord 1 = true ∧ VCond.tyOk .ltu 2 = true ∧
    vecT.freeOf [5] ∧ (0 < 256 / tySize 0 ∧ (vecT.pr 1).getLsbD (tySize 0 * 0) = true ∧ ∀ k, k < 0 → (vecT.pr 1).getLsbD (tySize 0 * k) = false) ∧
    (∀ e, e < 256 / tySize 0 → (vecT.pr 3).getLsbD (tySize 0 * e) = false) :=
  ⟨vec_calm.toIssuing, rfl, rfl, rfl, free_of rfl _, ⟨by decide, by decide +kernel, fun k h => absurd h (by omega)⟩, by decide +kernel⟩

theorem witness_PermutesAndRotation : Issuing vecDemo vecT ∧ vecT.runnels = [] ∧ (0 : BitVec 2).toNat < 2 ∧
    (∃ f, rulePerm (.vcompact ⟨0, 1, 2, 1, 3⟩) = some (⟨0, 1, 2, 1, 3⟩, f)) := ⟨vec_calm.toIssuing, rfl, by decide, ⟨_, rfl⟩⟩

theorem witness_LongVectorAndRandom : Issuing vecDemo vecT ∧ vecT.runnels = [] ∧
    (∃ rm f, ruleVLong (.vdiv ⟨2, 0, 1, 2, 1, 3, 3, false⟩) = some (⟨2, 0, 1, 2, 1, 3, 3, false⟩, rm, f)) ∧
    (Instr.vdiv ⟨2, 0, 1, 2, 1, 3, 3, false⟩).wf = true ∧ (Instr.vredadd ⟨2, 0, 1, 0, 1, 3, 0, true⟩).wf = true ∧
    (Instr.vredadd ⟨2, 1, 1, 0, 1, 3, 0, false⟩).wf = true ∧ (Instr.vcvt ⟨2, 1, 1, 3, 3, 0, 4, 0⟩).wf = true ∧ vecT.freeOf [5] :=
  ⟨vec_calm.toIssuing, rfl, ⟨_, _, rfl⟩, rfl, rfl, rfl, rfl, free_of rfl _⟩

/-- The descriptor of a read stream of four elements of 256 bytes at 0x400 of segment 1 (02 R70). -/
def streamW : List Nat := [2 ^ 52 + 0x400, 0x0001000100010004, 256, 0]

/-- A place in the page at 0x10000, and the four of the element at 0x400. -/
def quPlace (a : Nat) : Place := { space := 0, addr := a, loc := 0x10000 + a, slice := some 0 }
def elemPs : List Place := [quPlace 0x400, quPlace 0x440, quPlace 0x480, quPlace 0x4C0]

/-- A thread with read runnel v24, whose first element has come, and write runnel v25. -/
def runT : Thread := { vecT with runnels := [
  { v := 24, write := false, ab := false, seg := 1, fresh := false, base := 0x400, counts := [4, 1, 1, 1], strides := [256, 0, 0, 0], ahead := [⟨5, none, 0⟩] },
  { v := 26, write := false, ab := false, seg := 1, fresh := true, base := 0x400, counts := [4, 1, 1, 1], strides := [256, 0, 0, 0],
    ahead := [⟨5, none, 0⟩] },
  { v := 25, write := true, ab := false, seg := 1, fresh := false, base := 0x400, counts := [4, 1, 1, 1], strides := [256, 0, 0, 0] }] }

def runDemo : State := demoOf runT

/-- The same after a synchronising operation that the element was fetched before. -/
def laterT : Thread := { runT with since := 9 }
def laterDemo : State := demoOf laterT
def bindDemo : State := demoWith (wordsFrom 0x10100 streamW)

theorem witness_RunnelsMoveElements : Calm bindDemo demoT ∧ bindDemo.away demoT = false ∧ 24 ≤ (24 : R5).toNat ∧
    Reaches bindDemo demoT 1 (demoT.gr 5).toInt 32 32 needRD false (fun _ => false) true memPlace ∧
    Snapshot bindDemo memPlace 32 (bindDemo.readP memPlace 32) bindDemo ∧
    streamOk demoT ((wordsAt bindDemo memPlace 4).getD 0 0) (runnelOf 24 (wordsAt bindDemo memPlace 4)) = true ∧
    bindDemo.runnelsOn demoT.core < 16 ∧ Issuing runDemo runT ∧ runDemo.away runT = false ∧
    runT.windows = [] ∧
    (∃ y z, runT.runnel 24 = some y ∧ y.pushed = [] ∧ y.taken < y.len ∧ runT.runnel 3 = none ∧ y.write = false ∧ y.fresh = false ∧
      y.wait = none ∧ y.ahead = ⟨5, none, 0⟩ :: [] ∧ runDemo.elemAt runT y y.taken = .ok ⟨0, 0, 0x400, 1⟩ ∧
      (match runDemo.elemPlaces runT y ⟨0, 0, 0x400, 1⟩ with | .inr ps => decide (ps = elemPs) | .inl _ => false) = true ∧
      runDemo.elemFresh elemPs 0 = true ∧ laterDemo.elemFresh elemPs 0 = false ∧ Issuing laterDemo laterT ∧ laterDemo.elemPoison elemPs = none ∧
      runT.runnel 25 = some z ∧ runT.runnel 1 = none ∧ z.write = true ∧ z.taken < z.len ∧ z.pushed.length < 8 ∧
      runDemo.elemAt runT z z.taken = .ok ⟨0, 0, 0x400, 1⟩) ∧
    (∃ y, runT.runnel 26 = some y ∧ y.fresh = true ∧ y.wait = none ∧ y.taken < y.len ∧ runDemo.elemClash elemPs false = none ∧
      runDemo.elemPoison elemPs = none) := by
  refine ⟨calm_of ?_, ?_, ?_, reach_of ?_, snap_of ?_, ?_, ?_, issuing_of ?_, ?_, rfl, ⟨_, _, rfl, ?_, ?_, ?_, ?_, ?_, ?_, rfl, ?_, ?_, ?_, ?_,
    issuing_of ?_, ?_, rfl, ?_, ?_, ?_, ?_, ?_⟩, _, rfl, ?_, ?_, ?_, ?_, ?_⟩ <;> decide +kernel

theorem witness_NopYieldHalt : Issuing demo demoT ∧ Calm demo demoT ∧
    (∀ c ∈ demo.cmds, c.thr = demoT.uid → c.st = .finished) ∧ (∀ u ∈ demo.threads, u.vu = demoT.vu → u.fw = none → u.uid = demoT.uid) := by
  refine ⟨demo_issuing, demo_calm, ?_, ?_⟩ <;> decide +kernel

/-- A thread in its handler whose thermal displacement waits for ERET. -/
def hotT : Thread := { inhT with displace := some 17 }

theorem witness_EretReturns : Issuing (demoOf inhT) inhT ∧ inhT.inh = true ∧ inhT.loop = none ∧ inhT.displace = none ∧ Calm demo demoT ∧
    demoT.inh = false ∧ Issuing (demoOf hotT) hotT ∧ hotT.inh = true ∧ hotT.loop = none ∧ hotT.displace = some 17 := by
  refine ⟨issuing_of ?_, rfl, rfl, rfl, demo_calm, rfl, issuing_of ?_, rfl, rfl, rfl⟩ <;> decide +kernel

/-- `VloadOk` of a place that is not converted, as a check. -/
theorem vload_of {s : State} {p : Place} {n : Nat} (h : s.poisonTrap p n = none ∧ s.clashP p n false false = none) (hl : p.lc = none) :
    VloadOk s p n := ⟨h.1, h.2, .inl hl⟩

/-- Element `e` of 4 bytes at 0x100 of segment 2 (AB). -/
def vecPlace (e : Nat) : Place := { space := 1, addr := 0x100 + 4 * e, loc := abBase 1024 + 0x100 + 4 * e, slice := none }

theorem witness_VectorLoadResult : ∃ x, ruleVmem (.vld ⟨1, 2, 1, 5, 3⟩) = some x ∧ x.store = false ∧ (Instr.vld ⟨1, 2, 1, 5, 3⟩).wf = true ∧
    Calm vecDemo vecT ∧ (∃ e, x.on vecT e) ∧ (∀ e, x.on vecT e → Reaches vecDemo vecT x.seg (x.off vecT e) x.w x.w needRD false (fun _ => false) true (vecPlace e) ∧
      VloadOk vecDemo (vecPlace e) x.w) := by
  refine ⟨_, rfl, rfl, rfl, vec_calm, ⟨0, ?_⟩, ?_⟩
  · unfold VmemRule.on; decide +kernel
  · have h : ∀ e, e < 64 → (vecT.pr 1).getLsbD (4 * e) = true →
        reachB vecDemo vecT 2 ((vecT.gr 5).toInt + 4 * e) 4 4 needRD false (fun _ => false) true (vecPlace e) = true ∧
        vecDemo.poisonTrap (vecPlace e) 4 = none ∧ vecDemo.clashP (vecPlace e) 4 false false = none := by decide +kernel
    intro e he
    obtain ⟨h1, h2⟩ := h e he.1 he.2
    exact ⟨reach_of h1, vload_of h2 rfl⟩

theorem witness_VectorStoreResult : ∃ x, ruleVmem (.vst ⟨0, 2, 1, 5, 3⟩) = some x ∧ x.store = true ∧ (Instr.vst ⟨0, 2, 1, 5, 3⟩).wf = true ∧
    Calm vecDemo vecT ∧ Memory.wf vecDemo.mem = true ∧ (∃ e, x.on vecT e) ∧
    (∀ e, x.on vecT e → Reaches vecDemo vecT x.seg (x.off vecT e) x.w x.w needWR true (fun _ => false) false (vecPlace e) ∧
      (vecPlace e).straight ∧ (vecPlace e).addr % x.w = 0 ∧ vecDemo.clash ((vecPlace e).loc / 8 * 8) (vecPlace e).slice true false = none) ∧
    (∀ e f, x.on vecT e → x.on vecT f → ∀ j k, j < x.w → k < x.w → vecDemo.chan ((vecPlace e).at j) = vecDemo.chan ((vecPlace f).at k) →
      x.off vecT e + j = x.off vecT f + k) := by
  refine ⟨_, rfl, rfl, rfl, vec_calm, by decide +kernel, ⟨0, ?_⟩, ?_, ?_⟩
  · unfold VmemRule.on; decide +kernel
  · have h : ∀ e, e < 64 → (vecT.pr 1).getLsbD (4 * e) = true →
        reachB vecDemo vecT 2 ((vecT.gr 5).toInt + 4 * e) 4 4 needWR true (fun _ => false) false (vecPlace e) = true ∧
        (vecPlace e).loc % 8 = (vecPlace e).addr % 8 ∧ (vecPlace e).addr % 4 = 0 ∧
        vecDemo.clash ((vecPlace e).loc / 8 * 8) (vecPlace e).slice true false = none := by decide +kernel
    intro e he
    obtain ⟨h1, h2, h3, h4⟩ := h e he.1 he.2
    exact ⟨reach_of h1, ⟨rfl, h2⟩, h3, h4⟩
  · have h : ∀ x, x < 256 → vecDemo.chan (abBase 1024 + 0x100 + x) = abBase 1024 + 0x100 + x := by decide +kernel
    intro e f he hf j k hj hk hc
    have he := he.1
    have hf := hf.1
    change e < 64 at he
    change f < 64 at hf
    change j < 4 at hj
    change k < 4 at hk
    change vecDemo.chan (abBase 1024 + 0x100 + 4 * e + j) = vecDemo.chan (abBase 1024 + 0x100 + 4 * f + k) at hc
    rw [Nat.add_assoc, h _ (by omega), Nat.add_assoc (abBase 1024 + 0x100), h _ (by omega)] at hc
    change (vecT.gr 5).toInt + 4 * (e : Int) + j = (vecT.gr 5).toInt + 4 * (f : Int) + k
    omega

/-- A thread whose registers name a frame at 0x200, scales at 0x300 and codes at 0x400 of segment 1, from the origin on. -/
def quT : Thread := { vecT with g := vecT.g.set 10 0x200 |>.set 11 0x300 |>.set 12 0x400 }
def quDemo : State := demoWith (wordsFrom 0x10200 frameW) quT

theorem witness_QuantisedVectorAccess : ∃ f, Calm quDemo quT ∧ tyF 0 = true ∧
    Reaches quDemo quT 1 (quT.gr 10).toInt 32 32 needRD false (fun _ => false) true (quPlace 0x200) ∧
    Snapshot quDemo (quPlace 0x200) 32 (quDemo.readP (quPlace 0x200) 32) quDemo ∧ frameOf (wordsAt quDemo (quPlace 0x200) 4) = some f ∧ (quT.gr 0).extractLsb' 40 24 = 0 ∧ nfmt? 1 = some f.fmt ∧ Memory.wf quDemo.mem = true ∧
    (∀ e, e < 64 → (quT.pr 1).getLsbD (4 * e) = true → f.inside [e, 0, 0, 0] = true →
      (Reaches quDemo quT 1 ((quT.gr 11).toInt + 4 * (((0 + e) / 128 - 0 / 128 : Nat) : Int)) 4 4 needRD false (fun _ => false) true (quPlace 0x300) ∧
        VloadOk quDemo (quPlace 0x300) 4) ∧
      (Reaches quDemo quT 1 ((quT.gr 12).toInt + (f.place [e, 0, 0, 0]).1) 1 1 needRD false (fun _ => false) true (quPlace (0x400 + e)) ∧
        VloadOk quDemo (quPlace (0x400 + e)) 1) ∧
      Reaches quDemo quT 1 ((quT.gr 12).toInt + (f.place [e, 0, 0, 0]).1) 1 1 needWR true (fun _ => false) false (quPlace (0x400 + e)) ∧
      (quPlace (0x400 + e)).straight ∧ quDemo.clash ((quPlace (0x400 + e)).loc / 8 * 8) (some 0) true false = none) ∧
    (∃ e, e < 64 ∧ (quT.pr 1).getLsbD (4 * e) = true ∧ f.inside [e, 0, 0, 0] = true) := by
  refine ⟨(frameOf (wordsAt quDemo (quPlace 0x200) 4)).getD ⟨0, [], [], [], [], 0, .e4m3⟩, calm_of ?_, rfl, reach_of ?_, snap_of ?_, ?_, ?_, ?_, ?_, ?_,
    0, ?_⟩
  case refine_8 =>
    have h : ∀ e, e < 64 → (quT.pr 1).getLsbD (4 * e) = true →
        (let f := (frameOf (wordsAt quDemo (quPlace 0x200) 4)).getD ⟨0, [], [], [], [], 0, .e4m3⟩
         reachB quDemo quT 1 ((quT.gr 11).toInt + 4 * (((0 + e) / 128 - 0 / 128 : Nat) : Int)) 4 4 needRD false (fun _ => false) true (quPlace 0x300) = true ∧
         (quDemo.poisonTrap (quPlace 0x300) 4 = none ∧ quDemo.clashP (quPlace 0x300) 4 false false = none) ∧
         reachB quDemo quT 1 ((quT.gr 12).toInt + (f.place [e, 0, 0, 0]).1) 1 1 needRD false (fun _ => false) true (quPlace (0x400 + e)) = true ∧
         (quDemo.poisonTrap (quPlace (0x400 + e)) 1 = none ∧ quDemo.clashP (quPlace (0x400 + e)) 1 false false = none) ∧
         reachB quDemo quT 1 ((quT.gr 12).toInt + (f.place [e, 0, 0, 0]).1) 1 1 needWR true (fun _ => false) false (quPlace (0x400 + e)) = true ∧
         (quPlace (0x400 + e)).loc % 8 = (quPlace (0x400 + e)).addr % 8 ∧
         quDemo.clash ((quPlace (0x400 + e)).loc / 8 * 8) (some 0) true false = none) := by decide +kernel
    intro e he ho _
    obtain ⟨a, b, c, d, x, y, z⟩ := h e he ho
    exact ⟨⟨reach_of a, vload_of b rfl⟩, ⟨reach_of c, vload_of d rfl⟩, reach_of x, ⟨rfl, y⟩, z⟩
  all_goals decide +kernel


/-- `AtEngine` as a check. -/
def atEngineB (s : State) (t : Thread) : Bool :=
  issuingB s t && decide (t.windows = []) && decide (t.pend = []) && decide (t.loop = none) && decide (s.away t = false) &&
  s.matq.all fun m => m.thr != t.uid || !m.matrix

theorem atEngine_of {s : State} {t : Thread} (h : atEngineB s t = true) : AtEngine s t := by
  simp only [atEngineB, Bool.and_eq_true, decide_eq_true_eq, List.all_eq_true] at h
  obtain ⟨⟨⟨⟨⟨a, b⟩, c⟩, d⟩, e⟩, f⟩ := h
  refine ⟨issuing_of a, b, c, d, e, ?_⟩
  intro m hm hu
  simpa [hu] using f m hm

/-- `AbGood` as a check. -/
def abGoodB (s : State) (t : Thread) (store : Bool) (n : Nat) (l : List (Int × Nat)) : Bool :=
  !s.rowSplit l && l.all fun u => match s.abOne u.1 u.2 store with
    | .ok a => decide ((s.vcore t.vu).stageAt t.spt a.addr n = none)
    | .bad _ => false

theorem abGood_of {s : State} {t : Thread} {store : Bool} {n : Nat} {l : List (Int × Nat)} (h : abGoodB s t store n l = true) :
    AbGood s t store n l := by
  simp only [abGoodB, Bool.and_eq_true, Bool.not_eq_true', List.all_eq_true] at h
  refine ⟨h.1, fun u hu => ?_⟩
  have := h.2 u hu
  split at this
  · rename_i a ha
    exact ⟨a, ha, by simpa using this⟩
  · cases this

/-- The frame of the small machine at 0x200 of segment 1. -/
def quFrame : Frame := ⟨0, [0, 0, 0, 0], [127, 0, 0, 0], [1, 1, 1, 1], [0, 1, 2, 3], 0, .e4m3⟩

theorem quDemo_frame {s : State} {t : Thread} (h : reachB s t 1 (t.gr 10).toInt 32 32 needRD false (fun _ => false) true (quPlace 0x200) = true)
    (hp : snapB s (quPlace 0x200) 32 = true) (hf : frameOf (wordsAt s (quPlace 0x200) 4) = some quFrame) :
    FrameAt s t 1 10 (wordsAt s (quPlace 0x200) 4) quFrame s :=
  ⟨quPlace 0x200, _, reach_of h, snap_of hp, rfl, hf⟩

/-- The thread of the frame with read runnel v24, whose first element has come. -/
def quRunT : Thread := { quT with runnels := runT.runnels }
def quRunDemo : State := demoWith (wordsFrom 0x10200 frameW) quRunT

theorem qu_engine : AtEngine quDemo quT := atEngine_of (by decide +kernel)
theorem quRun_engine : AtEngine quRunDemo quRunT := atEngine_of (by decide +kernel)

/-- The same whose next element waits for its page. -/
def elemWait : PageWait := ⟨0, 0, 0, false, false, false, none⟩
def quWaitT : Thread := { quT with runnels := runT.runnels.map fun y => { y with ahead := [], wait := some elemWait } }
def quWaitDemo : State := demoWith (wordsFrom 0x10200 frameW) quWaitT

theorem witness_MatrixCommandsAreQueued : AtEngine quDemo quT ∧ quDemo.bReady (.imm 0) ∧
    FrameAt quDemo quT 1 10 (wordsAt quDemo (quPlace 0x200) 4) quFrame quDemo ∧ OriginOk (quT.gr 3) quFrame 1 ∧
    (1 : BitVec 3).toNat < (quDemo.task quT.task).nwb ∧
    (∀ e ∈ wldOffs quFrame (ruleOrg (quT.gr 3)) ((quT.gr 12).toInt + (quDemo.bValue (.imm 0)).toInt),
      ∃ a, quDemo.unit 1 e 1 1 (needRD + needEN) false = .ok a ∧ (a.space = 1 → (quDemo.vcore quT.vu).stageAt quT.spt a.addr 1 = none)) ∧
    ((quT.gr 12).toInt + (quDemo.bValue (.imm 0)).toInt) % 128 = 0 ∧
    (∀ l ∈ mmaRows quFrame (ruleOrg (quT.gr 3)) ((quT.gr 12).toInt + (quDemo.bValue (.imm 0)).toInt) ((0 : BitVec 5).toNat + 1), AbGood quDemo quT false 1 l) ∧
    AtEngine quRunDemo quRunT ∧ FrameAt quRunDemo quRunT 1 10 (wordsAt quRunDemo (quPlace 0x200) 4) quFrame quRunDemo ∧
    (∃ y, quRunT.runnel (24 : R5).toNat = some y ∧ y.write = false ∧ y.taken < y.len ∧ y.fresh = false ∧ y.ahead = ⟨5, none, 0⟩ :: [] ∧
      quRunDemo.elemAt quRunDemo.me y y.taken = .ok ⟨0, 0, 0x400, 1⟩ ∧
      (match quRunDemo.elemPlaces quRunDemo.me y ⟨0, 0, 0x400, 1⟩ with | .inr ps => decide (ps = elemPs) | .inl _ => false) = true ∧
      quRunDemo.elemFresh elemPs 0 = true) ∧
    (AtEngine quWaitDemo quWaitT ∧ FrameAt quWaitDemo quWaitT 1 10 (wordsAt quWaitDemo (quPlace 0x200) 4) quFrame quWaitDemo ∧
      ∃ y, quWaitT.runnel (24 : R5).toNat = some y ∧ y.write = false ∧ y.taken < y.len ∧ y.fresh = false ∧ y.ahead = [] ∧
        y.wait = some elemWait ∧ elemWait.failed = false ∧ quWaitDemo.elemAt quWaitDemo.me y y.taken = .ok ⟨0, 0, 0x400, 1⟩) ∧
    (∀ r ≤ (31 : BitVec 5).toNat, AbGood quDemo quT false 4 [((quT.gr 11).toInt + 4 * r, 4)]) ∧
    (∀ r ≤ (0 : BitVec 7).toNat, AbGood quDemo quT true 8 ((List.range (256 / 8)).map fun q =>
      ((quT.gr 12).toInt + (quDemo.bValue (.imm 0)).toInt + (256 * r + 8 * q : Nat), 8))) ∧
    (∀ r ≤ (0 : BitVec 7).toNat, AbGood quDemo quT true 4 [((quT.gr 11).toInt + 4 * r, 4)]) ∧
    (∀ l ∈ mmaRows quFrame (ruleOrg (quT.gr 3)) ((quT.gr 12).toInt + (quDemo.bValue (.imm 0)).toInt) ((0 : BitVec 7).toNat + 1), AbGood quDemo quT true 1 l) ∧
    ¬(quFrame.fmt = .int4 ∧ (ruleOrg (quT.gr 3)).1 % 2 = 1) ∧
    quDemo.unit 1 (quT.gr 10).toInt 32 32 needRD false = .ok ⟨0, 0, 0x200, 1⟩ ∧
    (match quDemo.trans ⟨0, 0, 0x200, 1⟩ false true 0 with | .ok p => p == quPlace 0x200 | _ => false) = true ∧
    Snapshot quDemo (quPlace 0x200) 32 (quDemo.readP (quPlace 0x200) 32) quDemo ∧
    AbGood quDemo quT false 256 [((quT.gr 12).toInt + (quDemo.bValue (.imm 0)).toInt, 256)] ∧
    (1 : BitVec 2).toNat % 2 < (quDemo.task quT.task).nacc ∧ (∀ m ∈ quDemo.matq, m.thr ≠ quT.uid) := by
  refine ⟨qu_engine, trivial, quDemo_frame ?_ ?_ ?_, ⟨?_, ?_⟩, ?_, ?_, ?_, ?_, quRun_engine, quDemo_frame ?_ ?_ ?_, ⟨_, rfl, ?_, ?_, ?_, ?_, ?_, ?_, ?_⟩,
    ⟨atEngine_of ?_, quDemo_frame ?_ ?_ ?_, _, rfl, ?_, ?_, ?_, ?_, ?_, ?_, ?_⟩, ?acc, ?mst, ?sc, ?row, ?_, ?_, ?_, snap_of ?_, ?kv, ?_, ?_⟩
  case refine_7 =>
    have h : ∀ e ∈ wldOffs quFrame (ruleOrg (quT.gr 3)) ((quT.gr 12).toInt + (quDemo.bValue (.imm 0)).toInt),
      (match quDemo.unit 1 e 1 1 (needRD + needEN) false with | .ok a => a.space == 0 | _ => false) = true := by decide +kernel
    intro e he
    have := h e he
    split at this
    · rename_i a ha
      exact ⟨a, ha, fun h1 => by rw [h1] at this; cases this⟩
    · cases this
  case refine_9 =>
    have h : ∀ l ∈ mmaRows quFrame (ruleOrg (quT.gr 3)) ((quT.gr 12).toInt + (quDemo.bValue (.imm 0)).toInt) ((0 : BitVec 5).toNat + 1),
      abGoodB quDemo quT false 1 l = true := by decide +kernel
    exact fun l hl => abGood_of (h l hl)
  case acc =>
    have h : ∀ r ≤ (31 : BitVec 5).toNat, abGoodB quDemo quT false 4 [((quT.gr 11).toInt + 4 * r, 4)] = true := by decide +kernel
    exact fun l hl => abGood_of (h l hl)
  case mst =>
    have h : ∀ r ≤ (0 : BitVec 7).toNat, abGoodB quDemo quT true 8 ((List.range (256 / 8)).map fun q =>
      ((quT.gr 12).toInt + (quDemo.bValue (.imm 0)).toInt + (256 * r + 8 * q : Nat), 8)) = true := by decide +kernel
    exact fun l hl => abGood_of (h l hl)
  case sc =>
    have h : ∀ r ≤ (0 : BitVec 7).toNat, abGoodB quDemo quT true 4 [((quT.gr 11).toInt + 4 * r, 4)] = true := by decide +kernel
    exact fun l hl => abGood_of (h l hl)
  case row =>
    have h : ∀ l ∈ mmaRows quFrame (ruleOrg (quT.gr 3)) ((quT.gr 12).toInt + (quDemo.bValue (.imm 0)).toInt) ((0 : BitVec 7).toNat + 1),
      abGoodB quDemo quT true 1 l = true := by decide +kernel
    exact fun l hl => abGood_of (h l hl)
  case kv => exact abGood_of (by decide +kernel)
  all_goals decide +kernel

/-- The edges of 04 R119: a NaN code in the row, and one whose products sum exactly. -/
theorem witness_BlockProductsAreExact : (List.replicate 128 (some (3 : Int))).length = 128 ∧
    (List.replicate 128 (List.replicate 128 (some (-5 : Int)))).length = 128 ∧
    (∀ r ∈ List.replicate 128 (List.replicate 128 (some (-5 : Int))), r.length = 128) ∧ 127 < 128 ∧
    (∃ k, k < 128 ∧ ((List.replicate 127 (some (1 : Int)) ++ [none]).getD k none = none)) := by
  refine ⟨by simp, by simp, ?_, by decide, 127, by decide, by decide +kernel⟩
  intro r hr
  rw [List.mem_replicate] at hr
  rw [hr.2]
  simp

/-- Codes at the two ends of the pairs of formats, without a NaN: 0x7E under E4M3 and dither 127, 0x81 under INT8 and dither 0. -/
theorem witness_BlockProductsAreExact_codes : ∀ x ∈ [(NFmt.e4m3, 0x7E, 127), (.int8, 0x81, 0)], ∃ y, stepVal x.1 x.2.1 x.2.2 = some y ∧
    (∀ z ∈ List.replicate 128 (some y), z = some 0 ∨ ∃ code k, code < 256 ∧ k < 128 ∧ z = stepVal x.1 code k) ∧ x.1 ≠ .int4 ∧
    ¬∃ k, k < 128 ∧ (List.replicate 128 (some y)).getD k none = none := by
  intro x hx
  simp only [List.mem_cons, List.not_mem_nil, or_false] at hx
  have hn : ∀ y : Int, ¬∃ k, k < 128 ∧ (List.replicate 128 (some y)).getD k none = none := by
    rintro y ⟨k, hk, h⟩
    have e : (List.replicate 128 (some y))[k]? = some (some y) := List.getElem?_replicate_of_lt hk
    rw [List.getD_eq_getElem?_getD, e] at h
    cases h
  rcases hx with rfl | rfl
  · refine ⟨_, rfl, fun z hz => .inr ⟨0x7E, 127, by decide, by decide, (List.eq_of_mem_replicate hz)⟩, by decide, hn _⟩
  · refine ⟨_, rfl, fun z hz => .inr ⟨0x81, 0, by decide, by decide, (List.eq_of_mem_replicate hz)⟩, by decide, hn _⟩



/-! ### Contexts -/

/-- A live context of two layers with handle 3: silt blocks of one slot, E4M3 codes, D = 64; slots 0 and 1 of KV block 0 are occupied. -/
def ctxC : Ctx := { h := 3, fn := 0, nlm1 := 1, cstride := 2, siltlg := 0, shift := false, det := false, kvfmt := 1, kvhm1 := 0, hdlg := 6,
                    maxbm1 := 0, seed := 0, store := 2 ^ 20, stsz := 65536, entries := [0x500, 0x600], tau := [0, 0], gain := [0, 0], hpool := 0x8000,
                    hw64 := 1, tasktag := 5, die := 0, a := 2, blocks := [{ blk := 0 }], slots := [⟨0, 5, 0, false, none, false, 0, [(0, false), (1, false)]⟩,
                      ⟨1, 6, 256, false, none, false, 0, [(0, false), (1, false)]⟩] }

/-- The tables of its layers at 0x4000 and 0x8000: entry 0 names the record 0x200 behind, with both slots stored in area 0 and slot 0 in
area 1 (06 R160, R163). -/
def tableW : List (Nat × Nat) :=
  [(0x14000, 2 ^ 63 + 2 ^ 60 + 1), (0x14200, 3 * 2 ^ 40), (0x14208, 3 + 2 ^ 16),
   (0x18000, 2 ^ 63 + 2 ^ 60 + 1), (0x18200, 3 * 2 ^ 40 + 2 ^ 32), (0x18208, 3 + 2 ^ 16)]

/-- Table descriptors of the two layers (17 R390). -/
def tdW (layer : Nat) : List Nat := [3 * 2 ^ 52 + 0x4000 * (layer + 1), layer * 2 ^ 52 + 0x4000]

/-- A thread with the table entry of layer 0 in element 0 of v1, active under p1. -/
def ctxT : Thread := { demoT with
  v := (Vector.replicate 32 0).set 1 (BitVec.ofNat 2048 (2 ^ 63 + 2 ^ 60 + 1)), p := (Vector.replicate 8 0).set 1 1 }

def ctxDemo (ws : List (Nat × Nat)) (c : Ctx := ctxC) (t : Thread := ctxT) : State :=
  let s := demoWith (tableW ++ ws) t
  { s with ctxs := [c] }

def gathDemo : State := ctxDemo (wordsFrom 0x10100 (tdW 0))

/-- ATTN over one query row in AB, which records its query in the table whose descriptor stands at 0x140. -/
def attnW : List Nat := [0, 2 ^ 61, 0x600 * 2 ^ 36 + 0x800 * 2 ^ 18 + 0x400, 0, 0x680, 0x140, 0, 0]
def attnT : Thread := { ctxT with caps := ctxT.caps.set 0 (some (newSet ctxC 0)) }
def attnDemo : State := ctxDemo (wordsFrom 0x10100 attnW ++ wordsFrom 0x10140 (tdW 0)) ctxC attnT
def rtdPlace : Place := { space := 0, addr := 0x140, loc := 0x10140, slice := some 0 }

/-- The places that the descriptor names, with the state after they were resolved. -/
def attnAt : List (Nat × SegA) × List (Nat × SegA) :=
  match attnPlaces (wordsAt attnDemo memPlace 8) 64 attnDemo with
  | .ok x _ => x
  | .stop _ => ([], [])

theorem witness_CapturesAndAttention : Calm gathDemo ctxT ∧ gathDemo.away ctxT = false ∧ (∀ m ∈ gathDemo.matq, m.thr ≠ ctxT.uid) ∧
    gathDemo.bReady (.imm 0) ∧ gathDemo.afterB (.imm 0) = gathDemo ∧
    Reaches gathDemo ctxT 1 ((ctxT.gr 5).toInt + (gathDemo.bValue (.imm 0)).toInt) 16 16 needRD false (fun _ => false) true memPlace ∧
    Snapshot gathDemo memPlace 16 (gathDemo.readP memPlace 16) gathDemo ∧
    (let ws := wordsAt gathDemo memPlace 2
     (ws.getD 1 0).extractLsb' 60 4 = 0 ∧ (ws.getD 0 0).extractLsb' 0 9 = 0 ∧
     gathDemo.ctxFor (gathDemo.fnOf ctxT) ((ws.getD 0 0).extractLsb' 52 12).toNat = some ctxC) ∧
    (match gathDemo.gather gathDemo.view ctxC 0 0x4000 0x4000 [(0, w64 (2 ^ 63 + 2 ^ 60 + 1))] with
     | .ok (.inr l) => l.length == 1 | _ => false) = true ∧ gathDemo.vcoreBlocks ctxT.vu + 1 ≤ 8192 ∧
    gathDemo.engineSets (ctxT.core / 16) < 64 ∧ ctxT.caps[1] = none ∧
    calmB { gathDemo with ctxs := [] } ctxT = true ∧ ({ gathDemo with ctxs := [] } : State).ctxFor 0 3 = none ∧
    Calm attnDemo attnT ∧ attnDemo.away attnT = false ∧
    Reaches attnDemo attnT 1 ((attnT.gr 5).toInt + (attnDemo.bValue (.imm 0)).toInt) 64 64 needRD false (fun _ => false) true memPlace ∧
    Snapshot attnDemo memPlace 64 (attnDemo.readP memPlace 64) attnDemo ∧
    (let ws := wordsAt attnDemo memPlace 8
     atBad ws = none ∧ atMode ws = 0 ∧ atRec ws = true ∧
     Reaches attnDemo attnT 1 (atRtd ws) 16 16 needRD false (fun _ => false) true rtdPlace ∧
     Snapshot attnDemo rtdPlace 16 (attnDemo.readP rtdPlace 16) attnDemo ∧
     ((wordsAt attnDemo rtdPlace 2).getD 1 0).extractLsb' 60 4 = 0 ∧ ((wordsAt attnDemo rtdPlace 2).getD 0 0).extractLsb' 0 9 = 0 ∧
     attnT.caps[0].map (fun c => 2 ^ c.hdlg) = some 64) ∧
    (match attnPlaces (wordsAt attnDemo memPlace 8) 64 attnDemo with
     | .ok x s => decide (x = attnAt) && decide (s = attnDemo) | .stop _ => false) = true := by
  refine ⟨calm_of ?_, ?_, ?_, trivial, rfl, reach_of ?_, snap_of ?_, ⟨?_, ?_, ?_⟩, ?_, ?_, ?_, ?_, ?_, ?_, calm_of ?_, ?_, reach_of ?_, snap_of ?_,
    ⟨?_, ?_, ?_, reach_of ?_, snap_of ?_, ?_, ?_, ?_⟩, ?_⟩ <;> decide +kernel

/-! ### Edits -/

/-- Two edits wait for the arbiter: of slot 0, and of slot 4, which is not occupied. -/
def editC (slot : Nat) : Ctx := { ctxC with edits := [⟨7, 1, 9, .del slot, []⟩] }
def editT : Thread := { ctxT with windows := [{ wid := 1, rem := 3, pc := 0x40, res := .wait .edit }] }
def editDemo (slot : Nat) : State := { (ctxDemo [] (editC slot) editT) with op := { ctx := 3 } }

theorem witness_EditsAndArbitration : Calm (ctxDemo []) ctxT ∧ ctxT.touched = 0 ∧ (ctxDemo []).bReady (.imm 4) ∧
    (∃ ok e, ruleEdit (.edins ⟨1, .imm 4, 7, 9, 5⟩) = some (⟨1, .imm 4, 7, 9, 5⟩, ok, e) ∧ ok ((ctxDemo []).bValue (.imm 4)) = true) ∧
    (ctxT.gr 7).toNat < 4096 ∧ (ctxDemo []).ctx? (ctxT.gr 7).toNat = some ctxC ∧ ctxC.fn = (ctxDemo []).fnOf ctxT ∧
    (ctxT.gr 5).toNat < 4096 ∧ (ctxDemo []).ctx? (ctxT.gr 5).toNat = none ∧
    (editDemo 0).ctx? (editDemo 0).op.ctx = some (editC 0) ∧ (editC 0).editReady = true ∧ (editC 0).releasing = none ∧
    (editC 0).a < 2 ^ 32 - 1 ∧ (editC 0).occ 0 ≠ none ∧ (editDemo 4).ctx? (editDemo 4).op.ctx = some (editC 4) ∧
    (editC 4).editReady = true ∧ (editC 4).occ 4 = none := by
  refine ⟨calm_of ?_, ?_, trivial, ⟨_, _, rfl, ?_⟩, ?_, ?_, ?_, ?_, ?_, ?_, ?_, ?_, ?_, ?_, ?_, ?_, ?_⟩ <;> decide +kernel

theorem witness_SettleAndSilt : Calm (ctxDemo []) ctxT ∧ (ctxDemo []).bReady (.imm 2) ∧
    ((ctxDemo []).bValue (.imm 2)).extractLsb' 32 32 = 0 ∧ (ctxDemo []).ctx? (ctxT.gr 5).toNat = none ∧
    (ctxDemo []).ctx? (ctxT.gr 7).toNat = some ctxC ∧ ctxC.fn = (ctxDemo []).fnOf ctxT ∧ ctxC.releasing = none ∧
    0 < ((ctxDemo []).bValue (.imm 2)).toNat ∧ ((ctxDemo []).bValue (.imm 2)).toNat ≤ ctxC.a ∧
    (∀ e ∈ ctxC.silt, e.state ≠ 0 → ((ctxDemo []).bValue (.imm 2)).toNat ≤ e.stamp) ∧ ctxC.a < ((ctxDemo []).bValue (.imm 3)).toNat ∧
    ((ctxDemo []).bValue (.imm 2)).extractLsb' 28 36 = 0 ∧ ((((ctxDemo []).bValue (.imm 2)).extractLsb' 20 8).toNat ≤ ctxC.nlm1) ∧
    (((ctxDemo []).bValue (.imm 2)).extractLsb' 0 20).toNat < ctxC.nsb := by
  refine ⟨calm_of ?_, trivial, ?_, ?_, ?_, ?_, ?_, ?_, ?_, ?_, ?_, ?_, ?_, ?_⟩ <;> decide +kernel

/-! ### Reads and registration -/

/-- A read of the keys of head 0 of slot 0 at layer 0 to 0x600, at edit 1. -/
def rbW : List Nat := [3 * 2 ^ 52 + 0x600, 0x140, 0, 2 ^ 32]
def readDemo : State := ctxDemo (wordsFrom 0x10100 rbW ++ wordsFrom 0x10140 (tdW 0))
def readAll : List Word := wordsAt readDemo memPlace 4 ++ wordsAt readDemo rtdPlace 2

/-- What it finds. -/
def readRec : KRec := match readDemo.ctxrdFind readAll with | .ok (.inr (_, r, _)) => r | _ => ⟨0, 0, 0, 0, .e4m3, []⟩
def readDest : List SegA := [⟨0, 0, 0x600, 1⟩, ⟨0, 0, 0x640, 1⟩]
def readPs : List Place := [quPlace 0x600, quPlace 0x640]

/-- A registration block at 0x100, and a model of one layer at 0x140 with its layer entry at 0x5000 and its store at 0x7000. -/
def regW : List Nat := [0x140, 0, 2 ^ 32, 0]
def modelW : List Nat := [6 * 2 ^ 32 + 2 ^ 20 + 2 ^ 8, 0, 0, 0x5000, 0, 2, 0, 0]
def regDemo : State := demoWith (wordsFrom 0x10100 regW ++ wordsFrom 0x10140 modelW)

/-- `WordsAt` as a check. -/
theorem words_of {s : State} {t : Thread} {seg : BitVec 3} {e : Int} {n align : Nat} {p : Place}
    (h : reachB s t seg e (8 * n) align needRD false (fun _ => false) true p = true) (hp : snapB s p (8 * n) = true) :
    WordsAt s t seg e n align (wordsAt s p n) s := ⟨p, _, reach_of h, snap_of hp, rfl⟩

/-- A read that succeeded, with a value that passes a check. -/
def vxB {α : Type} (x : Vx α) (f : α → Bool) : Bool := match x with | .ok a => f a | _ => false

theorem vx_of {α : Type} {x : Vx α} {f : α → Bool} (h : vxB x f = true) : ∃ a, x = .ok a ∧ f a = true := by
  cases x <;> simp_all [vxB]

theorem witness_ContextAccess : Calm readDemo ctxT ∧ readDemo.bReady (.imm 0) ∧ readDemo.afterB (.imm 0) = readDemo ∧
    WordsAt readDemo ctxT 1 ((ctxT.gr 5).toInt + (readDemo.bValue (.imm 0)).toInt) 4 32 (wordsAt readDemo memPlace 4) readDemo ∧
    WordsAt readDemo ctxT 1 (((wordsAt readDemo memPlace 4).getD 1 0).extractLsb' 0 52).toNat 2 16 (wordsAt readDemo rtdPlace 2) readDemo ∧
    tdBad (wordsAt readDemo rtdPlace 2) = false ∧
    vxB (readDemo.ctxrdFind readAll) (fun x => match x with
      | .inr (c, r, n) => decide (c = ctxC) && decide (r = readRec) && n == 68 | _ => false) = true ∧
    (match destR 1 (rbDest (wordsAt readDemo memPlace 4)) 68 readDemo with
     | .ok d s => decide (d = readDest) && decide (s = readDemo) | _ => false) = true ∧
    (rbN (wordsAt readDemo memPlace 4) ≤ ctxC.effStamp 0 0 ∧ (ctxC.entry 0 0).first ≤ rbN (wordsAt readDemo memPlace 4)) ∧
    vxB (readDemo.versionBytes readDemo.view ctxC readAll readRec (readRec.cur 0 0)) (fun l => l.length == 68) = true ∧
    vxB (vxAll (fun a : SegA => readDemo.vaAt readDemo.view a.addr true) readDest) (fun l => decide (l = readPs)) = true ∧
    (∀ p ∈ readPs, p.straight ∧ p.addr % 64 = 0) ∧
    (∀ j k u v, j < 2 → k < 2 → u < 64 → v < 64 →
      readDemo.chan ((readPs.map (·.loc)).getD j 0 + u) = readDemo.chan ((readPs.map (·.loc)).getD k 0 + v) → j = k ∧ u = v) ∧
    Memory.wf readDemo.mem = true ∧
    Calm regDemo demoT ∧ WordsAt regDemo demoT 1 ((demoT.gr 5).toInt + (regDemo.bValue (.imm 0)).toInt) 4 32 (wordsAt regDemo memPlace 4) regDemo ∧
    regBad (wordsAt regDemo memPlace 4) = false ∧
    WordsAt regDemo demoT 1 (((wordsAt regDemo memPlace 4).getD 0 0).extractLsb' 0 52).toNat 8 16 (wordsAt regDemo rtdPlace 8) regDemo ∧
    modelBad (wordsAt regDemo rtdPlace 8) = false ∧
    (let m := wordsAt regDemo rtdPlace 8
     vxB (regDemo.vaWords regDemo.view (m.getD 3 0).toNat 2) (fun l => !layerBad (l.getD 0 0) (l.getD 1 0)) = true ∧
     vxB (regDemo.vaAt regDemo.view (m.getD 4 0).toNat false) (fun _ => true) = true) ∧ regDemo.freeHandle = some 1 ∧
    (ctxDemo []).ctx? (ctxT.gr 7).toNat = some ctxC ∧ ctxC.fn = (ctxDemo []).fnOf ctxT ∧ ctxC.releasing = none := by
  refine ⟨calm_of ?_, trivial, rfl, words_of ?_ ?_, words_of ?_ ?_, ?_, ?_, ?_, ⟨?_, ?_⟩, ?_, ?_, ?str, ?inj, ?_, calm_of ?_, words_of ?_ ?_, ?_,
    words_of ?_ ?_, ?_, ⟨?_, ?_⟩, ?_, ?_, ?_, ?_⟩
  case str =>
    intro p hp
    have : p = quPlace 0x600 ∨ p = quPlace 0x640 := by simpa [readPs] using hp
    rcases this with rfl | rfl <;> exact ⟨⟨rfl, rfl⟩, rfl⟩
  case inj =>
    have h : ∀ x, x < 128 → readDemo.chan (0x10600 + x) = 0x10600 + x := by decide +kernel
    have hl : ∀ j, j < 2 → (readPs.map (·.loc)).getD j 0 = 0x10600 + 64 * j := by decide
    intro j k u v hj hk hu hv hc
    rw [hl j hj, hl k hk, Nat.add_assoc, Nat.add_assoc, h _ (by omega), h _ (by omega)] at hc
    omega
  all_goals decide +kernel


/-! ### Work items -/

/-- Entry (layer, 0) PENDING for thread 7, not forced, of edit 2, with slot 0 in its list and the staging area prepared. -/
def itemD : Disp := { thr := some 7, stamp := 2, state := 1, force := false, slots := [(0, 0)], cleared := true }
def itemE (layer : Nat) : Silt := { layer := layer, blk := 0, state := 3, stamp := 1, disp := some itemD }
def itemC (layer : Nat) : Ctx := { ctxC with silt := [itemE layer] }
def itemOf (layer : Nat) : Item := { ctx := 3, layer := layer, block := 0, stamp := 2, probe := some 0 }
def itemT (layer : Nat) : Thread := { ctxT with item := some (itemOf layer) }
def itemDemo (layer : Nat) : State :=
  ctxDemo (wordsFrom 0x10100 (if layer = 0 then tdW 0 else tdW 1 ++ tdW 0)) (itemC layer) (itemT layer)

/-- `ItemAt` as a check. -/
theorem item_at (layer : Nat) (h : layer < 2) : ItemAt (itemDemo layer) (itemT layer) (itemOf layer) (itemC layer) (itemE layer) itemD := by
  obtain rfl | rfl : layer = 0 ∨ layer = 1 := by omega
  all_goals
    refine ⟨rfl, rfl, ?_, ?_, ?_, rfl, rfl, rfl⟩ <;> decide +kernel

/-- The record that the tables of a layer give. -/
def itemRec (layer : Nat) : Word × KRec :=
  match (itemDemo layer).tableEntry (itemDemo layer).view (itemC layer) (wordsAt (itemDemo layer) memPlace 4) 0 layer (some 0) with
  | .ok (.inr x) => x
  | _ => (0, ⟨0, 0, 0, 0, .e4m3, []⟩)

theorem witness_CommitsAndProbe : Calm (itemDemo 0) (itemT 0) ∧ (itemT 0).touched = 0 ∧ (itemDemo 0).bReady (.imm 0) ∧
    ((itemT 0).gr 1).toNat < 2 ^ 16 ∧ ItemAt (itemDemo 0) (itemT 0) (itemOf 0) (itemC 0) (itemE 0) itemD ∧
    WordsAt (itemDemo 0) (itemT 0) 1 (((itemT 0).gr 5).toInt + ((itemDemo 0).bValue (.imm 0)).toInt) 2 16 (wordsAt (itemDemo 0) memPlace 2) (itemDemo 0) ∧
    tdBad (wordsAt (itemDemo 0) memPlace 2) = false ∧
    (itemC 0).releasing = none ∧ (∀ m ∈ (itemDemo 0).matq, m.thr ≠ (itemT 0).uid) ∧
    (itemDemo 0).drainWaits (itemT 0).vu .ab (itemDemo 0).order = false ∧ (itemDemo 0).drainWaits (itemT 0).vu .mem (itemDemo 0).order = false ∧
    vxB ((itemDemo 0).tableEntry (itemDemo 0).view (itemC 0) (wordsAt (itemDemo 0) memPlace 2) 0 0 (some 0)) (fun x => match x with
      | .inr x => decide (x = itemRec 0) | _ => false) = true ∧
    (val32 ((itemC 0).tau.getD 0 0).toNat).lt (val32 (0 : BitVec 32).toNat) = false ∧ (itemOf 0).probe = some 0 ∧
    (itemD.cleared = true ∧ (itemRec 0).2.stored (1 - (itemRec 0).2.cur 0 0) 0 = true) ∧ (itemRec 0).2.stored ((itemRec 0).2.cur 0 0) 0 = true ∧
    vxB ((itemDemo 0).commitDiff (itemDemo 0).view (itemC 0) (itemRec 0).2 0 0 ((itemRec 0).2.cur 0 0) [0]) (fun _ => true) = true ∧
    vxB ((itemDemo 0).chunks (itemDemo 0).view (itemRec 0).2.va 192 true) (fun _ => true) = true ∧
    (itemC 0).probeInf (itemOf 0) (itemE 0) itemD = false ∧
    Calm (itemDemo 1) (itemT 1) ∧ ItemAt (itemDemo 1) (itemT 1) (itemOf 1) (itemC 1) (itemE 1) itemD ∧
    (itemC 1).probeInf (itemOf 1) (itemE 1) itemD = false ∧
    WordsAt (itemDemo 1) (itemT 1) 1 (((itemT 1).gr 5).toInt + ((itemDemo 1).bValue (.imm 0)).toInt) 4 16 (wordsAt (itemDemo 1) memPlace 4) (itemDemo 1) ∧
    tdBad ((wordsAt (itemDemo 1) memPlace 4).take 2) = false ∧ tdBad ((wordsAt (itemDemo 1) memPlace 4).drop 2) = false ∧
    vxB ((itemDemo 1).tableEntry (itemDemo 1).view (itemC 1) (wordsAt (itemDemo 1) memPlace 4) 0 1 (some 0)) (fun x => match x with
      | .inr x => decide (x = itemRec 1) | _ => false) = true ∧
    vxB ((itemDemo 1).upstreamRecs (itemDemo 1).view (itemC 1) ((wordsAt (itemDemo 1) memPlace 4).drop 2) 0 0 1 0) (fun x => match x with
      | .inr rs => vxB ((itemDemo 1).probeSum (itemDemo 1).view (itemC 1) (itemOf 1) (itemE 1) (itemRec 1).2 rs) (fun _ => true)
      | _ => false) = true := by
  refine ⟨calm_of ?_, ?_, trivial, ?_, item_at 0 (by omega), words_of ?_ ?_, ?_, ?_, ?_, ?_, ?_, ?_, ?_, ?_, ⟨?_, ?_⟩, ?_, ?_, ?_, ?_, calm_of ?_,
    item_at 1 (by omega), ?_, words_of ?_ ?_, ?_, ?_, ?_, ?_⟩ <;> decide +kernel

/-! ### Forecast loops -/

/-- A forecast descriptor with carry g6, two lanes, and the guess routine at 0x60 (07 R188). -/
def fcW : List Nat := [0x60 * 2 ^ 32 + 6 * 2 ^ 12 + 2 ^ 9 + 2 * 2 ^ 6, 0]
def fcDemo : State := demoWith (wordsFrom 0x10100 fcW)

/-- Lane 0 of a loop with carry g6, and lane 1, which has guessed 3 and is in its body. -/
def loopStart : LoopStart := { g := demoT.g, v := demoT.v, p := demoT.p, sys := demoT.sysKey, sg := demoT.sg }
def loopL : Loop := { carries := [6], guessPc := 0x60, bodyPc := 0x4C, appn := 0, start := loopStart, iter := 0, lanes := [8] }
def loopT : Thread := { demoT with loop := some loopL }
def laneOf (guess : Word) : Lane := { loopOf := 7, index := 1, iter := 1, phase := .body, guess := some [guess] }
def laneT (guess : Word) : Thread := { demoT with uid := 8, slot := 1, pslot := 1, lane := some (laneOf guess) }
def loopDemo (guess : Word) : State := { demoOf loopT with nextUid := 9, threads := [loopT, laneT guess] }

/-- Lane 1 in its guess routine, as the current thread. -/
def guessL : Lane := { loopOf := 7, index := 1, iter := 1, phase := .guess }
def guessT : Thread := { demoT with uid := 8, slot := 1, pslot := 1, lane := some guessL }
def guessDemo : State := { demoOf loopT with nextUid := 9, cur := some 8, threads := [loopT, guessT] }

theorem witness_ForecastLoops : Calm fcDemo demoT ∧ fcDemo.away demoT = false ∧ fcDemo.bReady (.imm 0) ∧ fcDemo.afterB (.imm 0) = fcDemo ∧
    WordsAt fcDemo demoT 1 ((demoT.gr 5).toInt + (fcDemo.bValue (.imm 0)).toInt) 2 16 (wordsAt fcDemo memPlace 2) fcDemo ∧
    FcGood ((wordsAt fcDemo memPlace 2).getD 0 0) ((wordsAt fcDemo memPlace 2).getD 1 0) ∧
    Quiet guessDemo guessT ∧ guessT.lane = some guessL ∧ guessL.phase = .guess ∧ guessL.accepted = false ∧
    guessDemo.thread? guessL.loopOf = some loopT ∧ loopT.loop = some loopL ∧
    Quiet (loopDemo 3) loopT ∧ loopT.lane = none ∧ loopL.displaced = none ∧ loopL.app = none ∧ loopT.gr 5 ≠ 0 ∧ loopT.gr 1 = 0 ∧
    (∀ x ∈ (loopDemo 3).threads, ∀ y, x.lane = some y → y.loopOf = loopT.uid → y.index = 1 → y.guess ≠ some (loopL.carries.map loopT.gr)) ∧
    Quiet (loopDemo 0xA5F0) loopT ∧ (loopDemo 0xA5F0).laneAt loopT.uid 1 = some (laneT 0xA5F0) ∧
    (loopDemo 0xA5F0).thread? 8 = some (laneT 0xA5F0) ∧ laneFits (laneT 0xA5F0) (loopL.carries.map loopT.gr) = true ∧
    Calm demo demoT ∧ demoT.inh = false := by
  refine ⟨calm_of ?_, ?_, trivial, rfl, words_of ?_ ?_, ?_, ⟨?_, ?_, ?_, ?_, ?_, ?_, ?_, ?_⟩, rfl, rfl, rfl, ?_, rfl,
    ⟨?_, ?_, ?_, ?_, ?_, ?_, ?_, ?_⟩, rfl, rfl, rfl, ?_, ?_, ?_, ⟨?_, ?_, ?_, ?_, ?_, ?_, ?_, ?_⟩, ?_, ?_, ?_, demo_calm, rfl⟩
  case refine_5 => unfold FcGood; decide +kernel
  case refine_25 =>
    intro x hx y hy _ _
    have : x = loopT ∨ x = laneT 3 := by simpa [loopDemo] using hx
    rcases this with rfl | rfl
    · cases hy
    · obtain rfl : laneOf 3 = y := Option.some.inj hy
      decide +kernel
  all_goals decide +kernel


/-! ### Wakes and arrivals -/

/-- The small machine, a step of which acts on thread 7. -/
def evDemo (t : Thread) (op : EvOp := { thr := 7 }) : State := { demoOf t with op := op }
def parkT (p : Park) : Thread := { demoT with park := some p }

/-- Vcore 0 once past the barrier of its task. -/
def barDemo : State := { evDemo (parkT (.bar 2 0 0)) with tasks := [{ demoK with bars := [{ level := 2, inst := 0, arrived := [], gen := 1 }] }] }
def stfDemo : State := (evDemo (parkT (.stf memPlace 9 4))).setFull 0x10100 false
def verdictT : Thread := { demoT with verdicts := [⟨⟨1, 0x40, ⟨3, 0, none⟩⟩, false⟩] }
def fenceT : Thread := { demoT with park := some (.fence 8), touched := 8 }

/-- A SETTLE and an instruction at a page that will not come, in windows. -/
def settleX : LongAlu := ⟨1, 9, 7, .imm 2⟩
def waitW (w : Why) (i : Instr) : Window := { wid := 1, rem := 1, pc := 0x3C, res := .wait (.defer w i demoT.snap) }
def settleT : Thread := { ctxT with windows := [waitW (.settle 3 2) (.settle settleX)] }
def settleDemo : State := { ctxDemo [] ctxC settleT with op := { thr := 7, wid := 1 } }
def lostPage : PageWait := ⟨0, 0, 5, false, true, true, none⟩
def lostT : Thread := { demoT with windows := [waitW (.page lostPage) (.settle settleX)] }
def lostDemo : State := evDemo lostT { thr := 7, wid := 1 }

/-- A wait for a page that has come, and a thread that reads the status register of a command that is done. -/
def herePage : PageWait := ⟨0, 0, 5, false, false, true, none⟩
def doneC : Cmd := { id := 3, thr := 7, task := 1, vu := 1024, core := 0, kind := .record, st := .finished, segs := demoT.sg }
def statusT : Thread := { parkT (.status 3) with pend := [(9, 3)] }
def statusDemo : State := { evDemo statusT with cmds := [doneC] }

/-- A read runnel with room, and a write runnel with one element pushed. -/
def fillY : Runnel := { v := 24, write := false, ab := false, seg := 1, fresh := false, base := 0x400, counts := [4, 1, 1, 1], strides := [256, 0, 0, 0] }
def drainY : Runnel := { fillY with write := true, taken := 1, pushed := [⟨5, 0x40, 1, 0, []⟩] }
def runnelDemo (y : Runnel) : State := evDemo { demoT with runnels := [y] } { thr := 7, wid := 24 }

theorem windows_wake {s : State} {t : Thread} (h : t.windows = []) : ruleWake s t .windows := by
  change (if ∃ w ∈ t.windows, w.rem = 0 then ∀ w ∈ t.windows, w.rem = 0 → w.waiting = false else ∀ w ∈ t.windows, w.waiting = false)
  rw [h, if_neg (by rintro ⟨w, hw, _⟩; cases hw)]
  intro w hw
  cases hw

theorem witness_WakesAndArrivals :
    ((evDemo (parkT .windows)).thread? (evDemo (parkT .windows)).op.thr = some (parkT .windows) ∧
      (evDemo (parkT .windows)).wakeFirst (parkT .windows) = true ∧ ruleWake (evDemo (parkT .windows)) (parkT .windows) .windows) ∧
    (ruleWake demo (parkT .message) .message ∧ ruleWake demo (parkT (.page herePage)) (.page herePage) ∧
      ruleWake demo (parkT (.fence 0)) (.fence 0) ∧ ruleWake demo (parkT .verdicts) .verdicts ∧ ruleWake demo (parkT .matrix) .matrix ∧
      ruleWake demo (parkT (.queue 0)) (.queue 0) ∧ ruleWake demo (parkT .engines) .engines ∧ ruleWake demo (parkT (.builder 0)) (.builder 0) ∧
      ruleWake demo (parkT .accesses) .accesses ∧ ruleWake demo (parkT (.element 24)) (.element 24) ∧ ruleWake demo (parkT (.posted 1)) (.posted 1)) ∧
    ((evDemo (parkT (.page lostPage))).thread? 7 = some (parkT (.page lostPage)) ∧
      (evDemo (parkT (.page lostPage))).wakeFirst (parkT (.page lostPage)) = true ∧
      (evDemo (parkT (.page lostPage))).heldFirst (parkT (.page lostPage)) lostPage = true) ∧
    (statusDemo.thread? 7 = some statusT ∧ statusDemo.wakeFirst statusT = true ∧ statusDemo.cmd? 3 = some doneC ∧ doneC.st = .finished) ∧
    (barDemo.thread? 7 = some (parkT (.bar 2 0 0)) ∧ barDemo.wakeFirst (parkT (.bar 2 0 0)) = true ∧ 0 < ((barDemo.task 1).barOf 2 0).gen) ∧
    ((evDemo (parkT (.drain .ab 5))).wakeFirst (parkT (.drain .ab 5)) = true ∧ (evDemo (parkT (.drain .ab 5))).drainWaits 1024 .ab 5 = false) ∧
    (stfDemo.thread? 7 = some (parkT (.stf memPlace 9 4)) ∧ stfDemo.wakeFirst (parkT (.stf memPlace 9 4)) = true ∧
      stfDemo.full memPlace.loc = false ∧ ({ stfDemo with cur := some 7 } : State).firstAt (memPlace.loc / 8) 0 false = true ∧
      (let s1 : State := { stfDemo.updT 7 (fun u => { u with park := none }) with cur := some 7 }
       s1.clashAfter (s1.wordRec memPlace.loc).take memPlace.loc memPlace.slice true true = none) ∧
      Memory.wf stfDemo.mem = true ∧ (∀ i j, i < 8 → j < 8 → stfDemo.chan (memPlace.loc + i) = stfDemo.chan (memPlace.loc + j) → i = j)) ∧
    ((evDemo (parkT (.moving 17 false))).thread? 7 = some (parkT (.moving 17 false)) ∧ (evDemo (parkT (.moving 17 false))).freeSlots 17 ≠ [] ∧
      ∀ w ∈ (parkT (.moving 17 false)).windows, w.waiting = false) ∧
    ((evDemo verdictT).thread? 7 = some verdictT ∧ verdictT.verdicts = [] ++ ⟨⟨1, 0x40, ⟨3, 0, none⟩⟩, false⟩ :: []) ∧
    ((evDemo fenceT { thr := 7, wid := 3 }).thread? 7 = some fenceT ∧ fenceT.park = some (.fence 8) ∧ (8 : BitVec 128).getLsbD 3 = true) ∧
    (settleDemo.thread? settleDemo.op.thr = some settleT ∧
      settleT.windows.find? (fun w => w.wid == settleDemo.op.wid) = some (waitW (.settle 3 2) (.settle settleX)) ∧
      settleDemo.ctx? 3 = some ctxC ∧ ctxC.fn = settleDemo.fnOf settleT ∧ ctxC.releasing = none ∧ 2 ≤ ctxC.a ∧
      ∀ e ∈ ctxC.silt, e.state ≠ 0 → 2 ≤ e.stamp) ∧
    (lostDemo.thread? lostDemo.op.thr = some lostT ∧
      lostT.windows.find? (fun w => w.wid == lostDemo.op.wid) = some (waitW (.page lostPage) (.settle settleX)) ∧ lostPage.woken = true ∧
      lostPage.failed = true ∧ lostDemo.heldFirst lostT lostPage = true) ∧
    (∃ t, (runnelDemo fillY).thread? 7 = some t ∧ t.runnel 24 = some fillY ∧ fillY.taken + fillY.ahead.length < fillY.len ∧
      (runnelDemo fillY).elemAt t fillY 0 = .ok ⟨0, 0, 0x400, 1⟩ ∧
      (match (runnelDemo fillY).elemPlaces t fillY ⟨0, 0, 0x400, 1⟩ with | .inr ps => decide (ps = elemPs) | .inl _ => false) = true) ∧
    (∃ t, (runnelDemo drainY).thread? 7 = some t ∧ t.runnel 24 = some drainY ∧
      (runnelDemo drainY).elemAt t drainY 0 = .ok ⟨0, 0, 0x400, 1⟩ ∧
      (match (runnelDemo drainY).elemPlaces t drainY ⟨0, 0, 0x400, 1⟩ with | .inr ps => decide (ps = elemPs) | .inl _ => false) = true ∧
      (∀ e ∈ drainY.pushed, ({ runnelDemo drainY with cur := some 7 } : State).pushTrap e elemPs = none) ∧ Memory.wf (runnelDemo drainY).mem = true) ∧
    ((∀ p ∈ elemPs, p.straight ∧ p.addr % 64 = 0) ∧
      ∀ j k u v, j < 4 → k < 4 → u < 64 → v < 64 → (runnelDemo drainY).chan ((elemPs.map (·.loc)).getD j 0 + u) =
        (runnelDemo drainY).chan ((elemPs.map (·.loc)).getD k 0 + v) → j = k ∧ u = v) := by
  refine ⟨⟨?_, ?_, ?win⟩, ⟨?msg, ⟨rfl, rfl, ?_⟩, rfl, ?ver, ?mat, ?que, ?eng, ?bui, ?acc, ?ele, ?pos⟩, ⟨?_, ?_, ?_⟩, ⟨?_, ?_, ?_, rfl⟩,
    ⟨?_, ?_, ?_⟩, ⟨?_, ?_⟩, ⟨?_, ?_, ?_, ?_, ?_, ?_, ?inj⟩,
    ⟨?_, ?_, ?_⟩, ⟨?_, ?_⟩, ⟨?_, ?_, ?_⟩, ⟨?_, ?_, ?_, ?_, ?_, ?_, ?_⟩, ⟨?_, ?_, ?_, ?_, ?_⟩,
    ⟨{ demoT with runnels := [fillY] }, ?_, ?_, ?_, ?_, ?_⟩, ⟨{ demoT with runnels := [drainY] }, ?_, ?_, ?_, ?_, ?_, ?_⟩, ?str, ?ninj⟩
  case win => exact windows_wake rfl
  case acc => intro w hw; cases hw
  case ele => change demo.elementHere (parkT (.element 24)) 24 = true; decide +kernel
  case pos => change demo.posting 1 = false; decide +kernel
  case msg =>
    intro x hx
    have h : demo.thread? 7 = some demoT := by decide +kernel
    obtain rfl := Option.some.inj (h.symm.trans hx)
    rfl
  case ver => intro v hv; cases hv
  case mat => intro m hm; cases hm
  case que => change demo.queued 0 < 64; decide +kernel
  case eng => intro c hc; cases hc
  case bui => change (demo.die 0).steps.length < 8; decide +kernel
  case inj =>
    have h : ∀ i, i < 8 → stfDemo.chan (memPlace.loc + i) = memPlace.loc + i := by decide +kernel
    intro i j hi hj hc
    rw [h i hi, h j hj] at hc
    omega
  case str =>
    intro p hp
    have : p = quPlace 0x400 ∨ p = quPlace 0x440 ∨ p = quPlace 0x480 ∨ p = quPlace 0x4C0 := by simpa [elemPs] using hp
    rcases this with rfl | rfl | rfl | rfl <;> exact ⟨⟨rfl, rfl⟩, rfl⟩
  case ninj =>
    have h : ∀ x, x < 256 → (runnelDemo drainY).chan (0x10400 + x) = 0x10400 + x := by decide +kernel
    have hl : ∀ j, j < 4 → (elemPs.map (·.loc)).getD j 0 = 0x10400 + 64 * j := by decide
    intro j k u v hj hk hu hv hc
    rw [hl j hj, hl k hk, Nat.add_assoc, Nat.add_assoc, h _ (by omega), h _ (by omega)] at hc
    omega
  all_goals decide +kernel


/-! ### Messages -/

/-- Thread 7's message and its spawn are on their way to its own vcore, and to one that does not exist. -/
def msgOf (target : Nat) (spawn : Bool) : Msg := ⟨1024, target, spawn, [BitVec.ofNat 64 (8 * 2 ^ 20), 0x60, 2, 3, 4, 5, 6, 7], []⟩
def msgDemo (target : Nat) (spawn : Bool) (v : Vcore := demoV) (t : Thread := demoT) (k : Task := demoK) : State :=
  { evDemo t with msgs := [(7, msgOf target spawn)], vcores := [v], tasks := [k] }

/-- A bounce to thread 7's slot stands in its ring; the ring is full; the vcore's one thread is in HALT. -/
def bouncedV : Vcore := { demoV with ringBnc := [some (msgOf 9999 false).slot] }
def fullV : Vcore := { demoV with ringhd := BitVec.ofNat 32 demoK.ringE, ringClk := List.replicate demoK.ringE [] }

theorem witness_MessagesArrive :
    ((Instr.messageArrival, (msgOf 1024 false).spawn) ∈ [(Instr.messageArrival, false), (.spawnArrival, true)] ∧
      (msgDemo 1024 false).msgs.find? (fun x => x.1 == (msgDemo 1024 false).op.thr && x.2.spawn == false) = some (7, msgOf 1024 false) ∧
      Memory.wf (msgDemo 1024 false).mem = true ∧ ruleRefusal (msgDemo 1024 false) (msgOf 1024 false) = none ∧
      (msgDemo 1024 false).vcore? 1024 = some demoV) ∧
    ((Instr.spawnArrival, (msgOf 1024 true).spawn) ∈ [(Instr.messageArrival, false), (.spawnArrival, true)] ∧
      (msgDemo 1024 true).msgs.find? (fun x => x.1 == (msgDemo 1024 true).op.thr && x.2.spawn == true) = some (7, msgOf 1024 true) ∧
      Memory.wf (msgDemo 1024 true).mem = true ∧ ruleRefusal (msgDemo 1024 true) (msgOf 1024 true) = none) ∧
    ((msgDemo 9999 false).msgs.find? (fun x => x.1 == (msgDemo 9999 false).op.thr && x.2.spawn == false) = some (7, msgOf 9999 false) ∧
      ruleRefusal (msgDemo 9999 false) (msgOf 9999 false) = some 3 ∧ (((msgOf 9999 false).words.getD 0 0).getLsbD 15 = false) ∧
      (msgOf 9999 false).words.length = 8 ∧ (msgDemo 9999 false).vcore? (msgOf 9999 false).fromVu = some demoV ∧
      (msgDemo 9999 false).bounced (msgOf 9999 false) = false) ∧
    (ruleRefusal (msgDemo 9999 false bouncedV) (msgOf 9999 false) = some 3 ∧ (msgDemo 9999 false bouncedV).bounced (msgOf 9999 false) = true) ∧
    (ruleRefusal (msgDemo 1024 false fullV) (msgOf 1024 false) = some 2 ∧
      ruleRefusal (msgDemo 1024 true demoV demoT detK) (msgOf 1024 true) = some 4 ∧
      ruleRefusal (msgDemo 1024 false demoV { demoT with halting := true }) (msgOf 1024 false) = some 5) := by
  refine ⟨⟨?_, ?_, ?_, ?_, ?_⟩, ⟨?_, ?_, ?_, ?_⟩, ⟨?_, ?_, ?_, ?_, ?_, ?_⟩, ⟨?_, ?_⟩, ?_, ?_, ?_⟩ <;> decide +kernel

/-! ### Engines -/

/-- A command of thread 7 in a state of its own. -/
def engC (kind : CmdKind) (st : CmdSt) (record : List Nat) : Cmd :=
  { id := 0, thr := 7, task := 1, vu := 1024, core := 0, kind := kind, st := st, seg := 1, segs := demoT.sg, head := 0x100,
    record := record.map w64 }
def engDemo (c : Cmd) (ws : List (Nat × Nat) := []) (t : Thread := demoT) (k : Task := demoK) : State :=
  let s := demoWith ws t k
  { s with cmds := [c] }

/-- A COPY of one doubleword from 0x300 to 0x400; the same with four pages of scouting. -/
def cpyC : Cmd := engC .record .queued cpyRec
def scoutRecW : List Nat := [3 * 2 ^ 53 + 2 ^ 26 + 2 ^ 23 + 4 * 2 ^ 29, 0x300, 0x400, 0x0001000100010001, 0, 0, 0, 0]
def scoutC : Cmd := engC .record .queued scoutRecW
def cpyElem (s : State) (c : Cmd) : List TrElem := match s.trElems c none (c.record.take 8) with | .good l => l | _ => []
def cpyDst : Place := { space := 1, addr := 0x400, loc := abBase 1024 + 0x400, slice := none }

/-- A chain whose head stands at 0x100, with and without OWN. -/
def chainDemo (own : Bool) (st : CmdSt) : State := engDemo (engC (.chain 3) st []) (wordsFrom 0x10100 [if own then 2 ^ 63 else 0])

/-- A command that is done, whose status register is g9, and steps with module 1. -/
def sentT : Thread := { demoT with pend := [(9, 0)] }
def sentDemo : State := engDemo (engC .record .sent []) [] sentT
def stepC : Cmd := engC .cstep .queued stepRec
def activeC : Cmd := { stepC with st := .active, live := true, stepNo := some 0 }
def ackedC : Cmd := { activeC with acked := true }
def stepEng (c : Cmd) (op : EvOp := {}) : State := { engDemo c [] demoT peerK with op := op }
def ackOp : EvOp := { peer := ⟨1, 0, 2, 1, 0, [], 1, 0⟩, flag := true }
def fullOp : EvOp := { peer := ⟨1, 9, 2, 1, 0, List.replicate 65537 0, 1, 0⟩ }

/-- An exchange of one element with module 1: LOC at 0x300, LAND at 0x340 and RES at 0x380; its operand has landed and is acknowledged. -/
def xchgRec : List Nat := [2 ^ 60 + 2 ^ 38, 0x300, 0x340, 0x380, 1, 0, 0, 0]
def xchgC : Cmd := { engC .cstep .active xchgRec with live := true, stepNo := some 0, landed := true, acked := true }

/-- A check that passed with a value, and places that were found. -/
def ckB {α : Type} (x : Ck α) (f : α → Bool) : Bool := match x with | .good a => f a | _ => false
def etB (x : ETr) (f : List Place → Bool) : Bool := match x with | .ok a => f a | _ => false

/-- What a step that runs names. -/
def bufsOf (c : Cmd) : List SegA × List SegA × List SegA := match (stepEng c).stBufs c c.record with | .good x => x | _ => ([], [], [])

theorem witness_EngineSteps :
    ((engDemo cpyC).cmd? (engDemo cpyC).op.cmd = some cpyC ∧ cpyC.st = .queued ∧ cpyC.code = 0 ∧ trOp (cpyC.record.take 8) = 0 ∧
      ckB ((engDemo cpyC).trElems cpyC none (cpyC.record.take 8)) (fun l => decide (l = cpyElem (engDemo cpyC) cpyC) && l.length == 1) = true ∧
      etB ((engDemo cpyC).engPlaces cpyC 2 ((cpyElem (engDemo cpyC) cpyC).flatMap fun x => x.src.map (·, false) ++ [(x.dst, true)]))
        (fun l => decide (l = [quPlace 0x300, cpyDst])) = true ∧ 2 ^ trEsz (cpyC.record.take 8) = 8 ∧
      (cpyDst.straight ∧ cpyDst.addr % 8 = 0) ∧ Memory.wf (engDemo cpyC).mem = true ∧
      (∀ u v, u < 8 → v < 8 → (engDemo cpyC).chan (cpyDst.loc + u) = (engDemo cpyC).chan (cpyDst.loc + v) → u = v)) ∧
    (∀ b, match (chainDemo b .sleeping).headOf (engC (.chain 3) .sleeping []) 2 with
      | .at _ r => (r.getD 0 0).getLsbD 63 = b | _ => False) ∧
    ((engDemo scoutC).scoutPages scoutC)[scoutC.probes]? = some (0, false) ∧
    (match (engDemo scoutC).xlate (scoutC.core / 1024 % 2) ((engDemo scoutC).task scoutC.task).fn (0 * 2 ^ 16) false with
      | .ok _ _ => true | .fault _ => false) = true ∧
    (sentDemo.cmd? sentDemo.op.cmd = some (engC .record .sent []) ∧ sentDemo.thread? 7 = some sentT ∧
      sentT.pend.find? (fun x => x.2 == 0) = some (9, 0)) ∧
    ((stepEng stepC).cmd? 0 = some stepC ∧ stepC.record ≠ [] ∧ stepC.live = false ∧ stepC.code = 0 ∧ stBad ((stepEng stepC).task 1) stepC.record = none ∧
      ckB ((stepEng stepC).stBufs stepC stepC.record) (fun x => decide (x = bufsOf stepC)) = true ∧
      etB ((stepEng stepC).engPlaces stepC 3 ((bufsOf stepC).1.map (·, false) ++ ((bufsOf stepC).2.1 ++ (bufsOf stepC).2.2).map (·, true)))
        (fun l => l.length == 1) = true) ∧
    ((stepEng ackedC).cmd? 0 = some ackedC ∧ stLands ackedC.record = false ∧ ackedC.acked = true ∧ stForms ackedC.record = false) ∧
    ((stepEng xchgC).cmd? 0 = some xchgC ∧ xchgC.st = .active ∧ xchgC.landed = true ∧ xchgC.acked = true ∧ stForms xchgC.record = true ∧
      ckB ((stepEng xchgC).stBufs xchgC xchgC.record) (fun x => decide (x = bufsOf xchgC)) = true ∧
      ((bufsOf xchgC).1.length = 1 ∧ (bufsOf xchgC).2.1.length = 1 ∧ (bufsOf xchgC).2.2.length = 1) ∧
      etB ((stepEng xchgC).engPlaces xchgC 3 ((bufsOf xchgC).1.map (·, false) ++ ((bufsOf xchgC).2.1 ++ (bufsOf xchgC).2.2).map (·, true)))
        (fun l => decide (l = [quPlace 0x300, quPlace 0x340, quPlace 0x380])) = true ∧
      ((quPlace 0x380).straight ∧ (quPlace 0x380).addr % 4 = 0) ∧ Memory.wf (stepEng xchgC).mem = true ∧
      (∀ u v, u < 4 → v < 4 → (stepEng xchgC).chan ((quPlace 0x380).loc + u) = (stepEng xchgC).chan ((quPlace 0x380).loc + v) → u = v)) ∧
    ((stepEng activeC).cmd? 0 = some activeC ∧ activeC.acked = false ∧ (stepEng activeC).op.flag = false ∧
      ckB ((stepEng activeC).stBufs activeC activeC.record) (fun x => decide (x = bufsOf activeC)) = true ∧
      etB ((stepEng activeC).engPlaces activeC 3 ((bufsOf activeC).1.map (·, false))) (fun _ => true) = true ∧
      (stepEng activeC ackOp).awaiting ackOp.peer = some activeC ∧ (stepEng stepC ackOp).awaiting ackOp.peer = none) ∧
    ((stepEng activeC ackOp).op.flag = true ∧ (stepEng activeC ackOp).ingressRoom 0 ackOp.peer = true ∧
      (stepEng stepC fullOp).ingressRoom 0 fullOp.peer = false) := by
  refine ⟨⟨?_, ?_, ?_, ?_, ?_, ?_, ?_, ⟨⟨rfl, ?_⟩, ?_⟩, ?_, ?inj⟩, ?own, ?_, ?_, ⟨?_, ?_, ?_⟩, ⟨?_, ?_, ?_, ?_, ?_, ?_, ?_⟩, ⟨?_, ?_, ?_, ?_⟩,
    ⟨?_, ?_, ?_, ?_, ?_, ?_, ⟨?_, ?_, ?_⟩, ?_, ⟨⟨rfl, ?_⟩, ?_⟩, ?_, ?jni⟩, ⟨?_, ?_, ?_, ?_, ?_, ?_, ?_⟩, ?_, ?_, ?big⟩
  case jni =>
    have h : ∀ u, u < 4 → (stepEng xchgC).chan ((quPlace 0x380).loc + u) = (quPlace 0x380).loc + u := by decide +kernel
    intro u v hu hv hc
    rw [h u hu, h v hv] at hc
    omega
  case big =>
    change (false || decide ((List.replicate 65537 (0 : Byte)).length ≤ 65536)) = false
    rw [List.length_replicate]
    decide
  case inj =>
    have h : ∀ u, u < 8 → (engDemo cpyC).chan (cpyDst.loc + u) = cpyDst.loc + u := by decide +kernel
    intro u v hu hv hc
    rw [h u hu, h v hv] at hc
    omega
  case own =>
    have h : ∀ b, (match (chainDemo b .sleeping).headOf (engC (.chain 3) .sleeping []) 2 with
      | .at _ r => decide ((r.getD 0 0).getLsbD 63 = b) | _ => false) = true := by decide +kernel
    intro b
    have := h b
    split at this
    · simpa using this
    · cases this
  all_goals decide +kernel


/-! ### The matrix and the attention engine -/

/-- An entry of thread 7 in the queues. -/
def matM (i : Instr) : MatQ := { core := 0, thr := 7, vu := 1024, wid := some 1, prio := 0, order := 2, i := i, pc := 0x40, seq := 0 }
def matT : Thread := { demoT with windows := [{ wid := 1, rem := 3, pc := 0x40, res := .wait .matrix }], runnels := [fillY] }
def matDemo (m : MatQ) : State := { evDemo matT with matq := [m] }

/-- A fill of tile 1 from 128 codes at 0x400. -/
def fillX : Fill := ⟨1024, 1, 2, { matM (.wld ⟨1, .imm 0, 12, 3, 1, 1, 10, 1⟩) with
  frame := frameW.map w64, a := (List.range 128).map fun k => ⟨0, 0, 0x400 + k, 1⟩ }⟩
def fillDemo : State := { evDemo matT { vc := 1024, wid := 2 } with fills := [fillX] }

/-- An ATTN over an empty capture set, with one query row in AB. -/
def attnX : AttnA := ⟨⟨1, .imm 0, 5, 9, 1⟩, false⟩
def attnM : MatQ := { matM (.attn attnX) with
  frame := [0, 0, w64 (0x600 * 2 ^ 36 + 0x800 * 2 ^ 18 + 0x400), 0, 0x680, 0, 0, 0], a := attnAt.1.map Prod.snd, b := attnAt.2.map Prod.snd }
def attnRT : Thread := { matT with caps := matT.caps.set 0 (some (newSet ctxC 0)) }
def attnRDemo : State := { evDemo attnRT with matq := [attnM] }

theorem witness_MatrixEngineSteps :
    ((matDemo (matM (.mst ⟨2, .imm 0, 12, true, 0, 3, true, 0⟩))).matOf 7 = some (matM (.mst ⟨2, .imm 0, 12, true, 0, 3, true, 0⟩)) ∧
      (matDemo (matM (.mst ⟨2, .imm 0, 12, true, 0, 3, true, 0⟩))).matReady (matM (.mst ⟨2, .imm 0, 12, true, 0, 3, true, 0⟩)) = true) ∧
    ((matDemo (matM (.mzero 3))).matOf (matDemo (matM (.mzero 3))).op.thr = some (matM (.mzero 3)) ∧
      (matDemo (matM (.mzero 3))).matReady (matM (.mzero 3)) = true ∧ (matM (.mzero 3)).band = none ∧
      (matDemo (matM (.mzero 3))).vcore? (matM (.mzero 3)).vu = some demoV) ∧
    (let m := { matM (.mma ⟨2, .imm 0, 12, 3, 24, 1, false, 0, true, 1, 1, 10⟩) with performed := true }
     (matDemo m).matOf (matDemo m).op.thr = some m ∧ (matDemo m).thread? m.thr = some matT ∧
       matT.windows.find? (fun y => y.wid == 1) = some { wid := 1, rem := 3, pc := 0x40, res := .wait .matrix }) ∧
    (fillDemo.fills.find? (fun x => x.vu == fillDemo.op.vc && x.order == fillDemo.op.wid) = some fillX ∧ fillX.m.page = none ∧
      fillDemo.fillFirst fillX = true ∧ frameOf fillX.m.frame = some quFrame ∧ fillDemo.vcore? fillX.vu = some demoV ∧
      (match fillDemo.fillBytes fillX.m (((fillDemo.thread? fillX.m.thr).map Thread.gtid).getD 0) fillX.m.a [] none with
        | .inr (bs, bad) => bs.length == 128 && bad.isNone | .inl _ => false) = true) ∧
    (let m := { matM (.mma ⟨2, .imm 0, 12, 3, 24, 1, false, 0, true, 1, 1, 10⟩) with replay := true, check := some (fillY, 0) }
     (matDemo m).matOf (matDemo m).op.thr = some m ∧ (matDemo m).thread? 7 = some matT ∧ m.page = none ∧
       m.replay = true ∧ m.check = some (fillY, 0) ∧ fillY.fresh = false ∧ (matDemo m).elemAt matT fillY 0 = .ok ⟨0, 0, 0x400, 1⟩ ∧
       (match (matDemo m).elemPlaces matT fillY ⟨0, 0, 0x400, 1⟩ with | .inr ps => decide (ps = elemPs) | .inl _ => false) = true) ∧
    (attnRDemo.attnHead attnRDemo.op.thr = some attnM ∧ attnM.page = none ∧ attnM.rdr = none ∧ attnRDemo.thread? attnM.thr = some attnRT ∧
      attnRT.lane = none ∧ attnRT.shadow = none ∧ attnRT.caps[0] = some (newSet ctxC 0) ∧ (newSet ctxC 0).blocks = [] ∧
      atHead (attnM.frame.take 8) ≤ (newSet ctxC 0).kvhm1 ∧ atMode (attnM.frame.take 8) = 0 ∧ atRec (attnM.frame.take 8) = false ∧
      (∀ a ∈ attnM.a ++ attnM.b, a.space = 1) ∧ (∀ a ∈ attnM.a, attnRDemo.poisonTrap (attnM.place a) 64 = none) ∧
      attnRT.windows.find? (fun y => y.wid == attnM.wid.getD 0) = some { wid := 1, rem := 3, pc := 0x40, res := .wait .matrix }) := by
  refine ⟨⟨?_, ?_⟩, ⟨?_, ?_, ?_, ?_⟩, ⟨?_, ?_, ?_⟩, ⟨?_, ?_, ?_, ?_, ?_, ?_⟩, ⟨?_, ?_, ?_, ?_, ?_, ?_, ?_, ?_⟩,
    ?_, ?_, ?_, ?_, ?_, ?_, ?_, ?_, ?_, ?_, ?_, ?_, ?_, ?_⟩ <;> decide +kernel

/-! ### Steps of contexts and of the step builder -/

/-- A context with a DIRTY entry at layer 0, forced, whose serving task runs. -/
def dirtyE : Silt := { layer := 0, blk := 0, state := 2, stamp := 1, force := true }
def surgeC : Ctx := { ctxC with silt := [dirtyE] }
def surgeDemo : State := { ctxDemo [] surgeC with op := { ctx := 3 } }

/-- A context whose release waits for nothing. -/
def goneC : Ctx := { ctxC with releasing := some (7, 1) }
def goneT : Thread := { ctxT with windows := [{ wid := 1, rem := 3, pc := 0x40, res := .wait (.release 9) }] }
def goneDemo : State := { ctxDemo [] goneC goneT with op := { ctx := 3 } }

/-- A retired record at 0x4200 that nobody reads, and free return rings. -/
def oldRec : Retired := ⟨3, 0, 0x4200, 0x1C00⟩
def freeDemo : State :=
  let s := { ctxDemo [] with retired := [oldRec], op := { addr := 0x4200 } }
  s.setList 0 0 fun f => { f with en := true, base := 2 ^ 129 }

/-- A step descriptor at 0x100 with empty queues at 0x180 and 0x1C0 and its list at 0x200; and one without a budget. -/
def sdW (budget : Nat) : List Nat := [budget * 2 ^ 32 + 16, 0x180, 0x1C0, 0x200]
def buildDemo (budget : Nat) : State :=
  let s := demoWith (wordsFrom 0x10100 (sdW budget))
  let s := s.setFull 0x10200 false
  s.setDie 0 fun d => { d with steps := [{ addr := 0x100, fn := 0, task := 1, clock := [] }] }
def sdWords (budget : Nat) : List Word := (sdW budget).map w64
def buildV : View := ⟨0, 0, 0, [], 6, []⟩

/-- The addresses of a state whose channels are all in place. -/
theorem chan_id {s : State} (h : ∀ d : Fin 2, s.dies[d].chmap = []) (a : Nat) : s.chan a = a := by
  unfold State.chan
  split
  · have := h ⟨a / 2 ^ 38 % 2, Nat.mod_lt _ (by decide)⟩
    simp only [Fin.getElem_fin] at this
    rw [this]
    rfl
  · rfl

/-- The record of the context's KV block 0 at layer 0, which its append region's table at 0x4000 names, moves to 0x6000 in a format. -/
def moveC : Ctx := { ctxC with regions := [(0, 0x4000)] }
def moveE : Word := w64 (2 ^ 63 + 2 ^ 60 + 1)
def moveDemo (fmt : Nat) : State := { ctxDemo [] moveC with op := { move := ⟨3, 0, 0x4000, 0x4000, 16, fmt, true⟩ } }
def moveR : KRec := match (moveDemo 1).entryCheck buildV moveC 3 0 none moveE 0x4000 (2 ^ 52) with | .ok (.inr r) => r | _ => ⟨0, 0, 0, 0, .e4m3, []⟩
def moveN (f : NFmt) : KRec := { moveR with va := 0x6000, fmt := f, hdr := [] }

/-- Two chunks in place. -/
def chunks2 (c : Nat) : Chunks := [(c, quPlace (4096 * c)), (c + 1, quPlace (4096 * (c + 1)))]

theorem chunks2_at {c va : Nat} (h1 : 4096 * c ≤ va) (h2 : va < 4096 * (c + 2)) : ((chunks2 c).at va).loc = 0x10000 + va := by
  have hq : va / 4096 = c ∨ va / 4096 = c + 1 := by omega
  rcases hq with h | h <;> simp [Chunks.at, chunks2, h, quPlace] <;> omega

theorem move_chan (fmt a : Nat) : (moveDemo fmt).chan a = a := chan_id (fun d => by change (moveDemo 1).dies[d].chmap = []; revert d; decide) a

/-- A block that may be moved: to its own format, as a migration keeps it, and to another. -/
theorem moveAt_demo : ∀ x ∈ [(1, NFmt.e4m3), (2, NFmt.int8)],
    MoveAt (moveDemo x.1) moveC moveE moveR (moveN x.2) (quPlace 0x4000) (chunks2 4) (chunks2 6) x.1 x.2 := by
  have hr : moveR.va = 0x4200 ∧ moveR.size = 7168 := by decide +kernel
  intro x hx
  have hn : (moveN x.2).va = 0x6000 ∧ (moveN x.2).size = 7168 := by
    have h : ∀ x ∈ [(1, NFmt.e4m3), (2, NFmt.int8)], (moveN x.2).va = 0x6000 ∧ (moveN x.2).size = 7168 := by decide +kernel
    exact h x hx
  have hk : ∀ j, j < 7168 → ((chunks2 4).at (moveR.va + j)).loc = 0x14200 + j := fun j hj => by
    rw [hr.1, chunks2_at (by omega) (by omega)]; omega
  have hm : ∀ i, i < 7168 → ((chunks2 6).at ((moveN x.2).va + i)).loc = 0x16000 + i := fun i hi => by
    rw [hn.1, chunks2_at (by omega) (by omega)]; omega
  have h : ∀ x ∈ [(1, NFmt.e4m3), (2, NFmt.int8)], decide ((moveDemo x.1).ctx? 3 = some moveC) && moveC.movable 0 (teBlk moveE) &&
      moveC.ownsEntry 0 0x4000 && vxB ((moveDemo x.1).vaWords buildV 0x4000 1) (fun l => decide (l = [moveE])) &&
      vxB ((moveDemo x.1).entryCheck buildV moveC 3 0 none moveE 0x4000 (2 ^ 52)) (fun y => decide (y = .inr moveR)) &&
      decide (nfmt? x.1 = some x.2) && vxB ((moveDemo x.1).vaAt buildV 0x4000 true) (fun p => decide (p = quPlace 0x4000)) &&
      vxB ((moveDemo x.1).chunks buildV moveR.va moveR.size true) (fun l => decide (l = chunks2 4)) &&
      vxB ((moveDemo x.1).chunks buildV (moveN x.2).va (moveN x.2).size true) (fun l => decide (l = chunks2 6)) &&
      decide (Memory.wf (moveDemo x.1).mem = true) && decide (moveN x.2 = { moveR with va := (moveDemo x.1).op.move.pool + 512 * (moveDemo x.1).op.move.paddr, fmt := x.2, hdr := [] }) = true := by decide +kernel
  have := h x hx
  simp only [Bool.and_eq_true, decide_eq_true_eq] at this
  obtain ⟨⟨⟨⟨⟨⟨⟨⟨⟨⟨h1, h2⟩, h3⟩, h4⟩, h5⟩, h6⟩, h7⟩, h8⟩, h9⟩, h10⟩, h11⟩ := this
  obtain ⟨_, e4, g4⟩ := vx_of h4
  obtain ⟨_, e5, g5⟩ := vx_of h5
  obtain ⟨_, e7, g7⟩ := vx_of h7
  obtain ⟨_, e8, g8⟩ := vx_of h8
  obtain ⟨_, e9, g9⟩ := vx_of h9
  obtain rfl := of_decide_eq_true g4
  obtain rfl := of_decide_eq_true g5
  obtain rfl := of_decide_eq_true g7
  obtain rfl := of_decide_eq_true g8
  obtain rfl := of_decide_eq_true g9
  refine ⟨h1, rfl, h2, h3, (by change 0x4000 % 512 = 0; decide), e4, e5, h6, h11, e7, e8, e9, h10, ⟨⟨rfl, rfl⟩, rfl⟩, ?_, ?_, ?_, ?_, ?_⟩
  · intro i j _ _ he
    rw [move_chan, move_chan] at he
    omega
  · intro i hi he
    rw [move_chan, move_chan, show moveR.va = moveR.va + 0 from rfl, hk 0 (by omega)] at he
    change 0x14000 + i = 0x14200 + 0 + 6 at he
    omega
  · intro i j hi hj he
    rw [hn.2] at hi hj
    rw [move_chan, move_chan, hm i hi, hm j hj] at he
    omega
  · intro i j hi hj he
    rw [hn.2] at hi
    rw [hr.2] at hj
    rw [move_chan, move_chan, hm i hi, hk j hj] at he
    omega
  · intro i j hi hj he
    rw [hn.2] at hi
    rw [move_chan, move_chan, hm i hi] at he
    change 0x16000 + i = 0x14000 + j at he
    omega

theorem witness_ContextSteps :
    (surgeDemo.ctx? surgeDemo.op.ctx = some surgeC ∧ surgeC.launched = none ∧ surgeC.nextDispatch = some dirtyE ∧
      bit (surgeDemo.die surgeC.die).split 1 = false ∧ surgeDemo.itemVcore surgeC = some (demoK, demoV)) ∧
    (goneDemo.ctx? goneDemo.op.ctx = some goneC ∧ goneC.releasing = some (7, 1) ∧ goneC.edits = [] ∧ (∀ e ∈ goneC.silt, e.state ≠ 3) ∧
      goneDemo.thread? 7 = some goneT ∧
      goneT.windows.find? (fun y => y.wid == 1) = some { wid := 1, rem := 3, pc := 0x40, res := .wait (.release 9) }) ∧
    ((∃ c e r n pe k kn f, MoveAt (moveDemo 1) c e r n pe k kn (e.extractLsb' 60 2).toNat f) ∧
      ∀ m ∈ [1, 2], (∃ c e r n pe k kn f, MoveAt (moveDemo m) c e r n pe k kn (moveDemo m).op.move.fmt f ∧
        bit ((moveDemo m).die c.die).split 7 = false ∧ c.det = false)) ∧
    (freeDemo.retired.find? (fun x => x.va == freeDemo.op.addr && x.fn == freeDemo.op.fn) = some oldRec ∧
      (freeDemo.freeable oldRec).map (·.length) = some 2) ∧
    (∀ b ∈ [0, 1], ∃ q, ((buildDemo b).die 0).steps = q :: [] ∧ ((buildDemo b).die 0).building = none ∧ q.wait = none ∧ q.full = none ∧
      q.desc = [] ∧ q.host = false ∧ bit ((buildDemo b).die 0).split 2 = false ∧
      vxB ((buildDemo b).vaWords buildV q.addr 4) (fun ws => decide (ws = sdWords b)) = true ∧ sdList (sdWords b) % 64 = 0 ∧
      vxB ((buildDemo b).vaAt buildV (sdList (sdWords b)) true) (fun p => decide (p = quPlace 0x200)) = true ∧ (quPlace 0x200).loc % 64 = 0 ∧
      (buildDemo b).full (quPlace 0x200).loc = false ∧ Memory.wf (buildDemo b).mem = true ∧
      (∀ i j, i < 16 → j < 16 → (buildDemo b).chan ((quPlace 0x200).loc + i) = (buildDemo b).chan ((quPlace 0x200).loc + j) → i = j)) ∧
    sdBad (sdWords 0) = true ∧ sdBad (sdWords 1) = false ∧
    vxB ((buildDemo 1).stepQueue buildV (sdDecq (sdWords 1))) (fun x => x.1.count == 0 && vxB ((buildDemo 1).vaAt buildV (x.1.head + 24) true) fun _ => true) = true ∧
    vxB ((buildDemo 1).stepQueue buildV (sdPreq (sdWords 1))) (fun x => x.1.count == 0 && vxB ((buildDemo 1).vaAt buildV (x.1.head + 24) true) fun _ => true) = true ∧
    (∀ h ∈ (buildDemo 1).stepCtxs 0 0, (buildDemo 1).stepItem h = none) := by
  refine ⟨⟨?_, ?_, ?_, ?_, ?_⟩, ⟨?_, ?_, ?_, ?_, ?_, ?_⟩, ⟨?mig, ?req⟩, ⟨?_, ?_⟩, ?bld, ?_, ?_, ?_, ?_, ?noc⟩
  case mig => exact ⟨_, moveE, _, _, _, _, _, _, moveAt_demo (1, .e4m3) (by decide)⟩
  case req =>
    intro m hm
    obtain rfl | rfl : m = 1 ∨ m = 2 := by simpa using hm
    · exact ⟨_, _, _, _, _, _, _, _, moveAt_demo (1, .e4m3) (by decide), rfl, rfl⟩
    · exact ⟨_, _, _, _, _, _, _, _, moveAt_demo (2, .int8) (by decide), rfl, rfl⟩
  case bld =>
    intro b hb
    obtain rfl | rfl : b = 0 ∨ b = 1 := by simpa using hb
    all_goals
      refine ⟨{ addr := 0x100, fn := 0, task := 1, clock := [] }, ?_, rfl, rfl, rfl, rfl, rfl, ?_, ?_, ?_, ?_, ?_, ?_, ?_, ?inj⟩
      case inj =>
        intro i j hi hj hc
        first
          | (have h : ∀ i, i < 16 → (buildDemo 0).chan ((quPlace 0x200).loc + i) = (quPlace 0x200).loc + i := by decide +kernel
             rw [h i hi, h j hj] at hc; omega)
          | (have h : ∀ i, i < 16 → (buildDemo 1).chan ((quPlace 0x200).loc + i) = (quPlace 0x200).loc + i := by decide +kernel
             rw [h i hi, h j hj] at hc; omega)
      all_goals decide +kernel
  case noc =>
    have h : (buildDemo 1).stepCtxs 0 0 = [] := by decide +kernel
    rw [h]
    intro x hx
    cases hx
  all_goals decide +kernel


/-! ### Queues and packets -/

/-- Function 0 with queue 0, and a step of the headgate. -/
def queueDemo (q : Queue) (op : EvOp := {}) (s : State := demo) : State :=
  { s with fns := [{ n := 0, queues := (Vector.replicate 8 {}).set 0 q, part := [0] }], op := op }
def postC : Ctx := { ctxC with silt := [{ itemE 0 with disp := some { itemD with thr := none } }] }
def workOp : EvOp := { word := BitVec.ofNat 64 (3 * 2 ^ 48), val := 2 }
def workDemo : State := queueDemo {} workOp (ctxDemo [] postC)
def publishDemo : State := queueDemo {} { addr := 0x100, val := 9 } emptyDemo
def asideDemo : State := queueDemo {} { word := 5 } { demo with tasks := [{ demoK with st := .suspended }] }

theorem witness_QueuesAndPackets :
    (let s := queueDemo { en := true } { word := 1 }
     let x := s.queue 0 0
     s.op.q < 8 ∧ x.dev = false ∧ x.en = true ∧ s.ready = true ∧ x.pkt = none ∧ x.retries = 0 ∧ x.wait = none ∧ s.queuesFull 0 = false ∧
       0 < (1 + 2 ^ 32 - x.head) % 2 ^ 32 ∧ (1 + 2 ^ 32 - x.head) % 2 ^ 32 < 2 ^ 31 ∧
       (((s.dwords (hostBase + x.base.toNat + 64 * (x.head % 2 ^ x.qlg)) 8).getD 7 0).extractLsb' 0 32).toNat = x.head) ∧
    (let s := queueDemo { en := true, kick := 1 }
     let x := s.queue 0 0
     x.wait = none ∧ s.mayFetch 0 0 = true ∧
       (((s.dwords (hostBase + x.base.toNat + 64 * (x.head % 2 ^ x.qlg)) 8).getD 7 0).extractLsb' 0 32).toNat = x.head) ∧
    (∀ r ∈ [0, 4], let s := queueDemo { en := true, kick := 2, head := 1, retries := r }
     let x := s.queue 0 0
     x.wait = none ∧ s.mayFetch 0 0 = true ∧
       (((s.dwords (hostBase + x.base.toNat + 64 * (x.head % 2 ^ x.qlg)) 8).getD 7 0).extractLsb' 0 32).toNat ≠ x.head) ∧
    (let s := queueDemo { en := true, dev := true, kword := 0x100 }
     let x := s.queue 0 0
     x.dev = true ∧ x.en = true ∧ s.ready = true ∧ x.kwait = none ∧
       vxB (s.vaAt (s.gateView 0 none) x.kword false) (fun p => s.full p.loc && s.firstAt (p.loc / 8) x.kticket true) = true) ∧
    (let s := queueDemo {} { addr := 0x100 }
     let v := s.gateView 0 (s.queue 0 0).wait
     s.queuesFull 0 = false ∧ vxB (s.vaWords v 0x100 32) (fun w => vxB (s.vaAt v (64 * ((w.getD 15 0).extractLsb' 6 46).toNat) true) (fun _ => true) &&
       (List.range 8).all fun i => !(w.getD (16 + i) 0).getLsbD 63) = true) ∧
    ((queueDemo {} { word := 9 }).tagged 0 9 = none ∧ (queueDemo {} { word := 5 }).tagged 0 5 = some demoK ∧ demoK.live = true ∧
      asideDemo.tagged 0 5 = some { demoK with st := .suspended } ∧ demoK.saved = [] ∧ ({ demoK with st := .suspended } : Task).live = false) ∧
    (workDemo.ctx? (workDemo.op.word.extractLsb' 48 12).toNat = some postC ∧ postC.fn = 0 ∧ postC.releasing = none ∧
      (workDemo.op.word.extractLsb' 40 8).toNat = 0 ∧ (workDemo.op.word.extractLsb' 0 20).toNat = 0 ∧ itemD.go = false ∧ (postC.entry 0 0).state = 3 ∧
      (postC.entry 0 0).disp = some { itemD with thr := none } ∧ itemD.stamp = (workDemo.op.val.extractLsb' 0 32).toNat) ∧
    ((publishDemo.queue 0 0).wait = none ∧
      vxB (publishDemo.vaAt (publishDemo.gateView 0 none) publishDemo.op.addr true) (fun p => decide (p = memPlace)) = true ∧
      publishDemo.full memPlace.loc = false ∧ publishDemo.firstAt (memPlace.loc / 8) publishDemo.order false = true ∧
      publishDemo.reserved 0 publishDemo.op.addr 8 = false ∧ Memory.wf publishDemo.mem = true ∧
      ∀ i j, i < 8 → j < 8 → publishDemo.chan (memPlace.loc + i) = publishDemo.chan (memPlace.loc + j) → i = j) := by
  refine ⟨?_, ?_, ?_, ?_, ?_, ⟨?_, ?_, ?_, ?_, ?_, ?_⟩, ⟨?_, ?_, ?_, ?_, ?_, ?_, ?_, ?_, ?_⟩, ?_, ?_, ?_, ?_, ?_, ?_, ?inj⟩
  case inj =>
    intro i j _ _ hc
    rw [chan_id (by decide +kernel), chan_id (by decide +kernel)] at hc
    omega
  all_goals decide +kernel

/-! ### Tasks -/

/-- A task of vcores of one thread each, on a partition with one core, on which a vcore of task 2 has slot 7. -/
def soloK : Task := { demoK with st := .ready, levels := [⟨false, true, 1, 1, 1024⟩], placedGangs := [], entry := 0x500, trapv := 0x600, arg := 9,
                                 npt := 0, nacc := 0, nwb := 0 }
def otherV : Vcore := { vu := 2048, task := 2, idx := 0, placed := true, mode := .partitioned, pslots := [7] }
def partF : Fn := { n := 0, part := [0] }
def partDemo (k : Task) (f : Fn := partF) (vs : List Vcore := [otherV]) (ts : List Thread := []) : State :=
  let s := demo
  { s with tasks := [k], fns := [f], vcores := vs, threads := ts, op := { task := 1 },
           dies := s.dies.map fun d => { d with sites := [{ s := siteOf 0, hop := 1, parent := 0 }] } }
def chosenK : Task := { soloK with st := .chosen }
def savedK : Task := { soloK with st := .chosen, saved := [⟨{ demoV with placed := false, acc := [(0, [1])] }, [demoT]⟩] }

/-- A task that is over: torn down, complete, and complete after a re-execution that gave the digest expected. -/
def overK : Task := { demoK with compl := 0x140 }
def tornK : Task := { overK with status := 5 }
def overDemo (k : Task) : State := (partDemo k partF []).setFull 0x10140 false
def againK : Task := { overK with rerun := true, st := .rerun }
def matchK : Task := { againK with expd := some ((overDemo againK).finalDigest againK) }
def missK : Task := { overK with expd := some ((overDemo overK).finalDigest overK + 1) }
def overPlace : Place := { space := 0, addr := 0x140, loc := 0x10140, slice := some 0 }

/-- The digest of a task without vcores depends on its number, its atomics and its module alone. -/
theorem digest_same {s s' : State} {k k' : Task} (hv : s.vcores = s'.vcores) (hm : k.atoms = []) (ht : k.tid = k'.tid) (ha : k.atoms = k'.atoms)
    (hp : k.peerix = k'.peerix) : s.finalDigest k = s'.finalDigest k' := by
  have hx : ∀ n, s.vcore n = s'.vcore n := by
    intro n
    simp only [State.vcore, State.vcore?, hv]
  have hz : k'.atoms = [] := by rw [← ha, hm]
  simp only [State.finalDigest, hx, ht, hm, hz, hp, List.map_nil]

theorem over_end (k : Task) (h : k.tid = 1) : ((overDemo k).task? (overDemo k).op.task) = some k := by
  simp [overDemo, State.task?, partDemo, State.setFull, h]


/-- A launch that is about to be selected, a gang about to be placed, and one about to come back. -/
def selectDemo : State := partDemo soloK
def placeDemo : State := partDemo chosenK
def backDemo : State := partDemo savedK
def haltDemo (b : Bool) : State := partDemo demoK { partF with halt := [(1, false)], halted := b } [demoV] [demoT]
def spotOf (i : Nat) : Spot := { idx := i, core := 0, mode := .partitioned, pslots := [0], abb := 1 }

/-- The end of a task does not wait for what digest is expected. -/
theorem mayEnd_same (k : Task) (e : Option (BitVec 256)) :
    (overDemo { k with expd := e }).mayEnd { k with expd := e } = (overDemo k).mayEnd k := by
  have hc : (overDemo { k with expd := e }).cmds = (overDemo k).cmds := rfl
  have ht : (overDemo { k with expd := e }).threads = (overDemo k).threads := rfl
  have hf : (overDemo { k with expd := e }).fills = (overDemo k).fills := rfl
  have hv : (overDemo { k with expd := e }).vcores = (overDemo k).vcores := rfl
  have hm : (overDemo { k with expd := e }).msgs = (overDemo k).msgs := rfl
  have hn : (overDemo { k with expd := e }).fns = (overDemo k).fns := rfl
  simp only [State.mayEnd, State.taskOver, State.chainOver, State.cmd?, State.fn, hc, ht, hf, hv, hm, hn]
  rfl

theorem again_end : (overDemo againK).mayEnd againK = true := by decide +kernel
theorem plain_end : (overDemo overK).mayEnd overK = true := by decide +kernel

theorem next_ne (x : BitVec 256) : x ≠ x + 1 := by
  intro h
  have h1 := congrArg BitVec.toNat h
  rw [BitVec.toNat_add, show (1 : BitVec 256).toNat = 1 from rfl] at h1
  have := x.isLt
  omega

theorem witness_TasksRunAndEnd :
    (selectDemo.mayTest selectDemo.op.fn = false ∧ selectDemo.maySelect selectDemo.op.fn = true ∧ selectDemo.candidate selectDemo.op.fn = some soloK ∧
      soloK.st = .ready ∧ vxB (selectDemo.readImage soloK) (fun x => x.1.length == 1984) = true) ∧
    (placeDemo.task? placeDemo.op.task = some chosenK ∧ placeDemo.mayPlace chosenK false = true ∧
      placeDemo.nextPlaces chosenK = some [spotOf 0] ∧ chosenK.nextGang = some 0 ∧ (spotOf 0).mode = .partitioned ∧ 0 < chosenK.slots) ∧
    ((haltDemo false).preempts (haltDemo false).op.fn = true ∧ (haltDemo false).migrating (haltDemo false).op.fn = false) ∧
    (((haltDemo true).fn (haltDemo true).op.fn).halted = true ∧ ((haltDemo true).fn (haltDemo true).op.fn).halt = [(1, false)] ∧
      ((haltDemo true).fn (haltDemo true).op.fn).tear = [] ∧ (haltDemo true).undrained 1 = false ∧ (haltDemo true).suspendable demoK = true ∧
      (haltDemo true).task? 1 = some demoK ∧ demoK.live = true ∧ demoK.status = 0) ∧
    (backDemo.task? backDemo.op.task = some savedK ∧ backDemo.mayPlace savedK true = true ∧ backDemo.nextPlaces savedK = some [spotOf 0]) ∧
    ((overDemo tornK).task? (overDemo tornK).op.task = some tornK ∧ (overDemo tornK).mayEnd tornK = true ∧ tornK.status ≠ 0) ∧
    ((overDemo overK).task? (overDemo overK).op.task = some overK ∧ (overDemo overK).mayEnd overK = true ∧ overK.rerun = false ∧ overK.expd = none ∧
      vxB ((overDemo overK).vaAt ((overDemo overK).gateView overK.fn overK.wait) overK.compl true) (fun p => decide (p = overPlace)) = true ∧
      (overDemo overK).full overPlace.loc = false ∧ overPlace.loc % 64 = 0 ∧ Memory.wf (overDemo overK).mem = true ∧
      (∀ i j, i < 64 → j < 64 → (overDemo overK).chan (overPlace.loc + i) = (overDemo overK).chan (overPlace.loc + j) → i = j) ∧
      (overDemo overK).vcores = []) ∧
    ((overDemo matchK).task? (overDemo matchK).op.task = some matchK ∧ (overDemo matchK).mayEnd matchK = true ∧ matchK.rerun = true ∧
      matchK.status = 0 ∧ matchK.expd = some ((overDemo matchK).finalDigest matchK)) ∧
    ((overDemo missK).task? (overDemo missK).op.task = some missK ∧ (overDemo missK).mayEnd missK = true ∧ missK.status = 0 ∧ missK.rerun = false ∧
      missK.serial = false ∧ (∃ e, missK.expd = some e ∧ (overDemo missK).finalDigest missK ≠ e) ∧
      bit ((overDemo missK).die ((overDemo missK).gateDie missK.fn)).split 5 = false) := by
  refine ⟨⟨?_, ?_, ?_, ?_, ?_⟩, ⟨?_, ?_, ?_, ?_, ?_, ?_⟩, ⟨?_, ?_⟩, ⟨?_, ?_, ?_, ?_, ?_, ?_, ?_, ?_⟩, ⟨?_, ?_, ?_⟩, ⟨over_end _ rfl, ?_, ?_⟩,
    ⟨over_end _ rfl, ?_, rfl, rfl, ?_, ?_, ?_, ?_, ?inj, rfl⟩, ⟨over_end _ rfl, ?mat, rfl, rfl, ?dig⟩, ⟨over_end _ rfl, ?mis, rfl, rfl, rfl, ?dif, ?spl⟩⟩
  case inj =>
    intro i j _ _ hc
    rw [chan_id (by decide +kernel), chan_id (by decide +kernel)] at hc
    omega
  case mat => exact (mayEnd_same againK _).trans again_end
  case dig => exact congrArg some (digest_same rfl rfl rfl rfl rfl)
  case mis => exact (mayEnd_same overK _).trans plain_end
  case dif =>
    refine ⟨_, rfl, ?_⟩
    rw [digest_same (s := overDemo missK) (s' := overDemo overK) (k := missK) (k' := overK) rfl rfl rfl rfl rfl]
    generalize (overDemo overK).finalDigest overK = x
    exact next_ne x
  case spl => decide +kernel
  all_goals decide +kernel


/-! ### The memory system -/

/-- The small machine before a step of firmware or of the memory system on die 0. -/
def memDemo (op : EvOp) (f : Die → Die := id) (t : Thread := demoT) : State := { ((demoOf t).setDie 0 f) with op := op }
def pageW (dropped : Bool) : PageWait := ⟨0, 0, 5, dropped, false, false, none⟩
def pageE : FaultEnt := ⟨6, 0, 5, 1, 0, 7⟩
def faultDemo : State := memDemo { word := BitVec.ofNat 64 (5 * 2 ^ 16) } (fun d => { d with fbuf := d.fbuf.set 3 (some pageE) }) (parkT (.page (pageW false)))
def dropDemo : State := memDemo {} (fun d => { d with drop := true }) (parkT (.page (pageW true)))

/-- The leaf of the first page of function 0, and the one that a page command gives it. -/
def leafW : Word := w64 (2 ^ 63 + 2 ^ 62 + 2 ^ 61 + 0x100)
def newLeaf : Word := w64 (2 ^ 63 + 2 ^ 62 + 2 ^ 61 + 0x300)
def pageDemo : State := memDemo {} fun d => { d with pnew := newLeaf }

/-- A page command for that page under way, to the new leaf or to none, and a step of firmware. -/
def pageC (new : Option Word) : PageCmd := ⟨0, 0, 1, 0xC000, leafW, new⟩
def pageEnd (new : Option Word) (wid : Nat) : State := memDemo { wid := wid } fun d => { d with pcmd := some (pageC new) }
def heldDemo : State := { memDemo {} with pins := [⟨0, 0, 0x80, 1⟩] }
def candDemo : State := memDemo { wid := 2 } fun d => { d with split := 8 }

/-- A compressible leaf whose block map stands at 0x40000, a list of eight granules with one allocation, and a return ring at 0x60000; the
line's block has an allocation or none. -/
def lineDemo (old : Nat) : State :=
  let s := memDemo { addr := 0x100 } fun d => { d with free := ((Vector.replicate 9 {}).set 8 { en := true, base := 0x50000, prod := 1 }).set 0 { en := true, base := 0x60000 } }
  (s.setNum 0xC000 8 (2 ^ 63 + 2 ^ 62 + 2 ^ 61 + 2 ^ 60 + 0x400)).setNum 0x40000 8 old
def retireDemo (target : Nat) (c : Option (Nat × Nat) := none) (wid : Nat := 0) : State :=
  memDemo { word := BitVec.ofNat 64 (2 ^ 63 + 5), wid := wid } fun d => { d with ctgt := target, cret := c }

/-- A walk that ends at a leaf, or at a fault. -/
def walkB (x : Walk) (f : Word → Bool → Nat → Bool) : Bool := match x with | .leaf e l a => f e l a | .fault _ => false

theorem witness_MemorySystemService :
    (walkB ((memDemo { addr := 0x100 }).leafOf 0 0 0x100) (fun e l a => e == leafW && !l && a == 0xC000) = true ∧
      ∀ x ∈ (memDemo { addr := 0x100 }).tlb, ¬(x.die = 0 ∧ x.fn = 0 ∧ x.page = 0x100 / 2 ^ 16)) ∧
    (faultDemo.thread? (parkT (.page (pageW false))).uid = some (parkT (.page (pageW false))) ∧ (pageW false).die = 0 ∧ (pageW false).dropped = false ∧
      (pageW false).held = none ∧ (pageW false).woken = false ∧ (faultDemo.die 0).fbuf[(3 : Fin 8)] = some pageE ∧ pageE.fn = (pageW false).fn ∧ pageE.page = (pageW false).page ∧
      faultDemo.op.word.getLsbD 61 = false ∧ (faultDemo.op.word.extractLsb' 52 8).toNat = (pageW false).fn ∧
      (faultDemo.op.word.extractLsb' 16 36).toNat = (pageW false).page) ∧
    (dropDemo.thread? (parkT (.page (pageW true))).uid = some (parkT (.page (pageW true))) ∧ (pageW true).die = 0 ∧ (pageW true).dropped = true) ∧
    ((memDemo {}).die 0).tinv = none ∧
    (∀ op ∈ [3, 2], let x : Word := BitVec.ofNat 64 (op * 2 ^ 62)
     let s := memDemo {} fun d => { d with tinv := some x }
     (s.die 0).tinv = some x ∧ s.tinvHeld (s.tinvCovers x) = false) ∧
    (pageDemo.op.wid = 0 ∧ (pageDemo.die 0).pcmd = none ∧ walkB (pageDemo.walk 0 (0 * 2 ^ 16)) (fun e l a => e == leafW && !l && a == 0xC000) = true ∧
      pageDemo.pinned leafW false = false ∧ (pageDemo.die 0).pnew = newLeaf ∧ entV newLeaf = true ∧
      pageDemo.leafOk 0 false newLeaf = true ∧ entSeal newLeaf = entSeal leafW ∧ entKey newLeaf = entKey leafW) ∧
    (walkB ((memDemo {}).walk 0 (0 * 2 ^ 16)) (fun e l a => e == leafW && !l && a == 0xC000) = true ∧ (memDemo {}).pinned leafW false = false ∧
      ((memDemo {}).die 0).pcmd = none ∧ entV ((memDemo {}).die 0).pnew = false) ∧
    ((heldDemo.die 0).pcmd = none ∧ heldDemo.pinned leafW false = true ∧
      walkB (heldDemo.walk 0 (0 * 2 ^ 16)) (fun e l a => e == leafW && !l && a == 0xC000) = true) ∧
    ((pageEnd none 0).op.wid = 0 ∧ ((pageEnd none 0).die 0).pcmd ≠ none) ∧
    (∀ new ∈ [some newLeaf, none], ((pageEnd new 1).die 0).pcmd = some (pageC new) ∧ (pageEnd new 1).op.wid = 1 ∧
      (pageEnd new 1).tinvHeld (pageC new).covers = false ∧ (pageEnd new 1).blocksOf (pageC new).old (pageC new).size = [] ∧
      Memory.wf (pageEnd new 1).mem = true ∧
      (∀ i j, i < 8 → j < 8 → (pageEnd new 1).chan ((pageC new).ent + i) = (pageEnd new 1).chan ((pageC new).ent + j) → i = j) ∧
      (∀ i j, i < (pageC new).size → j < (pageC new).size →
        (pageEnd new 1).chan (rawLoc newLeaf i) = (pageEnd new 1).chan (rawLoc newLeaf j) → i = j) ∧
      ∀ i j, i < (pageC new).size → j < 8 → (pageEnd new 1).chan (rawLoc newLeaf i) ≠ (pageEnd new 1).chan ((pageC new).ent + j)) ∧
    (candDemo.op.wid = 2 ∧ (candDemo.die 0).split.getLsbD 3 = true ∧ (candDemo.fn 0).aen = false ∧ candDemo.pinned leafW false = false ∧
      walkB (candDemo.walk 0 (0 * 2 ^ 16)) (fun e l a => e == leafW && !l && a == 0xC000) = true) ∧
    (∀ old ∈ [0, 2 ^ 63 + 0x800],
      walkB ((lineDemo old).leafOf 0 0 0x100) (fun e l a => !l && a == 0xC000 && decide ((placeOf e l 0x100).blk = some 0x40000)) = true ∧
      ((lineDemo old).die 0).listFor ((Config.granules (lineDemo old).tick).toNat + 1) = some 8 ∧
      (∀ d, d < 2 → ((lineDemo old).die d).split.getLsbD 6 = false) ∧ Memory.wf (lineDemo old).mem = true ∧
      (∀ j k, j < 8 → k < 8 → (lineDemo old).chan (0x40000 + j) = (lineDemo old).chan (0x40000 + k) → j = k) ∧
      (lineDemo old).dword 0x40000 = w64 old ∧ (lineDemo old).mayReturn 0 1 = true ∧ dieOfPa (entryPa (w64 old)) = 0 ∧
      ∀ j k, j < 8 → k < 8 → (lineDemo old).chan ((((lineDemo old).die 0).list 0).entry (((lineDemo old).die 0).list 0).prod + j) ≠
        (lineDemo old).chan (0x40000 + k)) ∧
    (match (memDemo { word := BitVec.ofNat 64 (5 * 2 ^ 16) }).walk 0 (5 * 2 ^ 16) with | .fault _ => true | .leaf _ _ _ => false) = true ∧
    ((retireDemo 300).op.word.getLsbD 63 = true ∧ Memory.wf (retireDemo 300).mem = true ∧
      ((retireDemo 300).die 0).cret = none ∧
      (retireDemo 300).mayRetire 0 ((retireDemo 300).op.word.extractLsb' 0 8).toNat ((retireDemo 300).die 0).ctgt = true ∧
      (retireDemo 7).mayRetire 0 ((retireDemo 7).op.word.extractLsb' 0 8).toNat ((retireDemo 7).die 0).ctgt = false) ∧
    ((retireDemo 300 (some (5, 300)) 1).op.wid ≠ 0 ∧ ((retireDemo 300 (some (5, 300)) 1).die 0).cret = some (5, 300) ∧
      (retireDemo 300 (some (5, 300)) 1).mayRetire 0 5 300 = true ∧ Memory.wf (retireDemo 300 (some (5, 300)) 1).mem = true) ∧
    ((memDemo { wid := 8 }).op.wid < 9 ∧ ((memDemo { wid := 8 }).die 0).dirty = []) := by
  refine ⟨⟨?_, ?_⟩, ⟨?_, rfl, rfl, rfl, rfl, ?_, rfl, rfl, ?_, ?_, ?_⟩, ⟨?_, rfl, rfl⟩, ?_, ?_,
    ⟨rfl, ?_, ?_, ?_, ?_, ?_, ?_, ?_, ?_⟩, ⟨?_, ?_, ?_, ?_⟩, ⟨?_, ?_, ?_⟩, ⟨rfl, ?_⟩, ?pag, ⟨rfl, ?_, ?_, ?_, ?_⟩, ?lin, ?_, ⟨?_, ?_, ?_, ?_, ?_⟩,
    ⟨?_, ?_, ?_, ?_⟩, ?_, ?_⟩
  case pag =>
    intro new hn
    have hz : ∀ a, (pageEnd new 1).chan a = a :=
      chan_id (fun d => by
        obtain rfl | rfl : new = some newLeaf ∨ new = none := by simpa using hn
        all_goals (revert d; decide +kernel))
    have hr : ∀ i, rawLoc newLeaf i = 0x30000 + i := by
      intro i
      rw [rawLoc, if_neg (by decide +kernel), show entryPa newLeaf = 0x30000 from by decide +kernel]
    have this : decide (((pageEnd new 1).die 0).pcmd = some (pageC new)) && !(pageEnd new 1).tinvHeld (pageC new).covers &&
        decide ((pageEnd new 1).blocksOf (pageC new).old (pageC new).size = []) && Memory.wf (pageEnd new 1).mem = true := by
      obtain rfl | rfl : new = some newLeaf ∨ new = none := by simpa using hn
      all_goals decide +kernel
    simp only [Bool.and_eq_true, decide_eq_true_eq, Bool.not_eq_true'] at this
    refine ⟨this.1.1.1, rfl, this.1.1.2, this.1.2, this.2, ?_, ?_, ?_⟩
    · intro i j _ _ hc; rw [hz, hz] at hc; omega
    · intro i j _ _ hc; rw [hz, hz, hr, hr] at hc; omega
    · intro i j _ hj hc
      rw [hz, hz, hr] at hc
      change 0x30000 + i = 0xC000 + j at hc
      omega
  case lin =>
    intro old ho
    have hz : ∀ a, (lineDemo old).chan a = a :=
      chan_id (fun d => by
        obtain rfl | rfl : old = 0 ∨ old = 2 ^ 63 + 0x800 := by simpa using ho
        all_goals (revert d; decide +kernel))
    have hl : ∀ n, n < 8 → ((lineDemo old).die 0).listFor (n + 1) = some 8 := by
      obtain rfl | rfl : old = 0 ∨ old = 2 ^ 63 + 0x800 := by simpa using ho
      all_goals decide +kernel
    have he : (((lineDemo old).die 0).list 0).entry (((lineDemo old).die 0).list 0).prod = 0x60000 := by
      obtain rfl | rfl : old = 0 ∨ old = 2 ^ 63 + 0x800 := by simpa using ho
      all_goals decide +kernel
    refine ⟨?_, hl _ (Config.granules _).isLt, ?_, ?_, ?_, ?_, ?_, ?_, ?_⟩
    case refine_4 => intro i j _ _ hc; rw [hz, hz] at hc; omega
    case refine_8 => intro i j _ _ hc; rw [hz, hz, he] at hc; omega
    all_goals
      obtain rfl | rfl : old = 0 ∨ old = 2 ^ 63 + 0x800 := by simpa using ho
      all_goals decide +kernel
  all_goals decide +kernel

/-! ### The host and the fleet -/

def hostDemo (flag : Bool) (addr : Nat := 0x100) : State := memDemo { addr := addr, size := 8, flag := flag, val := 9 }
def keptDemo : State := { hostDemo false with ctxs := [{ ctxC with store := 0 }] }

/-- A thread in slot 7 of core 0, whose die's lee table at 0x20000 names core 17. -/
def warmT (inh : Bool) : Thread := { demoT with pslot := 7, inh := inh }
def hotDemo (inh : Bool) : State :=
  let s := memDemo { wid := siteOf 0 } (fun d => { d with leeptr := 0x20000, sites := [0, 17].map fun c => { s := siteOf c, hop := 1, parent := 0 } }) (warmT inh)
  { (s.setNum 0x20000 8 (2 ^ 48)).setNum 0x20008 2 (siteOf 17) with fns := [{ n := 0, part := [0, 1] }] }
def softDemo (flag : Bool) : State := memDemo { flag := flag, soft := .word 0 0x100 true }

theorem witness_HostAndFleet :
    ((memDemo { addr := 0x1000 }).op.addr = 0x1000 + 64 * 0 ∧ (memDemo { addr := 0x1000 }).op.flag = false ∧ (memDemo { flag := true }).op.flag = true ∧ ((memDemo { addr := 0x1000 }).queue 0 0).en = false ∧ (memDemo { fn := 1 }).op.fn ≠ 0) ∧
    ((memDemo {}).fn 0).waiting = [] ∧
    (∀ flag, (hostDemo flag).stall = none ∧ (hostDemo flag).op.size ∈ [1, 2, 4, 8] ∧ (hostDemo flag).op.addr % (hostDemo flag).op.size = 0 ∧
      (hostDemo flag).op.addr < 2 ^ 52 ∧
      vxB ((hostDemo flag).vaAt ⟨0, 0, 0, [], 7, []⟩ (hostDemo flag).op.addr flag) (fun p => decide (p = memPlace)) = true ∧ memPlace.lc = none ∧
      (hostDemo flag).reserved 0 (hostDemo flag).op.addr 8 = false ∧ (hostDemo flag).sealedAt 0 0 (hostDemo flag).op.addr = false ∧
      (hostDemo flag).poisonP memPlace 8 = none ∧ (hostDemo flag).op.wid = 0 ∧ memPlace.addr = (hostDemo flag).op.addr ∧
      (let no := peerNo (hostDemo flag).op.vc ((hostDemo flag).op.thr % 2 ^ 13)
       (hostDemo flag).conflict no ((hostDemo flag).peerClk no) memPlace.loc memPlace.slice flag false = none) ∧ memPlace.loc % 8 = memPlace.addr % 8 ∧
      Memory.wf (hostDemo flag).mem = true) ∧
    (∀ j k, j < 8 → k < 8 → (hostDemo true).chan (memPlace.loc + j) = (hostDemo true).chan (memPlace.loc + k) → j = k) ∧
    (vxB (keptDemo.vaAt ⟨0, 0, 0, [], 7, []⟩ keptDemo.op.addr false) (fun _ => true) = true ∧ keptDemo.reserved 0 keptDemo.op.addr 8 = true) ∧
    (bit ((memDemo { wid := siteOf 0 }).die 0).split 4 = false ∧ coreAt 0 (siteOf 0) = 0 ∧ (((memDemo { wid := siteOf 0 }).die 0).hotOf 0).disabled < 8 ∧
      (memDemo { wid := siteOf 0 }).threads.find? (fun t => t.fw.isNone && t.core == 0 && t.pslot + 0 == 7 &&
        ((memDemo { wid := siteOf 0 }).away t || ((memDemo { wid := siteOf 0 }).vcore t.vu).resident)) = none) ∧
    (∀ inh, bit ((hotDemo inh).die 0).split 4 = false ∧ (((hotDemo inh).die 0).hotOf 0).disabled = 0 ∧
      (hotDemo inh).threads.find? (fun t => t.fw.isNone && t.core == 0 && t.pslot + 0 == 7 && ((hotDemo inh).away t || ((hotDemo inh).vcore t.vu).resident)) =
        some (warmT inh) ∧
      (warmT inh).inh = inh ∧ (warmT inh).looping = false ∧ (hotDemo inh).leeCore 0 ((hotDemo inh).fnOf (warmT inh)) 0 = some 17 ∧
      (hotDemo inh).thread? (warmT inh).uid = some (warmT inh)) ∧
    (softDemo true).op.soft = .word 0 0x100 true ∧ (softDemo true).op.flag = true ∧ (softDemo false).op.flag = false ∧
    ((softDemo false).die 0).split.getLsbD 3 = false ∧
    (let s := memDemo { soft := .word 0 0x100 true } fun d => { d with split := 8 }
     (s.die 0).split.getLsbD 3 = true ∧ (s.fn 0).aen = false ∧ s.op.flag = false) := by
  refine ⟨⟨?_, ?_, ?_, ?_, ?_⟩, ?_, ?_, ?inj, ⟨?_, ?_⟩, ⟨?_, ?_, ?_, ?_⟩, ?_, ?_, ?_, ?_, ?_, ?_⟩
  case inj =>
    intro j k _ _ hc
    rw [chan_id (by decide +kernel), chan_id (by decide +kernel)] at hc
    omega
  all_goals decide +kernel

/-! ### Attestation, sealing, boot -/

/-- The small machine before an SPDM message of function 0, ready or not, with a connection and the slots that are in use. -/
def spdmDemo (ready : Bool) (c : Spdm) (op : EvOp := {}) (keys : List KeySlot := []) : State :=
  { memDemo op with ready := ready, fns := [{ n := 0, spdm := c }], keys := keys, measured := [(1, 0)] }
def sealB (op slot : Nat) (n : Nat) : SealReq :=
  ⟨[1, BitVec.ofNat 8 op, BitVec.ofNat 8 (slot % 256), BitVec.ofNat 8 (slot / 256), 0, 0, 0, 0] ++ List.replicate n 0xA5, true⟩
def upC : Spdm := { version := true, caps := true, algs := true }

theorem sealB_good : ∀ slot ∈ [1, 255, 256, 4095], SealGood (sealB 1 slot 64) 1 ∧ SealGood (sealB 2 slot 0) 2 := by
  have h4 : ∀ (l m : List Byte), l.length = 4 → ∀ i, 4 ≤ i → i < 8 → ((l ++ [0, 0, 0, 0] ++ m).getD i 0).toNat = 0 := by
    intro l m hl i h1 h2
    have : i = 4 ∨ i = 5 ∨ i = 6 ∨ i = 7 := by omega
    match l, hl with
    | [_, _, _, _], _ => rcases this with rfl | rfl | rfl | rfl <;> rfl
  intro slot hs
  have e : ∀ op n, (sealB op slot n).payload =
      [1, BitVec.ofNat 8 op, BitVec.ofNat 8 (slot % 256), BitVec.ofNat 8 (slot / 256)] ++ [0, 0, 0, 0] ++ List.replicate n 0xA5 := by
    intro op n; rfl
  simp only [List.mem_cons, List.not_mem_nil, or_false] at hs
  refine ⟨⟨?_, ?_, ?_, ?_, ?_, fun i a b => ?four, rfl⟩, ⟨?_, ?_, ?_, ?_, ?_, fun i a b => ?fourB, rfl⟩⟩
  case four => rw [ruleSealByte, e]; exact h4 _ _ rfl i a b
  case fourB => rw [ruleSealByte, e]; exact h4 _ _ rfl i a b
  all_goals rcases hs with rfl | rfl | rfl | rfl <;> decide

theorem witness_AttestationAndSealing :
    (spdmDemo false {}).ready = false ∧ (spdmDemo true {}).ready = true ∧ ((spdmDemo true {}).fn 0).spdm.version = false ∧
    (let s := spdmDemo true { version := true }
     s.ready = true ∧ (s.fn s.op.fn).spdm.version = true) ∧
    (∀ flag, let s := spdmDemo true { version := true, caps := true } { flag := flag }
     s.ready = true ∧ (s.fn s.op.fn).spdm.version = true ∧ (s.fn s.op.fn).spdm.caps = true ∧ s.op.flag = flag) ∧
    (let s := spdmDemo true upC { addr := (Config.spdmBytes 2 0).length }
     s.ready = true ∧ (s.fn s.op.fn).spdm = upC ∧ s.op.wid = 0 ∧ (Config.spdmBytes 2 (b2n s.aliasKey)).length ≤ s.op.addr ∧
       (s.fn s.op.fn).spdm.session = none ∧ (s.fn s.op.fn).spdm.handshake = none) ∧
    (0 < (Config.spdmBytes 2 0).length →
      let s := spdmDemo true upC {}
      s.ready = true ∧ (s.fn s.op.fn).spdm = upC ∧ s.op.wid = 0 ∧ s.op.addr < (Config.spdmBytes 2 (b2n s.aliasKey)).length) ∧
    (let s := spdmDemo true upC { wid := 1 }
     s.ready = true ∧ (s.fn s.op.fn).spdm = upC ∧ 1 ≤ s.op.wid ∧ s.op.wid ≤ 7 ∧
       s.measured.find? (fun x => x.1 == s.op.wid) = some (s.op.wid, 0) ∧ (s.fn s.op.fn).spdm.session ≠ some s.op.wid) ∧
    (spdmDemo true upC { wid := 16 }).op.wid = 16 ∧
    (((spdmDemo true { upC with handshake := some 5 }).fn 0).spdm.handshake ≠ none) ∧
    (let s := spdmDemo true { upC with session := some 5 } { wid := 5 }
     (s.fn s.op.fn).spdm.session = some s.op.wid) ∧
    (∀ op ∈ [1, 2], let s := spdmDemo true { upC with session := some 5 } { sealReq := sealB op 4096 0 }
     ruleSealByte s.op.sealReq 1 ≠ 3 - op ∧ ¬SealGood s.op.sealReq op) ∧
    (∀ slot ∈ [1, 255, 256, 4095],
      let s := spdmDemo true { upC with session := some 5 } { sealReq := sealB 1 slot 64 } [⟨slot, 0, 1⟩]
      SealGood s.op.sealReq 1 ∧ (s.fn s.op.fn).spdm.session ≠ none ∧
        ∃ k ∈ s.keys, k.slot = ruleSealSlot s.op.sealReq ∧ k.fn ≠ s.op.fn) ∧
    (∀ slot ∈ [1, 255, 256, 4095],
      let s := spdmDemo true { upC with session := some 5 } { sealReq := sealB 1 slot 64 }
      SealGood s.op.sealReq 1 ∧ (s.fn s.op.fn).spdm.session ≠ none ∧ ∀ k ∈ s.keys, k.slot ≠ ruleSealSlot s.op.sealReq) ∧
    (∀ slot ∈ [1, 255, 256, 4095],
      let s := spdmDemo true { upC with session := some 5 } { sealReq := sealB 1 slot 64 } [⟨slot, 0, 0⟩]
      SealGood s.op.sealReq 1 ∧ (∃ k ∈ s.keys, k.slot = ruleSealSlot s.op.sealReq) ∧
        ∀ k ∈ s.keys, k.slot = ruleSealSlot s.op.sealReq → k.fn = s.op.fn) ∧
    (∀ slot ∈ [1, 255, 256, 4095],
      let s := spdmDemo true { upC with session := some 5 } { sealReq := sealB 2 slot 0 } [⟨slot, 0, 0⟩]
      SealGood s.op.sealReq 2 ∧ (s.fn s.op.fn).spdm.session ≠ none ∧
        (∀ k ∈ s.keys, k.slot = ruleSealSlot s.op.sealReq → k.fn = s.op.fn) ∧ s.slotHeld (ruleSealSlot s.op.sealReq) = false ∧
        ∀ k ∈ s.keys, k.fn = s.op.fn → s.slotHeld k.slot = false) := by
  refine ⟨rfl, rfl, rfl, ⟨rfl, rfl⟩, fun flag => ⟨rfl, rfl, rfl, rfl⟩, ⟨rfl, rfl, rfl, Nat.le_refl _, rfl, rfl⟩, fun h => ⟨rfl, rfl, rfl, h⟩,
    ⟨rfl, rfl, by decide, by decide, rfl, nofun⟩, rfl, nofun, rfl, ?bad, ?bound, ?new, ?full, ?erase⟩
  case bad =>
    intro op ho
    refine ⟨?_, fun h => ?_⟩
    · revert op; decide
    · have h5 := h.2.2.2.2.1
      simp only [List.mem_cons, List.not_mem_nil, or_false] at ho
      rcases ho with rfl | rfl <;> revert h5 <;> decide
  case bound =>
    intro slot h
    refine ⟨(sealB_good slot h).1, nofun, ⟨slot, 0, 1⟩, List.mem_cons_self, ?_, (show (1 : Nat) ≠ 0 from by decide)⟩
    revert slot; decide
  case new => exact fun slot h => ⟨(sealB_good slot h).1, nofun, fun k hk => absurd hk List.not_mem_nil⟩
  case full =>
    intro slot h
    refine ⟨(sealB_good slot h).1, ⟨⟨slot, 0, 0⟩, List.mem_cons_self, ?_⟩, ?_⟩
    · revert slot; decide
    · intro k hk _
      rw [List.mem_singleton.mp hk]
      rfl
  case erase =>
    intro slot h
    refine ⟨(sealB_good slot h).2, nofun, ?_, rfl, fun _ _ _ => rfl⟩
    intro k hk _
    rw [List.mem_singleton.mp hk]
    rfl

/-- The small machine while die 0 boots. -/
def bootDemo (d : Die) (op : EvOp := {}) : State := memDemo op fun _ => d
def bothDemo (n : Nat) : State := { memDemo {} with dies := Vector.replicate 2 { stage := n } }
def imgOf (ok first : Bool) : FwImage := ⟨first, Config.fusedSvn, 2 ^ 23, 5, ok⟩
def imgDemo (ok : Bool) : State :=
  { bootDemo {} { img := imgOf ok false } with images := [imgOf ok true, imgOf ok false], staged := [imgOf ok true] }

/-- Site 0 with its only child, and how many flits they hold. -/
def pairOf (l m : List Bool) (a b : Option Bool) : List Site := [⟨0, 1, 0xFFFF, true, l, a⟩, ⟨1, 2, 0, true, m, b⟩]
def floodOf (n : Nat) : List Site := (List.range n).map fun i => ⟨i, 1, 0, true, [], none⟩
def stub (b : Bool) : List Bool := List.replicate (Config.stubFlits.toNat + 1) b

/-- Where no site was reached in the last round, none is reached in the next. -/
theorem none_reached {die : Nat} {d : Die} (h : ∀ x ∈ d.sites, x.hop ≠ d.round) (x p : Nat) : ¬ruleReached die d d.round x p := by
  rintro ⟨-, -, -, hf⟩
  have hp := List.find?_some hf
  simp only [Option.any_eq_true] at hp
  obtain ⟨y, hy, hh⟩ := hp
  exact h y (List.mem_of_find?_eq_some hy) (by simpa using hh)

theorem flood_round (n : Nat) : ∀ x ∈ ({ stage := 4, round := 2, sites := floodOf n } : Die).sites, x.hop ≠ 2 := by
  intro x hx
  obtain ⟨i, -, rfl⟩ := List.mem_map.mp hx
  exact show (1 : Nat) ≠ 2 from by decide

theorem witness_BootToReady :
    (∀ ok, ∃ i, (imgDemo ok).staged.find? (fun i => i.first) = some i ∧ i.sigOk = ok) ∧ Memory.wf (imgDemo true).mem = true ∧
    (let s := bootDemo { stage := 2 }
     (s.die s.op.die).stage = 2 ∧ (s.die s.op.die).err = 0) ∧
    ((bootDemo { stage := 3 }).die 0).stage = 3 ∧
    (∀ n ∈ [1, 991, 992, 1024], let d := (bootDemo { stage := 4, round := 2, sites := floodOf n }).die 0
      d.stage = 4 ∧ d.err = 0 ∧ d.round ≠ 0 ∧ (∀ x p, ¬ruleReached 0 d d.round x p) ∧ d.sites.all (·.returned) = true ∧ d.sites.length = n) ∧
    (Config.fused 0 1 = false → let d := (bootDemo { stage := 4, round := 1, sites := floodOf 1 }).die 0
      d.stage = 4 ∧ d.err = 0 ∧ d.round ≠ 0 ∧ ∃ x p, ruleReached 0 d d.round x p) ∧
    (let s := bootDemo { stage := 4, round := 1, sites := [⟨1023, 1, 0, false, [], none⟩] } { wid := 1023 }
     (s.die 0).stage = 4 ∧ (s.die 0).site s.op.wid = some ⟨1023, 1, 0, false, [], none⟩ ∧ Memory.wf s.mem = true) ∧
    (((bootDemo { stage := 5 }).die 0).stage = 5 ∧ ((bootDemo { stage := 5 }).die 0).attempt = 0) ∧
    (let d := (bootDemo { stage := 5, attempt := 2, sites := pairOf [] [] (some false) none }).die 0
     d.stage = 5 ∧ d.err = 0 ∧ d.attempt < 3 ∧ ∃ x, d.site 0 = some x ∧ x.answered = some false) ∧
    (∀ n, n = 0 ∨ n = Config.stubFlits.toNat →
      let l := List.replicate n true
      let s := bootDemo { stage := 5, attempt := 1, sites := pairOf l [] none none } { wid := 0, size := n }
      (s.die 0).site s.op.wid = some ⟨0, 1, 0xFFFF, true, l, none⟩ ∧ s.op.size = l.length ∧ l.length ≤ Config.stubFlits.toNat) ∧
    (∀ n, n = 0 ∨ n = Config.stubFlits.toNat →
      let l := List.replicate n true
      let d := (bootDemo { stage := 5, attempt := 1, sites := pairOf (l ++ [false]) l none none }).die 0
      d.site 1 = some ⟨1, 2, 0, true, l, none⟩ ∧ l.length ≤ Config.stubFlits.toNat ∧
        d.site 0 = some ⟨0, 1, 0xFFFF, true, l ++ [false], none⟩ ∧ (l ++ [false])[l.length]? = some false ∧
        ∀ y ∈ (d.children 0).takeWhile (fun y => y.s != 1), l.length < y.flits.length) ∧
    (∀ b, let s := bootDemo { stage := 5, attempt := 1, sites := pairOf (stub true) (stub b) none none } { wid := 1 }
      ∃ x, (s.die 0).site s.op.wid = some x ∧ x.flits.length = Config.stubFlits.toNat + 1 ∧ x.answered = none ∧
        (∀ y ∈ (s.die 0).children x.s, y.answered ≠ none) ∧ x.s = 1 ∧ (∀ c ∈ x.flits, c = b) ∧ b ∈ x.flits ∧
        ∀ y ∈ (s.die 0).children x.s, y.answered = some true) ∧
    (∀ b a, a = 1 ∨ a = 3 → let s := bootDemo { stage := 5, attempt := a, sites := pairOf (stub true) (stub b) none (some b) }
      ∃ x, (s.die 0).site s.op.wid = some x ∧ x.flits.length = Config.stubFlits.toNat + 1 ∧ x.answered = none ∧ x.s = 0 ∧
        (s.die 0).attempt = a ∧ (∀ y ∈ (s.die 0).children x.s, y.answered ≠ none) ∧ (∀ c ∈ x.flits, c = true) ∧
        ∃ y, y ∈ (s.die 0).children x.s ∧ y.answered = some b) ∧
    (∀ n ∈ [6, 7, 8], (bothDemo n).bothAt n = true) ∧
    ruleImageErr (max Config.fusedSvn (imgDemo true).svn) (imgDemo true).op.img = 0 ∧
    ruleImageErr (max Config.fusedSvn (imgDemo false).svn) (imgDemo false).op.img ≠ 0 := by
  have hl : ∀ b, (stub b).length = Config.stubFlits.toNat + 1 := fun b => List.length_replicate
  refine ⟨fun ok => ⟨imgOf ok true, rfl, rfl⟩, ?_, ⟨rfl, rfl⟩, rfl, ?flood, ?reach, ⟨rfl, rfl, ?_⟩, ⟨rfl, rfl⟩, ⟨rfl, rfl, by decide, _, rfl, rfl⟩,
    ?root, ?child, ?ansC, ?ansR, ?_, ?_, ?_⟩
  case flood =>
    intro n hn
    refine ⟨rfl, rfl, nofun, none_reached (flood_round n), ?_, ?_⟩
    · exact List.all_eq_true.mpr fun x hx => by obtain ⟨i, -, rfl⟩ := List.mem_map.mp hx; rfl
    · exact (List.length_map _).trans List.length_range
  case reach => exact fun h => ⟨rfl, rfl, nofun, 1, 0, by decide, h, rfl, rfl⟩
  case root =>
    intro n hn
    refine ⟨rfl, List.length_replicate.symm, ?_⟩
    rw [List.length_replicate]
    omega
  case child =>
    intro n hn
    refine ⟨rfl, ?_, rfl, ?_, nofun⟩
    · rw [List.length_replicate]
      omega
    · simp
  case ansC =>
    intro b
    exact ⟨_, rfl, hl b, rfl, nofun, rfl, fun c hc => List.eq_of_mem_replicate hc, List.mem_replicate.mpr ⟨by omega, rfl⟩, nofun⟩
  case ansR =>
    intro b a ha
    refine ⟨_, rfl, hl true, rfl, rfl, rfl, ?_, fun c hc => List.eq_of_mem_replicate hc, _, List.mem_cons_self, rfl⟩
    intro y hy
    have : y ∈ [(⟨1, 2, 0, true, stub b, some b⟩ : Site)] := hy
    rw [List.mem_singleton.mp this]
    nofun
  · decide +kernel
  · decide +kernel
  · decide +kernel
  · show (if (true = false) ∨ 8 * 2 ^ 20 < 2 ^ 23 then 1 else if Config.fusedSvn < max Config.fusedSvn 0 then 2 else 0) = 0
    simp
  · show (if (false = false) ∨ 8 * 2 ^ 20 < 2 ^ 23 then 1 else if Config.fusedSvn < max Config.fusedSvn 0 then 2 else 0) ≠ 0
    simp

/-! ### Encodings, and the machine as a whole -/

/-- BFXU g5, g6, 8, 4 as the row of the opcode table numbers it, placed where the machine fetches next. -/
def bfxuDemo : State := State.reset.withFetchWord 96 (0x0000C50E + 2 ^ 32 * 0x0000C801)

theorem witness_DecodeAfterEncode : (∀ i ∈ [Instr.bfxu ⟨5, 6, 8, 3⟩, .illegalInstruction 0, .bfi ⟨1, 2, .imm 0, 33, 30⟩, .jmp 0x7FFFC],
    i.wf = true ∧ i.encoded = true) ∧ ¬(Instr.bfi ⟨1, 2, .imm 0, 33, 31⟩).wf = true := by decide

theorem witness_EncodeAfterDecode : decodeWords (wordsOf [0x0000C50E, 0x0000C801, 0]) = .ok (.bfxu ⟨5, 6, 8, 3⟩) ∧
    fMajor (([0x0000C50E, 0x0000C801, 0] : List (BitVec 32)).getD 0 0) ≠ 0 ∧ decodeWords (wordsOf [0]) = .ok (.illegalInstruction 0) := by decide

/-- Whether a thread of a core is about to issue what stands at its pc, with the length of its instruction. -/
def issuesB (s : State) (key : Nat) : Bool :=
  match s.pass key with
  | (t :: rest, fresh) => (s.turned key t rest fresh).me.firstHeld.isNone &&
    (match (s.turned key t rest fresh).boundary with
     | .ok () s1 => (match s1.fetch s1.me.pc with
       | .bytes l => (match decodeBytes l with
         | .ok i => (match exec i s1 with
           | .next s2 => (s2.second ((wordsOfBytes l).getD 0 0) (lenOfBytes l) s1.me).isNone
           | _ => false)
         | _ => false)
       | _ => false)
     | .stop _ => false)
  | _ => false

theorem issues_of {s : State} {key : Nat} (h : issuesB s key = true) :
    ∃ (s1 : State) (t : Thread) (rest : List Thread) (fresh : Bool) (l : List Byte) (i : Instr) (s2 : State),
      s.pass key = (t :: rest, fresh) ∧ (s.turned key t rest fresh).me.firstHeld = none ∧
      (s.turned key t rest fresh).boundary = .ok () s1 ∧ s1.fetch s1.me.pc = .bytes l ∧ decodeBytes l = .ok i ∧ exec i s1 = .next s2 ∧
      s2.second ((wordsOfBytes l).getD 0 0) (lenOfBytes l) s1.me = none := by
  unfold issuesB at h
  split at h
  · rename_i t rest fresh hp
    obtain ⟨h0, h⟩ := Bool.and_eq_true_iff.mp h
    split at h
    · rename_i s1 hb
      split at h
      · rename_i l hf
        split at h
        · rename_i i hd
          split at h
          · rename_i s2 he
            exact ⟨s1, t, rest, fresh, l, i, s2, hp, Option.isNone_iff_eq_none.mp h0, hb, hf, hd, he, Option.isNone_iff_eq_none.mp h⟩
          · cases h
        · cases h
      · cases h
    · cases h
  · cases h

theorem witness_StepRunsTheDecodedInstruction : nextAgent bfxuDemo bfxuDemo.agents = some (.core 0) ∧
    ∃ (s1 : State) (t : Thread) (rest : List Thread) (fresh : Bool) (l : List Byte) (i : Instr) (s2 : State),
      bfxuDemo.pass 0 = (t :: rest, fresh) ∧ (bfxuDemo.turned 0 t rest fresh).me.firstHeld = none ∧
      (bfxuDemo.turned 0 t rest fresh).boundary = .ok () s1 ∧ s1.fetch s1.me.pc = .bytes l ∧ decodeBytes l = .ok i ∧ exec i s1 = .next s2 ∧
      s2.second ((wordsOfBytes l).getD 0 0) (lenOfBytes l) s1.me = none := by
  exact ⟨by decide +kernel, issues_of (by decide +kernel)⟩

theorem witness_InstructionsAlwaysAnswer :
    (Instr.bfxu ⟨5, 6, 8, 3⟩).encoded = true ∧ demo.cur = some demoT.uid ∧ demo.thread? demoT.uid = some demoT := by decide +kernel

/-- A next state, or what is read from one. -/
def afterB (o : Host.Outcome State Fault Refusal) (f : State → Bool) : Bool := match o with | .next s => f s | _ => false

/-- No lane holds anything back, and no task is suspended. -/
def looseB (s : State) : Bool := s.threads.all (fun t => t.lane.isNone) && s.tasks.all fun k => k.saved.isEmpty

theorem loose_holds {s : State} (h : looseB s = true) : s.holdsInstructions := by
  obtain ⟨h1, h2⟩ := Bool.and_eq_true_iff.mp h
  intro t ht l hl
  rcases List.mem_append.mp ht with ht | ht
  · rw [Option.isNone_iff_eq_none.mp (List.all_eq_true.mp h1 t ht)] at hl
    cases hl
  · obtain ⟨v, hv, -⟩ := List.mem_flatMap.mp ht
    obtain ⟨k, hk, hv⟩ := List.mem_flatMap.mp hv
    rw [List.isEmpty_iff.mp (List.all_eq_true.mp h2 k hk)] at hv
    cases hv

theorem witness_MachineNeverStops : State.reset.Inv := ⟨rfl, loose_holds rfl⟩

theorem witness_StepKeepsTheInvariant : bfxuDemo.Inv ∧ afterB (step bfxuDemo) (fun _ => true) = true :=
  ⟨⟨by decide +kernel, loose_holds (by decide +kernel)⟩, by decide +kernel⟩

/-! ## Single steps with results from the spec's rules -/

/-- 11 R258, with the chapter's example: BFXU g5, g6, 8, 4 with g6 = 0xA5F0 gives 5. -/
theorem test_bfxu : afterB (exec (.bfxu ⟨5, 6, 8, 3⟩) demo) (fun s => s.me.gr 5 == 5) = true := by decide +kernel


/-- 04 R113, the table of its examples (code, or the value that a read with scale 0.5 gives). -/
theorem test_quantise : quantStore .int8 0x3FE60000 0x3F000000 96 = 0x04 ∧ dequantRead .int8 0x04 0x3F000000 96 = 0x3FEFC000 ∧
    quantStore .e4m3 0x417E0000 0x3F800000 96 = 0x58 ∧ quantStore .e4m3 0x417E0000 0x3F800000 0 = 0x57 ∧
    quantStore .int8 0xC2FE8000 0x3F800000 0 = 0x81 := by decide +kernel

/-- 04 R122, its example: P = 2^34 with the unit 2^-32, 0.5, 0.25 and 1.0 give 1.5; a NaN marker gives the canonical NaN. -/
theorem test_msacc : msaccElem 0x3F800000 0x3F000000 0x3E800000 0x0000000400000000 (-32) = 0x3FC00000 ∧
    msaccElem 0x3F800000 0x3F000000 0x3E800000 0x8000000000000000 (-32) = 0x7FC00000 := by decide +kernel

/-- 13, VRCPE.f32 of 3.0. -/
theorem test_estimate : rcpe f32 (val32 0x40400000) = 0x3EAB0000 := by decide +kernel

/-- 10 R242, 11 R258: the immediate is signed, the sum wraps, and the destination may be the source. -/
theorem test_add_wraps : afterB (exec (.add ⟨7, 7, .imm 0xFF⟩) demo) (fun s => s.me.gr 7 == 2 && s.me.pc == 0x44) = true := by decide +kernel

end Sys2Proof.Machine
end

section
/-!
SUPPORT. Proofs about segment descriptors (02 R43, R44; 12 R295): a recorded load of a calm thread, and with it SEGLD.
-/
namespace Sys2Proof.Machine

/-! ### Bits and bytes -/

theorem bits_eq_extractLsb' {n : Nat} (x : BitVec n) (hi lo : Nat) : bits x hi lo = (x.extractLsb' lo (hi + 1 - lo)).toNat := by
  rw [bits, BitVec.extractLsb'_toNat]

theorem bit_eq_getLsbD {n : Nat} (x : BitVec n) (i : Nat) : bit x i = x.getLsbD i := rfl

theorem natOfBytes_lt (l : List Byte) : natOfBytes l < 256 ^ l.length := by
  induction l with
  | nil => simp [natOfBytes]
  | cons b l ih =>
    have hb : b.toNat < 256 := b.isLt
    rw [natOfBytes, List.length_cons, Nat.pow_succ]
    omega

/-- Eight bytes: the top bit of their number is that of the doubleword. -/
theorem topBit_natOfBytes {l : List Byte} (hl : l.length = 8) :
    (natOfBytes l / 2 ^ 63 == 1) = (w64 (natOfBytes l)).getLsbD 63 := by
  have hlt : natOfBytes l < 2 ^ 64 := by simpa [hl] using natOfBytes_lt l
  have hdiv : natOfBytes l / 2 ^ 63 < 2 := by omega
  rw [w64, BitVec.getLsbD_ofNat, Nat.testBit_eq_decide_div_mod_eq, Nat.mod_eq_of_lt hdiv]
  simp only [Bool.beq_eq_decide_eq, Nat.reduceLT, decide_true, Bool.true_and]

/-! ### Well-formed descriptors (02 R44) -/

/-- The check in the fields of R43: SPACE [62:61], CLUSTER [60:54], BASE [51:0] and LIMIT of the second word. -/
theorem Seg.wf_iff (e : Seg) (absz : Nat) : e.wf absz = true ↔
    (e.lo.getLsbD 63 = false ∨
      ((e.lo.extractLsb' 61 2).toNat ≠ 3 ∧ e.lo.extractLsb' 0 6 = 0 ∧ e.lo.extractLsb' 52 2 = 0 ∧ e.hi.extractLsb' 52 7 = 0 ∧
       ((e.lo.extractLsb' 61 2).toNat ≠ 2 → e.lo.extractLsb' 54 7 = 0) ∧
       (let top := (e.lo.extractLsb' 0 52).toNat + (e.hi.extractLsb' 0 52).toNat
        match (e.lo.extractLsb' 61 2).toNat with
        | 0 => top ≤ 2 ^ 52 - 1
        | 1 => top < absz * 4096
        | _ => top ≤ 0x17FFFF))) := by
  simp only [Seg.wf, bit_eq_getLsbD, bits_eq_extractLsb', Nat.reduceAdd, Nat.reduceSub]
  generalize (e.lo.extractLsb' 61 2).toNat = sp
  generalize (e.lo.extractLsb' 0 52).toNat + (e.hi.extractLsb' 0 52).toNat = top
  simp only [Bool.or_eq_true, Bool.and_eq_true, Bool.not_eq_true', bne_iff_ne, beq_iff_eq, and_assoc, ne_eq,
    BitVec.toNat_eq, BitVec.ofNat_eq_ofNat, BitVec.toNat_ofNat, Nat.zero_mod]
  have hspace0 : top ≤ 2 ^ 52 - 1 ↔ top < 2 ^ 52 := by omega
  match sp with
  | 0 => simp only [hspace0, reduceCtorEq, not_false_eq_true, true_and, false_or, forall_const, decide_eq_true_eq]
  | 1 => simp only [Nat.reduceEqDiff, not_false_eq_true, true_and, false_or, forall_const, decide_eq_true_eq]
  | 2 => simp only [Nat.reduceEqDiff, not_false_eq_true, not_true_eq_false, true_and, true_or, false_implies, decide_eq_true_eq]
  | n + 3 => simp only [Nat.reduceEqDiff, Nat.add_eq_right, not_false_eq_true, false_or, forall_const, decide_eq_true_eq]

/-! ### A recorded load -/

/-- An access that a calm thread reaches passes its segment check and its flume, and translates. -/
theorem Calm.reaches_ok {s : State} {t : Thread} (h : Calm s t) {seg : BitVec 3} {e : Int} {size align need : Nat} {wr : Bool}
    {mig : SegA → Bool} {lcOk : Bool} {p : Place} (hr : Reaches s t seg e size align need wr mig lcOk p) (len : Nat) :
    ∃ a, segR seg e size align need wr s = .ok a s ∧ stageR a size s = .ok a s ∧
      transR len a wr lcOk (b2n wr) s = .ok p s ∧ (mig a = true → s.migrateTo (s.sliceNow a) = none) := by
  obtain ⟨a, hu, hst, hmig, htr⟩ := hr
  refine ⟨a, by simp only [segR, hu], ?_, by simp only [transR, htr], hmig⟩
  by_cases ha : a.space = 1
  · obtain ⟨haway, hno⟩ := hst ha
    simp only [stageR, ha, ne_eq, not_true_eq_false, if_false, h.homeGate_ok haway, R.bind_ok, h.me, h.agentT, hno]
  · simp only [stageR, ne_eq, ha, not_false_eq_true, if_true]

/-- A recorded load that meets neither poison nor a conflict brings the bytes of memory. -/
theorem Issuing.load_recorded {s : State} {t : Thread} (h : Issuing s t) {p : Place} {n : Nat} (hp : s.poisonTrap p n = none)
    (hc : s.clashP p n false false = none) : s.load p n true = .val (s.readP p n) (s.recordP p n false false) := by
  simp only [State.load, State.loadBoth, h.me, h.not_spec, hp, hc, Bool.not_false, Bool.and_self, Bool.false_eq_true, if_true,
    if_false]

@[simp] theorem State.readP_length (s : State) (p : Place) (n : Nat) : (s.readP p n).length = n := by
  simp only [State.readP, List.length_map, List.length_range]

/-- Recording an access changes the side records of words alone. -/
theorem State.recordP_frame (s : State) (p : Place) (n : Nat) (write sync : Bool) :
    (s.recordP p n write sync).cur = s.cur ∧ (s.recordP p n write sync).threads = s.threads ∧
      (s.recordP p n write sync).tasks = s.tasks := by
  unfold State.recordP
  induction wordOffs p.addr n generalizing s with
  | nil => exact ⟨rfl, rfl, rfl⟩
  | cons i l ih => exact ih (s.record (p.at i) (s.accOf write sync))

theorem Calm.recordP {s : State} {t : Thread} (h : Calm s t) (p : Place) (n : Nat) (write sync : Bool) :
    Calm (s.recordP p n write sync) t := by
  obtain ⟨hcur, hthreads, -⟩ := s.recordP_frame p n write sync
  exact h.of_eq hcur hthreads

theorem State.task_recordP (s : State) (p : Place) (n : Nat) (write sync : Bool) (k : Nat) :
    (s.recordP p n write sync).task k = s.task k := by
  obtain ⟨-, -, htasks⟩ := s.recordP_frame p n write sync
  simp only [State.task, State.task?, htasks]

/-! ### SEGLD -/

/-- SEGLD's write of a descriptor to its segment register. -/
def Thread.loadSeg (t : Thread) (d : BitVec 3) (e : Seg) : Thread :=
  { t with sg := t.sg.set d.toNat e d.isLt, sgw := t.sgw ||| (1#8 <<< d.toNat) }

theorem finish_loadSeg (s : State) (d : BitVec 3) (e : Seg) (n : Nat) :
    finish n (s.upd fun u => u.loadSeg d e) = .ok () (s.wentOn n fun u => u.loadSeg d e) := by
  rw [finish_eq, State.wentOn, State.upd_upd _ (fun u => u.loadSeg d e) _ fun _ => rfl]
  rfl

/-- The descriptor that SEGLD takes from sixteen bytes. -/
def segOfBytes (bs : List Byte) : Seg :=
  Seg.kept ⟨w64 (natOfBytes (bs.take 8)), w64 (natOfBytes (bs.drop 8))⟩ (natOfBytes (bs.take 8) / 2 ^ 63 == 1)

theorem segOfBytes_eq {bs : List Byte} (hbs : bs.length = 16) :
    segOfBytes bs =
      (let lo := w64 (natOfBytes (bs.take 8))
       let hi := w64 (natOfBytes (bs.drop 8))
       if lo.getLsbD 63 then ⟨lo, hi⟩ else ⟨lo &&& ~~~(3#64 <<< 52), hi &&& ~~~(127#64 <<< 52)⟩) := by
  rw [segOfBytes, topBit_natOfBytes (by rw [List.length_take, hbs]; rfl), Seg.kept]

/-- A SEGLD whose bytes are read without a trap: R44 decides between the load and the illegal-operand fault. -/
theorem Calm.exec_segld {s : State} {t : Thread} (h : Calm s t) {d : BitVec 3} {a : R5} {seg : BitVec 3} {p : Place}
    (hr : Reaches s t seg (t.gr a).toInt 16 16 needRD false (fun _ => false) false p) (hp : s.poisonTrap p 16 = none)
    (hc : s.clashP p 16 false false = none) :
    exec (.segld d a seg) s = run s fun _ =>
      if !(segOfBytes (s.readP p 16)).wf (s.task t.task).absz then illegalR 0 (s.recordP p 16 false false)
      else finish 4 ((s.recordP p 16 false false).upd fun u => u.loadSeg d (segOfBytes (s.readP p 16))) := by
  obtain ⟨x, hseg, hstage, htrans, -⟩ := h.reaches_ok hr 4
  simp only [b2n, Bool.false_eq_true, if_false] at htrans
  have hrun : exec (.segld d a seg) s = execSegld d a seg s := rfl
  rw [hrun, execSegld, run_of_issuing h.toIssuing, run_of_issuing h.toIssuing]
  simp only [h.needRegs_free (h.freeOf [a]), h.accessGate_ok, h.me, hseg, hstage, h.specAccess_ok, htrans, R.bind_ok,
    h.load_recorded hp hc, (h.recordP p 16 false false).me, s.task_recordP]
  rfl

/-- Settles O18: the fields of R44 are the check's own, and SEGLD's gates pass where its access reaches a place. -/
theorem segmentDescriptors : Obligations.SegmentDescriptors := by
  unfold Obligations.SegmentDescriptors
  refine ⟨Seg.wf_iff, fun s t h d a seg p hr hp hc => ?_⟩
  intro lo hi e
  have hexec := h.exec_segld (d := d) hr hp hc
  have he : segOfBytes (s.readP p 16) = e := segOfBytes_eq (s.readP_length p 16)
  rw [run_of_issuing h.toIssuing, he] at hexec
  constructor
  · intro hwf
    simp only [hexec, hwf, Bool.not_true, Bool.false_eq_true, if_false, finish_loadSeg]
    rfl
  · intro hwf hinh
    simp only [hexec, hwf, Bool.not_false, if_true, (h.recordP p 16 false false).illegalR_eq hinh]

end Sys2Proof.Machine
end

section
/-!
SUPPORT. Proofs about block products (04 R119, R120): what a column of a block product holds, and how far the de-dithered values of 04 R112
reach in steps of their format.
-/
namespace Sys2Proof.Machine

/-! ### A column of a block product -/

/-- One pair of a column joins its sum; a NaN in the pair or before it leaves none. -/
def accumulate (p : Option Int) (x : Option Int × Option Int) : Option Int :=
  match x.1, x.2, p with
  | some a, some b, some z => some (z + a * b)
  | _, _, _ => none

/-- One of the two codes of a pair is a NaN. -/
def PairNan (x : Option Int × Option Int) : Prop := x.1 = none ∨ x.2 = none

/-- The product of a pair without a NaN. -/
def pairProduct (x : Option Int × Option Int) : Int := x.1.getD 0 * x.2.getD 0

/-- The word of a column: the NaN marker, or its sum in units of the pair. -/
def sumWord (sh : Nat) : Option Int → Word
  | none => BitVec.ofNat 64 (2 ^ 63)
  | some x => BitVec.ofInt 64 (x * 2 ^ sh)

/-- The 128 pairs of a strip and a column of a tile. -/
def columnPairs (a : List (Option Int)) (w : List (List (Option Int))) (c : Nat) : List (Option Int × Option Int) :=
  (List.range 128).map fun k => (a.getD k none, (w.getD k []).getD c none)

theorem accumulate_of_nan (p : Option Int) {x : Option Int × Option Int} (h : PairNan x) : accumulate p x = none := by
  obtain ⟨a, b⟩ := x
  rcases h with h | h
  · obtain rfl : a = none := h
    rfl
  · obtain rfl : b = none := h
    cases a <;> rfl

@[simp] theorem accumulate_none (x : Option Int × Option Int) : accumulate none x = none := by
  obtain ⟨_ | a, _ | b⟩ := x <;> rfl

theorem accumulate_some (z : Int) {x : Option Int × Option Int} (h : ¬PairNan x) :
    accumulate (some z) x = some (z + pairProduct x) := by
  obtain ⟨_ | a, _ | b⟩ := x
  · exact absurd (.inl rfl) h
  · exact absurd (.inl rfl) h
  · exact absurd (.inr rfl) h
  · rfl

theorem foldl_accumulate_none (l : List (Option Int × Option Int)) : l.foldl accumulate none = none := by
  induction l with
  | nil => rfl
  | cons x l ih => rw [List.foldl_cons, accumulate_none, ih]

/-- A NaN anywhere in a column stays to its end (04 R120). -/
theorem foldl_accumulate_of_nan {l : List (Option Int × Option Int)} (p : Option Int) (h : ∃ x ∈ l, PairNan x) :
    l.foldl accumulate p = none := by
  obtain ⟨x, hx, hnan⟩ := h
  obtain ⟨l₁, l₂, rfl⟩ := List.append_of_mem hx
  rw [List.foldl_append, List.foldl_cons, accumulate_of_nan _ hnan, foldl_accumulate_none]

/-- A column without a NaN adds up its products (04 R119). -/
theorem foldl_accumulate_of_noNan {l : List (Option Int × Option Int)} (z : Int) (h : ∀ x ∈ l, ¬PairNan x) :
    l.foldl accumulate (some z) = some (z + (l.map pairProduct).sum) := by
  induction l generalizing z with
  | nil => simp
  | cons x l ih =>
    rw [List.forall_mem_cons] at h
    rw [List.foldl_cons, accumulate_some z h.1, ih _ h.2, List.map_cons, List.sum_cons, Int.add_assoc]

@[simp] theorem addRow_length (a : Option Int) (ps ws : List (Option Int)) : (addRow a ps ws).length = ps.length := by
  induction ps generalizing ws with
  | nil => rfl
  | cons p ps ih => cases ws <;> simp [addRow, ih]

/-- A row of weights joins each column on its own. -/
theorem addRow_getD (a : Option Int) {ps ws : List (Option Int)} {c : Nat} (hp : c < ps.length) (hw : c < ws.length) :
    (addRow a ps ws).getD c none = accumulate (ps.getD c none) (a, ws.getD c none) := by
  induction ps generalizing ws c with
  | nil => exact absurd hp (Nat.not_lt_zero c)
  | cons p ps ih =>
    cases ws with
    | nil => exact absurd hw (Nat.not_lt_zero c)
    | cons w ws =>
      cases c with
      | zero => rfl
      | succ c => exact ih (Nat.lt_of_succ_lt_succ hp) (Nat.lt_of_succ_lt_succ hw)

theorem foldl_addRow_getD {c : Nat} (l : List (Option Int × List (Option Int))) {ps : List (Option Int)} (hp : c < ps.length)
    (hl : ∀ x ∈ l, c < x.2.length) :
    (l.foldl (fun p x => addRow x.1 p x.2) ps).getD c none =
      (l.map fun x => (x.1, x.2.getD c none)).foldl accumulate (ps.getD c none) := by
  induction l generalizing ps with
  | nil => rfl
  | cons x l ih =>
    rw [List.forall_mem_cons] at hl
    rw [List.foldl_cons, ih (by rwa [addRow_length]) hl.2, addRow_getD x.1 hp hl.1, List.map_cons, List.foldl_cons]

theorem foldl_addRow_length (l : List (Option Int × List (Option Int))) (ps : List (Option Int)) :
    (l.foldl (fun p x => addRow x.1 p x.2) ps).length = ps.length := by
  induction l generalizing ps with
  | nil => rfl
  | cons x l ih => rw [List.foldl_cons, ih, addRow_length]

section BlockProduct

variable {a : List (Option Int)} {w : List (List (Option Int))} (ha : a.length = 128) (hw : w.length = 128)
include ha hw

/-- The strip beside the rows of the tile, seen in one column. -/
theorem zip_column (c : Nat) : ((a.zip w).map fun x => (x.1, x.2.getD c none)) = columnPairs a w c := by
  refine List.ext_getElem (by simp [columnPairs, ha, hw]) fun k h₁ h₂ => ?_
  have hk : k < 128 := by simpa [columnPairs] using h₂
  have hka : k < a.length := ha ▸ hk
  have hkw : k < w.length := hw ▸ hk
  simp [columnPairs, List.getElem?_eq_getElem hka, List.getElem?_eq_getElem hkw]

/-- What a column of a block product holds, by the fold of its pairs. -/
theorem blockProduct_getD (sh : Nat) (hrow : ∀ r ∈ w, r.length = 128) {c : Nat} (hc : c < 128) :
    (blockProduct sh a w).getD c 0 = sumWord sh ((columnPairs a w c).foldl accumulate (some 0)) := by
  have hzero : c < (List.replicate 128 (some (0 : Int))).length := by rwa [List.length_replicate]
  have hcol := foldl_addRow_getD (a.zip w) hzero fun x hx => by rw [hrow x.2 (List.of_mem_zip hx).2]; exact hc
  have hfold : c < ((a.zip w).foldl (fun p x => addRow x.1 p x.2) (List.replicate 128 (some 0))).length := by
    rwa [foldl_addRow_length]
  rw [zip_column ha hw, ← List.getElem_eq_getD (h := hzero), List.getElem_replicate, ← List.getElem_eq_getD (h := hfold)] at hcol
  rw [blockProduct, ← List.getElem_eq_getD (h := by rwa [List.length_map]), List.getElem_map, hcol]
  rfl

end BlockProduct

theorem columnPairs_nan_iff (a : List (Option Int)) (w : List (List (Option Int))) (c : Nat) :
    (∃ x ∈ columnPairs a w c, PairNan x) ↔ ∃ k, k < 128 ∧ (a.getD k none = none ∨ (w.getD k []).getD c none = none) := by
  simp only [columnPairs, List.mem_map, List.mem_range]
  constructor
  · rintro ⟨x, ⟨k, hk, rfl⟩, hx⟩
    exact ⟨k, hk, hx⟩
  · rintro ⟨k, hk, hx⟩
    exact ⟨_, ⟨k, hk, rfl⟩, hx⟩

theorem columnPairs_products (a : List (Option Int)) (w : List (List (Option Int))) (c : Nat) :
    (columnPairs a w c).map pairProduct =
      (List.range 128).map fun k => (a.getD k none).getD 0 * ((w.getD k []).getD c none).getD 0 := by
  rw [columnPairs, List.map_map]
  rfl

/-! ### De-dithered values in steps (04 R112) -/

/-- The largest magnitude of a de-dithered value in steps of its format: 463.875 for E4M3 and 127.49609375 for the integers (04 R119). -/
def NFmt.reach : NFmt → Nat
  | .e4m3 => 448 * 2 ^ 17 + 127 * 2 ^ 14
  | _ => 127 * 2 ^ 8 + 127

theorem NFmt.bits_eq_eight {f : NFmt} (h : f ≠ .int4) : f.bits = 8 := by
  cases f with
  | e4m3 | int8 => rfl
  | int4 => exact absurd rfl h

/-- A significand moves down in two stages. -/
theorem Dy.at_at (x : Dy) {e e' : Int} (h : e ≤ e') (h' : e' ≤ x.e) : x.at e' * 2 ^ (e' - e).toNat = x.at e := by
  rw [Dy.at, Dy.at, Int.mul_assoc, ← Int.pow_add]
  congr 2
  omega

/-- A sum is exact below both exponents. -/
theorem Dy.add_at {x y : Dy} {e : Int} (hx : e ≤ x.e) (hy : e ≤ y.e) : (x.add y).at e = x.at e + y.at e := by
  have hmin : e ≤ min x.e y.e := Int.le_min.mpr ⟨hx, hy⟩
  rw [← x.at_at hmin (Int.min_le_left _ _), ← y.at_at hmin (Int.min_le_right _ _), ← Int.add_mul]
  rfl

theorem binade_mem (v : Dy) : -6 ≤ binade v ∧ binade v ≤ 8 := by
  unfold binade
  split
  · omega
  next h =>
    simp only [Bool.or_eq_true, decide_eq_true_eq, not_or] at h
    omega

theorem Dy.natAbs_at (x : Dy) (e : Int) : (x.at e).natAbs = x.m.natAbs * 2 ^ (x.e - e).toNat := by
  rw [Dy.at, Int.natAbs_mul, Int.natAbs_pow]
  rfl

/-- An E4M3 number is a whole number of steps and at most 448 (04 R104). -/
theorem decE4_reach : ∀ code < 256, ∀ v ∈ decE4 code, -17 ≤ v.e ∧ (v.at (-17)).natAbs ≤ 448 * 2 ^ 17 := by decide +kernel

/-- The offset of a dithered E4M3 code is at most 127/256 of a unit of the binade 8. -/
theorem ditherAt_reach {k : Nat} (hk : k < 128) {b : Int} (hb : -6 ≤ b ∧ b ≤ 8) :
    -17 ≤ (ditherAt k b).e ∧ (Dy.at ⟨-(ditherAt k b).m, (ditherAt k b).e⟩ (-17)).natAbs ≤ 127 * 2 ^ 14 := by
  refine ⟨show -17 ≤ b - 3 - 8 by omega, ?_⟩
  have hpow : 2 ^ ((ditherAt k b).e - -17).toNat ≤ 2 ^ 14 :=
    Nat.pow_le_pow_right (by decide) (show (b - 3 - 8 - -17).toNat ≤ 14 by omega)
  have hm : (-(ditherAt k b).m).natAbs ≤ 127 := show (-(2 * (k : Int) - 127)).natAbs ≤ 127 by omega
  rw [Dy.natAbs_at]
  exact Nat.mul_le_mul hm hpow

theorem stepVal_e4m3_natAbs_le {code k : Nat} (hcode : code < 256) (hk : k < 128) {x : Int} (h : stepVal .e4m3 code k = some x) :
    x.natAbs ≤ NFmt.e4m3.reach := by
  simp only [stepVal, dequant, Option.map_map, Option.map_eq_some_iff, Function.comp_apply, NFmt.step] at h
  obtain ⟨v, hv, rfl⟩ := h
  obtain ⟨hve, hv⟩ := decE4_reach code hcode v hv
  obtain ⟨hde, hd⟩ := ditherAt_reach hk (binade_mem v)
  rw [Dy.add_at hve (y := ⟨-(ditherAt k (binade v)).m, (ditherAt k (binade v)).e⟩) hde]
  exact Nat.le_trans (Int.natAbs_add_le _ _) (Nat.add_le_add hv hd)

/-- The two's-complement value of an integer code. -/
def NFmt.signed (f : NFmt) (code : Nat) : Int := if code < 2 ^ (f.bits - 1) then code else (code : Int) - 2 ^ f.bits

theorem stepVal_integer {f : NFmt} (hf : f ≠ .e4m3) (code k : Nat) :
    stepVal f code k = if code = f.nan then none else some ((Dy.add ⟨f.signed code, 0⟩ ⟨-(ditherOf k).m, -8⟩).at (-8)) := by
  cases f with
  | e4m3 => exact absurd rfl hf
  | int8 | int4 =>
    rw [stepVal, dequant, apply_ite (Option.map _)]
    · rfl
    · exact hf

/-- The code of −128 or −8 is the NaN, so that the numbers reach as far down as up (04 R105). -/
theorem NFmt.signed_natAbs_le {f : NFmt} (hf : f ≠ .e4m3) {code : Nat} (hcode : code < 2 ^ f.bits) (hnan : code ≠ f.nan) :
    (f.signed code).natAbs ≤ 127 := by
  cases f with
  | e4m3 => exact absurd rfl hf
  | int8 | int4 =>
    simp only [NFmt.bits, NFmt.nan, NFmt.signed, Nat.reducePow, Nat.reduceSub, Int.reducePow] at hcode hnan ⊢
    omega

theorem stepVal_integer_natAbs_le {f : NFmt} (hf : f ≠ .e4m3) {code k : Nat} (hcode : code < 2 ^ f.bits) (hk : k < 128) {x : Int}
    (h : stepVal f code k = some x) : x.natAbs ≤ 127 * 2 ^ 8 + 127 := by
  rw [stepVal_integer hf] at h
  obtain ⟨hnan, hx⟩ := Option.ite_none_left_eq_some.mp h
  cases hx
  have hadd := Dy.add_at (x := ⟨f.signed code, 0⟩) (y := ⟨-(ditherOf k).m, -8⟩) (e := -8)
    (show (-8 : Int) ≤ 0 by decide) (Int.le_refl (-8))
  have hscale : (Dy.at ⟨f.signed code, 0⟩ (-8)).natAbs ≤ 127 * 2 ^ 8 := by
    rw [Dy.natAbs_at]
    exact Nat.mul_le_mul_right _ (NFmt.signed_natAbs_le hf hcode hnan)
  have hdither : (Dy.at ⟨-(ditherOf k).m, -8⟩ (-8)).natAbs ≤ 127 := by
    have hm : (-(ditherOf k).m).natAbs ≤ 127 := show (-(2 * (k : Int) - 127)).natAbs ≤ 127 by omega
    rw [Dy.natAbs_at]
    exact Nat.mul_le_mul_right 1 hm
  rw [hadd]
  exact Nat.le_trans (Int.natAbs_add_le _ _) (Nat.add_le_add hscale hdither)

/-- Every code's exact value stays within the reach of its format. -/
theorem stepVal_natAbs_le {f : NFmt} {code k : Nat} (hcode : code < 2 ^ f.bits) (hk : k < 128) {x : Int}
    (h : stepVal f code k = some x) : x.natAbs ≤ f.reach := by
  cases f with
  | e4m3 => exact stepVal_e4m3_natAbs_le hcode hk h
  | int8 | int4 => exact stepVal_integer_natAbs_le (by decide) hcode hk h

/-! ### The bound of a sum (04 R119) -/

/-- A zero outside the frame or a code's value, read with zero for a NaN. -/
theorem operand_natAbs_le {f : NFmt} {x : Option Int}
    (h : x = some 0 ∨ ∃ code k, code < 2 ^ f.bits ∧ k < 128 ∧ x = stepVal f code k) : (x.getD 0).natAbs ≤ f.reach := by
  cases hx : x with
  | none => exact Nat.zero_le _
  | some y =>
    subst hx
    rcases h with h | ⟨code, k, hcode, hk, h⟩
    · cases h
      exact Nat.zero_le _
    · exact stepVal_natAbs_le hcode hk h.symm

theorem natAbs_sum_le_of_forall {l : List Int} {b : Nat} (h : ∀ x ∈ l, x.natAbs ≤ b) : l.sum.natAbs ≤ l.length * b := by
  induction l with
  | nil => simp
  | cons x l ih =>
    rw [List.forall_mem_cons] at h
    rw [List.sum_cons, List.length_cons, Nat.add_one_mul, Nat.add_comm (l.length * b)]
    exact Nat.le_trans (Int.natAbs_add_le _ _) (Nat.add_le_add h.1 (ih h.2))

/-- 128 products at the reach of both formats, in units of the pair, stay below 2^59: the table of 04 R119. -/
theorem reach_products_lt (fa fw : NFmt) :
    128 * (fa.reach * fw.reach) * 2 ^ (fa.step + fw.step - unitLog fa fw).toNat < 2 ^ 59 := by
  cases fa <;> cases fw <;> decide

/-- A word holds every sum below 2^59 as it is. -/
theorem toInt_ofInt_of_natAbs_lt {x : Int} (h : x.natAbs < 2 ^ 59) : (BitVec.ofInt 64 x).toInt = x :=
  BitVec.toInt_ofInt_eq_self (by decide) (by omega) (by omega)

theorem blockSum_natAbs_lt {fa fw : NFmt} {l : List (Option Int × Option Int)} (hlen : l.length = 128)
    (hl : ∀ x ∈ l, (x.1.getD 0).natAbs ≤ fa.reach ∧ (x.2.getD 0).natAbs ≤ fw.reach) :
    ((l.map pairProduct).sum * 2 ^ (fa.step + fw.step - unitLog fa fw).toNat).natAbs < 2 ^ 59 := by
  have hprod : ∀ y ∈ l.map pairProduct, y.natAbs ≤ fa.reach * fw.reach := by
    intro y hy
    obtain ⟨x, hx, rfl⟩ := List.mem_map.mp hy
    obtain ⟨h₁, h₂⟩ := hl x hx
    rw [pairProduct, Int.natAbs_mul]
    exact Nat.mul_le_mul h₁ h₂
  have hsum := natAbs_sum_le_of_forall hprod
  rw [List.length_map, hlen] at hsum
  rw [Int.natAbs_mul, Int.natAbs_pow]
  exact Nat.lt_of_le_of_lt (Nat.mul_le_mul_right _ hsum) (reach_products_lt fa fw)

theorem getD_mem {α : Type} {l : List α} {i : Nat} (d : α) (h : i < l.length) : l.getD i d ∈ l :=
  List.getElem_eq_getD (h := h) d ▸ List.getElem_mem h

theorem columnPairs_operands {fa fw : NFmt} {a : List (Option Int)} {w : List (List (Option Int))} (ha : a.length = 128)
    (hw : w.length = 128) (hrow : ∀ r ∈ w, r.length = 128) {c : Nat} (hc : c < 128) (hva : ∀ x ∈ a, (x.getD 0).natAbs ≤ fa.reach)
    (hvw : ∀ r ∈ w, ∀ x ∈ r, (x.getD 0).natAbs ≤ fw.reach) :
    ∀ x ∈ columnPairs a w c, (x.1.getD 0).natAbs ≤ fa.reach ∧ (x.2.getD 0).natAbs ≤ fw.reach := by
  intro x hx
  obtain ⟨k, hk, rfl⟩ := List.mem_map.mp hx
  rw [List.mem_range] at hk
  have hr : w.getD k [] ∈ w := getD_mem _ (hw ▸ hk)
  exact ⟨hva _ (getD_mem _ (ha ▸ hk)), hvw _ hr _ (getD_mem _ ((hrow _ hr).symm ▸ hc))⟩

/-- Settles O36: a column is the fold of its pairs, a NaN stays to the end of the fold, and 128 products within the reach of the formats
stay below 2^59. -/
theorem blockProductsAreExact : Obligations.BlockProductsAreExact := by
  unfold Obligations.BlockProductsAreExact
  intro sh a w ha hw hrow c hc nan sum
  have hcol := blockProduct_getD ha hw sh hrow hc
  have hexact : ¬nan → (blockProduct sh a w).getD c 0 = BitVec.ofInt 64 sum := by
    intro hn
    have hfree : ∀ x ∈ columnPairs a w c, ¬PairNan x := fun x hx hx' => hn ((columnPairs_nan_iff a w c).mp ⟨x, hx, hx'⟩)
    rw [hcol, foldl_accumulate_of_noNan 0 hfree, Int.zero_add, columnPairs_products]
    rfl
  refine ⟨fun hn => ?_, hexact, fun fa fw hfa hsh hva hvw hn => ?_⟩
  · rw [hcol, foldl_accumulate_of_nan _ ((columnPairs_nan_iff a w c).mpr hn)]
    rfl
  · have hops := columnPairs_operands ha hw hrow hc (fun x hx => operand_natAbs_le (by rw [NFmt.bits_eq_eight hfa]; exact hva x hx))
      fun r hr x hx => operand_natAbs_le (hvw r hr x hx)
    have hlt : sum.natAbs < 2 ^ 59 := by
      have h := blockSum_natAbs_lt (by rw [columnPairs, List.length_map, List.length_range]) hops
      rwa [columnPairs_products, ← hsh] at h
    exact ⟨by rw [hexact hn, toInt_ofInt_of_natAbs_lt hlt], by omega, by omega⟩

end Sys2Proof.Machine
end

section
/-!
SUPPORT. Proofs about ERET (11 R270): the rows of the decoder name instructions of their own major, which leaves ERET one word, and the
return from a handler.
-/
namespace Sys2Proof

/-- The major of the base word that the encoder gives an instruction (10 R239). -/
def Instr.major (i : Instr) : Nat := (fMajor ((encode i).getD 0 0)).toNat

/-- The middle field of three joined fields. -/
theorem extract_middle {n k j : Nat} (x : BitVec n) (y : BitVec k) (z : BitVec j) : (x ++ y ++ z).extractLsb' j k = y := by
  ext i hi
  simp only [BitVec.getElem_extractLsb', BitVec.getLsbD_append, Nat.not_lt_of_le (Nat.le_add_right j i), if_false,
    Nat.add_sub_cancel_left, hi, if_true, BitVec.getLsbD_eq_getElem]

/-! ### The majors of the encoder's base words (10 R239 to R247) -/

theorem packS_major (f : BitVec 4) (bk : BitVec 2) (opb : BitVec 8) (a d : R5) (m : BitVec 6) (len : BitVec 2) :
    (fMajor (packS f bk opb a d m len)).toNat = m.toNat := congrArg _ (extract_middle _ _ _)

theorem packV_major (f : BitVec 4) (ty : BitVec 2) (pg : BitVec 3) (b a d : R5) (m : BitVec 6) (len : BitVec 2) :
    (fMajor (packV f ty pg b a d m len)).toNat = m.toNat := congrArg _ (extract_middle _ _ _)

theorem packM_major (look : BitVec 4) (off : BitVec 3) (fr sx : BitVec 1) (sz : BitVec 2) (seg : BitVec 3) (base d : R5)
    (m : BitVec 6) (len : BitVec 2) : (fMajor (packM look off fr sx sz seg base d m len)).toNat = m.toNat :=
  congrArg _ (extract_middle _ _ _)

theorem packB_major (off : BitVec 11) (c : BitVec 3) (b a : R5) (m : BitVec 6) :
    (fMajor (packB off c b a m)).toNat = m.toNat := congrArg _ (extract_middle _ _ _)

theorem packJ_major (off : BitVec 19) (l : R5) (m : BitVec 6) : (fMajor (packJ off l m)).toNat = m.toNat :=
  congrArg _ (extract_middle _ _ _)

theorem Instr.major_ite {c : Prop} [Decidable c] {i j : Instr} {m : Nat} (hi : i.major = m) (hj : j.major = m) :
    (if c then i else j).major = m := by
  split <;> assumption

/-! ### The rows of a major (10 R249) -/

/-- What rows name is encoded under the major. -/
def RowsOf (m : Nat) (x : Option Plan) : Prop := ∀ p ∈ x, p.ins.major = m

theorem rowsOf_none (m : Nat) : RowsOf m none := by rintro _ ⟨⟩

theorem rowsOf_some {m : Nat} {p : Plan} (h : p.ins.major = m) : RowsOf m (some p) := by
  rintro _ ⟨⟩
  exact h

/-- Arithmetic, bit fields and jumps through registers (chapter 11). -/
theorem scalarRows_major (w : Words) :
    RowsOf 0x01 (plan01 w) ∧ RowsOf 0x02 (plan02 w) ∧ RowsOf 0x03 (plan03 w) ∧ RowsOf 0x0B (plan0B w) := by
  unfold plan01 plan02 plan03 plan0B
  refine ⟨?_, ?_, ?_, ?_⟩ <;> split <;> rintro _ ⟨⟩ <;> exact packS_major ..

/-- Memory, synchronisation, messages and engines (chapter 12). -/
theorem memoryRows_major (w : Words) :
    RowsOf 0x14 (plan14 w) ∧ RowsOf 0x15 (plan15 w) ∧ RowsOf 0x16 (plan16 w) ∧ RowsOf 0x18 (plan18 w) ∧ RowsOf 0x1A (plan1A w) ∧
    RowsOf 0x1B (plan1B w) ∧ RowsOf 0x1C (plan1C w) := by
  unfold plan14 plan15 plan16 plan18 plan1A plan1B plan1C
  refine ⟨?_, ?_, ?_, ?_, ?_, ?_, ?_⟩ <;> split <;> rintro _ ⟨⟩ <;> exact packS_major ..

/-- Random numbers, the matrix unit and contexts (chapters 13 to 15), where one field chooses the member. -/
theorem matrixContextRows_major (w : Words) :
    RowsOf 0x2E (plan2E w) ∧ RowsOf 0x33 (plan33 w) ∧ RowsOf 0x36 (plan36 w) ∧ RowsOf 0x38 (plan38 w) ∧ RowsOf 0x3B (plan3B w) := by
  unfold plan2E plan33 plan36 plan38 plan3B
  refine ⟨?_, ?_, ?_, ?_, ?_⟩ <;> split <;> rintro _ ⟨⟩ <;> exact packS_major ..

theorem vectorRows_major (w : Words) :
    RowsOf 0x20 (plan20 w) ∧ RowsOf 0x21 (plan21 w) ∧ RowsOf 0x22 (plan22 w) ∧ RowsOf 0x23 (plan23 w) ∧ RowsOf 0x24 (plan24 w) ∧
    RowsOf 0x25 (plan25 w) ∧ RowsOf 0x26 (plan26 w) ∧ RowsOf 0x27 (plan27 w) ∧ RowsOf 0x28 (plan28 w) ∧ RowsOf 0x2B (plan2B w) ∧
    RowsOf 0x2C (plan2C w) := by
  unfold plan20 plan21 plan22 plan23 plan24 plan25 plan26 plan27 plan28 plan2B plan2C
  refine ⟨?_, ?_, ?_, ?_, ?_, ?_, ?_, ?_, ?_, ?_, ?_⟩ <;> split <;> rintro _ ⟨⟩ <;> exact packV_major ..

theorem branchRows_major (w : Words) : RowsOf 0x08 (plan08 w) ∧ RowsOf 0x0C (plan0C w) := by
  unfold plan08 plan0C
  constructor <;> split <;> rintro _ ⟨⟩ <;> exact packB_major ..

/-- SETS and STEPGO share a function value. -/
theorem plan0D_major (w : Words) : RowsOf 0x0D (plan0D w) := by
  unfold plan0D
  split
  case h_7 => exact rowsOf_some (Instr.major_ite (packS_major ..) (packS_major ..))
  all_goals rintro _ ⟨⟩ <;> exact packS_major ..

/-- CPYR and its ordered form share a function value. -/
theorem plan19_major (w : Words) : RowsOf 0x19 (plan19 w) := by
  unfold plan19
  split
  case h_2 => exact rowsOf_some (Instr.major_ite (packS_major ..) (packS_major ..))
  all_goals rintro _ ⟨⟩ <;> exact packS_major ..

/-- The two forms of CTXRD share a function value. -/
theorem plan39_major (w : Words) : RowsOf 0x39 (plan39 w) := by
  unfold plan39
  split
  case h_2 => exact rowsOf_some (Instr.major_ite (packS_major ..) (packS_major ..))
  all_goals rintro _ ⟨⟩ <;> exact packS_major ..

/-- CTXREG and COMMITB have two forms each. -/
theorem plan3A_major (w : Words) : RowsOf 0x3A (plan3A w) := by
  unfold plan3A
  split
  case h_1 => split <;> exact rowsOf_some (packS_major ..)
  case h_2 => exact rowsOf_some (Instr.major_ite (packS_major ..) (packS_major ..))
  all_goals rintro _ ⟨⟩ <;> exact packS_major ..

theorem rowMstq_major (w : Words) : RowsOf 0x34 (rowMstq w) := by
  unfold rowMstq
  split <;> exact rowsOf_some (packS_major ..)

theorem plan34_major (w : Words) : RowsOf 0x34 (plan34 w) := by
  unfold plan34
  split
  case h_2 => exact rowMstq_major w
  all_goals rintro _ ⟨⟩ <;> exact packS_major ..

theorem rowVmem_major {w : Words} {store : Bool} {mk : VlA → Instr} {mkS : VStrA → Instr} {m : Nat} (hv : ∀ x, (mk x).major = m)
    (hs : ∀ x, (mkS x).major = m) : RowsOf m (rowVmem w store mk mkS) := by
  unfold rowVmem
  split
  · exact rowsOf_some (hv _)
  · exact rowsOf_some (hs _)

/-- Every row names instructions of its own major. -/
theorem plan_major (w : Words) : RowsOf (fMajor w.w0).toNat (plan w) := by
  obtain ⟨h01, h02, h03, h0B⟩ := scalarRows_major w
  obtain ⟨h14, h15, h16, h18, h1A, h1B, h1C⟩ := memoryRows_major w
  obtain ⟨h20, h21, h22, h23, h24, h25, h26, h27, h28, h2B, h2C⟩ := vectorRows_major w
  obtain ⟨h2E, h33, h36, h38, h3B⟩ := matrixContextRows_major w
  obtain ⟨h08, h0C⟩ := branchRows_major w
  have h0D := plan0D_major w
  have h19 := plan19_major w
  have h34 := plan34_major w
  have h39 := plan39_major w
  have h3A := plan3A_major w
  unfold plan
  split
  case h_53 => exact rowsOf_none _
  all_goals rename_i hm; rw [hm]
  case h_4 | h_5 | h_6 | h_7 | h_42 | h_43 | h_44 | h_47 => exact rowsOf_some (packS_major ..)
  case h_9 | h_10 => exact rowsOf_some (packJ_major ..)
  case h_14 | h_15 | h_16 | h_17 => exact rowsOf_some (packM_major ..)
  case h_21 => exact rowsOf_some (Instr.major_ite (packS_major ..) (packS_major ..))
  case h_36 | h_37 => exact rowVmem_major (fun _ => packV_major ..) (fun _ => packV_major ..)
  case h_40 => exact rowsOf_some (packV_major ..)
  all_goals assumption

/-! ### What decoding accepts (10 R253) -/

/-- One check of R253: what it fails is refused. -/
theorem Dec.check_eq_ok_iff {b : Bool} {c n : Nat} {x : Dec} {i : Instr} :
    (if b = true then .bad c n else x) = Dec.ok i ↔ b = false ∧ x = .ok i := by
  cases b with
  | false => simp only [Bool.false_eq_true, if_false, true_and]
  | true => simp only [if_true, reduceCtorEq, false_and]

theorem Plan.run_eq_ok_iff (p : Plan) (w : Words) (i : Instr) : p.run w = .ok i ↔
    p.look = false ∧ (p.bk && fBk w.w0 == 3 && !hasLit w.w0) = false ∧ (hasLit w.w0 && !p.useLit) = false ∧ p.r0 = false ∧
      p.v0 = false ∧ p.r1 = false ∧ p.v1 = false ∧ p.r2 = false ∧ p.v2 = false ∧ p.ins = i := by
  simp only [Plan.run, Dec.check_eq_ok_iff, Dec.ok.injEq]

/-- Words that go on to a row have a length that their major permits. -/
theorem decodeHead_eq_words {w0 : BitVec 32} {n : Nat} (h : decodeHead w0 = .words n) :
    lenOk (fMajor w0).toNat (fLen w0).toNat = true := by
  unfold decodeHead at h
  split at h
  · nomatch h
  · split at h
    · nomatch h
    · split at h
      · nomatch h
      · next hlen => simpa only [Bool.not_eq_true', Bool.not_eq_false] using hlen

/-- What decodes is the illegal instruction, or an instruction of a row of its own major, at a length which that major has. -/
theorem decodeWords_eq_ok {w : Words} {i : Instr} (h : decodeWords w = .ok i) :
    i = .illegalInstruction w.w0 ∨
      i.major = (fMajor w.w0).toNat ∧ lenOk i.major (fLen w.w0).toNat = true ∧ ∃ p ∈ plan w, p.run w = .ok i := by
  unfold decodeWords at h
  split at h
  case h_1 => exact .inl (Dec.ok.inj h).symm
  case h_2 => nomatch h
  case h_3 hhead =>
    split at h
    case h_1 => nomatch h
    case h_2 p hp =>
      obtain ⟨-, -, -, -, -, -, -, -, -, hins⟩ := (p.run_eq_ok_iff w i).mp h
      have hmajor : i.major = (fMajor w.w0).toNat := hins ▸ plan_major w p hp
      exact .inr ⟨hmajor, hmajor ▸ decodeHead_eq_words hhead, p, hp, h⟩

/-! ### ERET's word (11 R270) -/

theorem eret_major : Instr.eret.major = 0x0D := packS_major ..

/-- ERET has one row, in which no field but the function value may be set. -/
theorem plan_eret {w : Words} {p : Plan} (hp : p ∈ plan w) (hi : p.ins = .eret) :
    fFunc w.w0 = 7 ∧ p = planU w { r0 := nz w.w0 8 10, ins := .eret } := by
  have hplan : plan w = plan0D w := by
    have hmajor : (fMajor w.w0).toNat = 0x0D := (plan_major w p hp).symm.trans (hi ▸ eret_major)
    simp only [plan, hmajor]
  rw [hplan] at hp
  unfold plan0D at hp
  split at hp <;> cases hp
  case h_8 hfunc => exact ⟨hfunc, rfl⟩
  case h_7 => split at hi <;> nomatch hi
  all_goals nomatch hi

/-- ERET's base word, from its fields. -/
theorem eretWord_of_fields {w : BitVec 32} (hlen : fLen w = 0) (hmajor : fMajor w = 0x0D) (hregs : nz w 8 10 = false)
    (hopb : nz w 18 10 = false) (hfunc : fFunc w = 7) : w = 0x70000034 := by
  simp only [fLen, fMajor, fFunc, nz, fld, bne_eq_false_iff_eq, BitVec.toNat_eq, BitVec.extractLsb'_toNat,
    Nat.shiftRight_eq_div_pow, BitVec.ofNat_eq_ofNat, BitVec.toNat_ofNat] at *
  omega

theorem wordsOf_base (l : List (BitVec 32)) : (wordsOf l).w0 = l.getD 0 0 := by
  simp only [wordsOf]
  split <;> rfl

/-- Major 0x0D without a literal is one word. -/
theorem fLen_of_lenOk {w : BitVec 32} (h : lenOk 0x0D (fLen w).toNat = true) (hl : hasLit w = false) : fLen w = 0 := by
  unfold hasLit at hl
  generalize fLen w = len at *
  revert len
  decide

/-- 11 R270: ERET is the word 0x70000034 alone. -/
theorem decodeWords_eq_eret_iff (w : BitVec 32) : decodeWords (wordsOf [w]) = .ok .eret ↔ w = 0x70000034 := by
  constructor
  · intro h
    obtain hill | ⟨hmajor, hlen, p, hp, hrun⟩ := decodeWords_eq_ok h
    · nomatch hill
    · obtain ⟨-, -, hlit, hr0, -, -, -, -, -, hins⟩ := (p.run_eq_ok_iff _ _).mp hrun
      obtain ⟨hfunc, rfl⟩ := plan_eret hp hins
      simp only [wordsOf_base, List.getD_cons_zero, eret_major] at hmajor hlen hfunc
      simp only [planU, wordsOf_base, List.getD_cons_zero, Bool.not_false, Bool.and_true, Bool.or_eq_false_iff] at hlit hr0
      obtain ⟨hregs, hopb⟩ := hr0
      exact eretWord_of_fields (fLen_of_lenOk hlen hlit) (BitVec.eq_of_toNat_eq hmajor.symm) hregs hopb hfunc
  · rintro rfl
    decide

end Sys2Proof

namespace Sys2Proof.Machine

/-! ### ERET's effect (11 R270, R272) -/

/-- The thread behind an ERET: outside its handler, at TPC. -/
def Thread.returned (t : Thread) : Thread := { t.wentTo id t.tpc with inh := false }

/-- ERET returns from a handler when no forecast loop asks for another TPC (07 R205). -/
theorem Issuing.exec_eret {s : State} {t : Thread} (h : Issuing s t) (hinh : t.inh = true)
    (hloop : t.loop ≠ none → t.tpc = t.tpcd ∨ t.tpc = t.tpcd + w64 (s.lenAt t.tpcd)) : exec .eret s = .next s.eret := by
  have hrun : exec .eret s = execEret s := rfl
  have hstays : (t.looping && t.tpc != t.tpcd && t.tpc != t.tpcd + w64 (s.lenAt t.tpcd)) = false := by
    cases hl : t.loop with
    | none => simp only [Thread.looping, h.lane, hl, Option.isSome_none, Bool.or_self, Bool.false_and]
    | some l =>
      obtain hd | hn := hloop (hl ▸ Option.some_ne_none l)
      · simp only [hd, bne_self_eq_false, Bool.and_false, Bool.false_and]
      · simp only [← hn, bne_self_eq_false, Bool.and_false]
  rw [hrun, execEret, run_of_issuing h]
  simp only [h.me, hinh, hstays, Bool.not_true, Bool.false_eq_true, if_false]

/-- What the return leaves, by whether a thermal displacement waits for it. -/
theorem Issuing.eret_eq {s : State} {t : Thread} (h : Issuing s t) :
    s.eret = match t.displace with
      | none => s.upd Thread.returned
      | some c => (s.upd fun u => { u.returned with displace := none }).parkMe (.moving c false) := by
  have hme : (s.upd Thread.returned).me = t.returned := h.me_upd Thread.returned fun _ => rfl
  have heret : s.eret = match (s.upd Thread.returned).me.displace with
    | none => s.upd Thread.returned
    | some c => ((s.upd Thread.returned).upd fun u => { u with displace := none }).parkMe (.moving c false) := rfl
  have hdisplace : t.returned.displace = t.displace := rfl
  rw [heret, hme, hdisplace]
  cases t.displace with
  | none => rfl
  | some c => simp only [s.upd_upd Thread.returned _ fun _ => rfl]

/-- ERET outside a handler. -/
theorem Calm.exec_eret_outside {s : State} {t : Thread} (h : Calm s t) (hinh : t.inh = false) :
    exec .eret s = .next (s.trapped 3 0) := by
  have hrun : exec .eret s = execEret s := rfl
  rw [hrun, execEret, run_of_issuing h.toIssuing]
  simp only [h.me, hinh, Bool.not_false, if_true, h.illegalR_eq hinh]

/-- Settles O29: only ERET's row names ERET, and the return parks the thread where a displacement waits for it. -/
theorem eretReturns : Obligations.EretReturns := by
  unfold Obligations.EretReturns
  refine ⟨decodeWords_eq_eret_iff, fun s t h hinh hloop => ⟨fun hd => ?_, fun c hd => ?_⟩, fun s t h => h.exec_eret_outside⟩
  · rw [h.exec_eret hinh hloop, h.eret_eq, hd]
    rfl
  · rw [h.exec_eret hinh hloop, h.eret_eq, hd]
    rfl

end Sys2Proof.Machine
end
